-- ==== Sys2Proof/Word.lean ====
section
/-! DEFINITION. The words of the machine and the identifiers of its agents. -/

namespace Sys2Proof

/-- A byte of memory. -/
abbrev Byte := BitVec 8
/-- A 64-bit register or doubleword (R87). -/
abbrev Word := BitVec 64
/-- A 32-bit lane, word or instruction word (R21, R61). -/
abbrev Lane := BitVec 32

/-- Package number 0..63 (R25). -/
abbrev PkgId := Nat
/-- Die of the domain: 4 times the package plus the C-die (R25). -/
abbrev DieId := Nat
/-- Access core of the domain: 64 times the die plus the AC (R15). -/
abbrev CoreId := Nat
/-- Handler context of the domain: 16 times the core plus the context (R15). -/
abbrev CtxId := Nat

/-- The core that holds a context. -/
def coreOf (c : CtxId) : CoreId := c / 16
/-- The die that holds a core. -/
def dieOfCore (k : CoreId) : DieId := k / 64
/-- The die that holds a context. -/
def dieOf (c : CtxId) : DieId := c / 1024
/-- The package that holds a die. -/
def pkgOf (d : DieId) : PkgId := d / 4

end Sys2Proof
end

