-- ==== Sys2Proof/Config.lean ====
section
/-! DEFINITION. What the spec leaves to a computation it names and does not give: digests, signatures and the
fields of a firmware image. Each is an opaque constant with no body, so nothing can be proved of its value, and a
statement about the start holds whatever they are (log 9). -/

namespace Sys2Proof

/-- SHAKE256 of a byte string, as a number (R406, R407). -/
opaque Config.shake256 : List Byte → Nat
/-- The public key that an image carries, as the bytes whose digest R406 compares with the fuse PKH. -/
opaque Config.imageKey : List Byte → List Byte
/-- Whether an image's SLH-DSA-SHAKE-256s signature verifies under the key it carries (R406). -/
opaque Config.signatureOk : List Byte → Bool
/-- The security version an image states (R406). -/
opaque Config.imageSvn : List Byte → Nat
/-- The signature over an attestation report with the package's identity key (R407): of package and report. -/
opaque Config.identitySign : Nat → List Nat → Nat
/-- The package identity that a report holds (R407). -/
opaque Config.identity : Nat → Nat
/-- The M-level state that an image's firmware writes at stage 1 (R402): register number of the list DEFTVEC,
ASIDBASE, ROTBASE, CTCAP, RSCAP, EVBASE (0 to 5), of the die given, to its value. -/
opaque Config.firmwareWrites : List Byte → Nat → Nat → Nat
/-- The takeover table an image's firmware writes (R411): for a silent package, the taker and the network addresses. -/
opaque Config.takeover : List Byte → Nat → Option (Nat × List Nat)
/-- Whether an image's firmware configures a scale-up port as Yalzal, or as Ultra Ethernet (R409): a number whose bit tells it. -/
opaque Config.yalzalPorts : List Byte → BitVec 16

/-- The code field of an event record, for the model's number of the event's kind (R408 numbers none). -/
opaque Config.eventCode : Nat → Nat

/-- Which of the lines of a full L1, or of a full L2 slice, leaves for a new one: of the core (or 2^16 plus the die) and the
number of its evictions so far; taken modulo the number of lines. R131 speaks of a replacement order and no rule gives it (log 126). -/
opaque Config.victim : Nat → Nat → Nat

end Sys2Proof
end

