-- ==== Sys2Proof/Machine/Map.lean ====
section
/-! DEFINITION. Sparse maps and byte memory as plain sorted lists. A key that a map does not list reads as the
default given at the read. Memory is the list of `Host.Cell`s in one canonical form: addresses strictly rising and
no cell that equals what an unlisted address reads as (`Mem.blank`). -/

namespace Sys2Proof.Machine

/-- A sparse map from numbers, sorted by key. -/
abbrev SMap (α : Type) := List (Nat × α)

/-- The entry at a key, if listed. -/
def SMap.find {α : Type} : SMap α → Nat → Option α
  | [], _ => none
  | (k, v) :: m, q => if k = q then some v else SMap.find m q

/-- The entry at a key, or the default. -/
def SMap.getD {α : Type} (m : SMap α) (k : Nat) (d : α) : α := (SMap.find m k).getD d

/-- Writes an entry, keeping the keys sorted. -/
def SMap.set {α : Type} : SMap α → Nat → α → SMap α
  | [], q, w => [(q, w)]
  | (k, v) :: m, q, w =>
    if k = q then (q, w) :: m else if q < k then (q, w) :: (k, v) :: m else (k, v) :: SMap.set m q w

/-- Drops an entry. -/
def SMap.erase {α : Type} (m : SMap α) (k : Nat) : SMap α := m.filter (fun e => e.1 != k)

/-- The keys rise strictly. -/
def SMap.wf {α : Type} : SMap α → Bool
  | [] => true
  | [_] => true
  | (k, _) :: (k', v') :: m => decide (k < k') && SMap.wf ((k', v') :: m)

/-- What a byte of memory that nothing has written reads as: 0. The start zeroes the HBM (R402); for the other
spaces the model chooses 0 (log 2, DESIGN CHOICE). -/
def Mem.blank : BitVec 8 := 0

/-- The byte at an address. -/
def Mem.get : List Host.Cell → Nat → BitVec 8
  | [], _ => Mem.blank
  | (k, v) :: m, a => if k = a then v else if a < k then Mem.blank else Mem.get m a

/-- Writes one byte and keeps the canonical form: writing the blank value removes the cell. -/
def Mem.set : List Host.Cell → Nat → BitVec 8 → List Host.Cell
  | [], a, b => if b = Mem.blank then [] else [(a, b)]
  | (k, v) :: m, a, b =>
    if k = a then (if b = Mem.blank then m else (a, b) :: m)
    else if a < k then (if b = Mem.blank then (k, v) :: m else (a, b) :: (k, v) :: m)
    else (k, v) :: Mem.set m a b

/-- Every listed address is at least `lo`, the addresses rise strictly, and no cell holds the blank value. -/
def Mem.wfFrom : Nat → List Host.Cell → Bool
  | _, [] => true
  | lo, (k, v) :: m => decide (lo ≤ k) && decide (v ≠ Mem.blank) && Mem.wfFrom (k + 1) m

/-- The canonical form of a memory. -/
def Mem.wf (m : List Host.Cell) : Bool := Mem.wfFrom 0 m

/-- `n` bytes from an address upwards. -/
def Mem.bytes (m : List Host.Cell) (a : Nat) : Nat → List (BitVec 8)
  | 0 => []
  | n + 1 => Mem.get m a :: Mem.bytes m (a + 1) n

/-- Writes bytes from an address upwards. -/
def Mem.setBytes (m : List Host.Cell) (a : Nat) : List (BitVec 8) → List Host.Cell
  | [] => m
  | b :: bs => Mem.setBytes (Mem.set m a b) (a + 1) bs

/-- Bytes read as a little-endian number (R7). -/
def leNat : List (BitVec 8) → Nat
  | [] => 0
  | b :: bs => b.toNat + 256 * leNat bs

/-- The `n` low bytes of a number, little-endian (R7). -/
def leBytes : Nat → Nat → List (BitVec 8)
  | 0, _ => []
  | n + 1, v => BitVec.ofNat 8 v :: leBytes n (v / 256)

/-- Reads `n` bytes as a little-endian number: `Mem[ga, size]` of Table 0.3. -/
def Mem.read (m : List Host.Cell) (a n : Nat) : Nat := leNat (Mem.bytes m a n)

/-- Writes `n` bytes of a number, little-endian. -/
def Mem.write (m : List Host.Cell) (a n v : Nat) : List Host.Cell := Mem.setBytes m a (leBytes n v)

/-- The bits [lo+n-1:lo] of a number. -/
def bitsOf (v lo n : Nat) : Nat := v / 2 ^ lo % 2 ^ n

/-- Bit i of a number. -/
def bitOf (v i : Nat) : Bool := v / 2 ^ i % 2 == 1

/-- SignExt of Table 0.3: the low n bits of v, read as two's complement. -/
def signed (n v : Nat) : Int :=
  let u := v % 2 ^ n
  if u < 2 ^ (n - 1) then (u : Int) else (u : Int) - (2 ^ n : Nat)

/-- An integer as an n-bit pattern. -/
def unsig (n : Nat) (i : Int) : Nat := (i % ((2 ^ n : Nat) : Int)).toNat

/-- A Bool as 0 or 1. -/
def b2n (b : Bool) : Nat := if b then 1 else 0

/-- Increments that stop at the largest n-bit value (saturating counters). -/
def satAdd (n v k : Nat) : Nat := if v + k < 2 ^ n then v + k else 2 ^ n - 1

/-- Replaces the i-th member of a list. -/
def listSet {α : Type} : List α → Nat → α → List α
  | [], _, _ => []
  | _ :: l, 0, a => a :: l
  | b :: l, i + 1, a => b :: listSet l i a

/-- Drops the i-th member of a list. -/
def listDrop {α : Type} : List α → Nat → List α
  | [], _ => []
  | _ :: l, 0 => l
  | b :: l, i + 1 => b :: listDrop l i

/-- Nat to pattern. -/
def wordOf (n : Nat) : Word := BitVec.ofNat 64 n

end Sys2Proof.Machine
end

