-- ==== Sys2Proof/Syntax.lean ====
section
/-! DEFINITION. The whole instruction set: one constructor of `Instr` per row of the opcode table. The rows
that are words of an access core (R60 to R77) carry their operand fields; the rows that are steps of another
agent (an engine, a fabric site, an SA block, a message, the Purser, the host) carry the agent they happen at. -/

namespace Sys2Proof

/-- The predicate of a 32-bit word: PG names the register, PN asks for it to be false (R62). -/
structure Pred where
  pg : BitVec 3
  pn : Bool
deriving DecidableEq, Repr

/-- SZ of Table 3.5: 1, 2, 4 or 8 bytes. -/
inductive Size | b | h | w | d
deriving DecidableEq, Repr

/-- RT of Table 3.5. -/
inductive Rt | own | wt | si | uc
deriving DecidableEq, Repr

/-- ORD of Table 3.5. -/
inductive Ord | plain | acq | rel | acqrel
deriving DecidableEq, Repr

/-- SCOPE of Table 3.5. -/
inductive Scope | core | die | pkg | domain
deriving DecidableEq, Repr

/-- AOP of Table 3.5. -/
inductive AmoOp | swap | add | and | or | xor | min | max | cas
deriving DecidableEq, Repr

/-- The update operations of Table 5.4. -/
inductive UpdOp | addW | addD | addF32 | minW | maxW | orD | andD | xorD
deriving DecidableEq, Repr

/-- The operations of SCAT (Table 6.8): a plain store, or a delta. -/
inductive ScatOp | st | addW | addD | addF32 | minW | maxW | orD
deriving DecidableEq, Repr

/-- The kinds of FENCE (Table 3.11). -/
inductive FenceKind | full | acq | rel
deriving DecidableEq, Repr

/-- SEL of FTEND (R161): the value cursor, the coordinate cursor, both. -/
inductive CursorSel | v | c | vc
deriving DecidableEq, Repr

/-- A request for attestation (R407): its nonce; whether it comes from the host, or over the management port; whether it is
signed. -/
structure AttestRequest where
  nonce : List Byte
  fromHost : Bool
  signed : Bool
deriving DecidableEq, Repr

/-- One step of the machine: one constructor per row of spec/opcode_table.json. -/
inductive Instr
  -- block header, Table 3.3
  | hdr (rep : BitVec 12) (len : BitVec 10) (l e m : Bool)
  -- INT major, Table 3.10
  | add (p : Pred) (d a b : BitVec 5)
  | sub (p : Pred) (d a b : BitVec 5)
  | mul (p : Pred) (d a b : BitVec 5)
  | mulh (p : Pred) (d a b : BitVec 5)
  | mulhu (p : Pred) (d a b : BitVec 5)
  | div (p : Pred) (d a b : BitVec 5)
  | divu (p : Pred) (d a b : BitVec 5)
  | rem (p : Pred) (d a b : BitVec 5)
  | remu (p : Pred) (d a b : BitVec 5)
  | and (p : Pred) (d a b : BitVec 5)
  | or (p : Pred) (d a b : BitVec 5)
  | xor (p : Pred) (d a b : BitVec 5)
  | andn (p : Pred) (d a b : BitVec 5)
  | shl (p : Pred) (d a b : BitVec 5)
  | shr (p : Pred) (d a b : BitVec 5)
  | sar (p : Pred) (d a b : BitVec 5)
  | ror (p : Pred) (d a b : BitVec 5)
  | min (p : Pred) (d a b : BitVec 5)
  | max (p : Pred) (d a b : BitVec 5)
  | minu (p : Pred) (d a b : BitVec 5)
  | maxu (p : Pred) (d a b : BitVec 5)
  | clz (p : Pred) (d a : BitVec 5)
  | ctz (p : Pred) (d a : BitVec 5)
  | popc (p : Pred) (d a : BitVec 5)
  | bswap (p : Pred) (d a : BitVec 5)
  | sextB (p : Pred) (d a : BitVec 5)
  | sextH (p : Pred) (d a : BitVec 5)
  | sextW (p : Pred) (d a : BitVec 5)
  | zextW (p : Pred) (d a : BitVec 5)
  | bfins (p : Pred) (d a b : BitVec 5)
  | cmpEq (p : Pred) (pd : BitVec 3) (a b : BitVec 5)
  | cmpNe (p : Pred) (pd : BitVec 3) (a b : BitVec 5)
  | cmpLt (p : Pred) (pd : BitVec 3) (a b : BitVec 5)
  | cmpGe (p : Pred) (pd : BitVec 3) (a b : BitVec 5)
  | cmpLtu (p : Pred) (pd : BitVec 3) (a b : BitVec 5)
  | cmpGeu (p : Pred) (pd : BitVec 3) (a b : BitVec 5)
  | pand (p : Pred) (pd pa pb : BitVec 3)
  | por (p : Pred) (pd pa pb : BitVec 3)
  | pxor (p : Pred) (pd pa pb : BitVec 3)
  | pandn (p : Pred) (pd pa pb : BitVec 3)
  | mvpx (p : Pred) (d : BitVec 5) (pa : BitVec 3)
  | mvxp (p : Pred) (pd : BitVec 3) (a : BitVec 5)
  | jr (p : Pred) (a : BitVec 5)
  | callr (p : Pred) (d a b : BitVec 5)
  -- immediate majors, Table 3.9
  | addi (p : Pred) (d a : BitVec 5) (imm : BitVec 12)
  | andi (p : Pred) (d a : BitVec 5) (imm : BitVec 12)
  | ori (p : Pred) (d a : BitVec 5) (imm : BitVec 12)
  | xori (p : Pred) (d a : BitVec 5) (imm : BitVec 12)
  | shli (p : Pred) (d a : BitVec 5) (sh : BitVec 6)
  | shri (p : Pred) (d a : BitVec 5) (sh : BitVec 6)
  | sari (p : Pred) (d a : BitVec 5) (sh : BitVec 6)
  | rori (p : Pred) (d a : BitVec 5) (sh : BitVec 6)
  | cmpiEq (p : Pred) (pd : BitVec 3) (a : BitVec 5) (imm : BitVec 12)
  | cmpiNe (p : Pred) (pd : BitVec 3) (a : BitVec 5) (imm : BitVec 12)
  | cmpiLt (p : Pred) (pd : BitVec 3) (a : BitVec 5) (imm : BitVec 12)
  | cmpiLtu (p : Pred) (pd : BitVec 3) (a : BitVec 5) (imm : BitVec 12)
  | bfx (p : Pred) (d a : BitVec 5) (wm1 : BitVec 5) (pos : BitVec 6)
  | bfxs (p : Pred) (d a : BitVec 5) (wm1 : BitVec 5) (pos : BitVec 6)
  | li (p : Pred) (d : BitVec 5) (imm : BitVec 17)
  | imx (payload : BitVec 26)
  -- branches, R70
  | br (p : Pred) (disp : BitVec 22)
  | call (p : Pred) (disp : BitVec 22)
  | brq (p : Pred) (q : BitVec 4) (disp : BitVec 17)
  | brqN (p : Pred) (q : BitVec 4) (disp : BitVec 17)
  -- memory, R127 and R133
  | ld (p : Pred) (x : BitVec 5) (h : BitVec 4) (sz : Size) (rt : Rt) (ord : Ord) (off : BitVec 7)
  | st (p : Pred) (x : BitVec 5) (h : BitVec 4) (sz : Size) (rt : Rt) (ord : Ord) (off : BitVec 7)
  | ldx (p : Pred) (x : BitVec 5) (h : BitVec 4) (sz : Size) (rt : Rt) (ord : Ord) (ix : BitVec 5)
  | stx (p : Pred) (x : BitVec 5) (h : BitVec 4) (sz : Size) (rt : Rt) (ord : Ord) (ix : BitVec 5)
  | amo (p : Pred) (x : BitVec 5) (h : BitVec 4) (y : BitVec 5) (op : AmoOp) (dbl : Bool) (scope : Scope) (ord : Ord)
  -- MEM major, Table 3.11
  | xlat (p : Pred) (hd : BitVec 4) (a : BitVec 5)
  | xlatW (p : Pred) (hd : BitVec 4) (a : BitVec 5)
  | hmv (p : Pred) (hd ha : BitVec 4)
  | hrel (p : Pred) (ha : BitVec 4)
  | hspan (p : Pred) (d : BitVec 5) (ha : BitVec 4)
  | fence (p : Pred) (kind : FenceKind) (scope : Scope)
  | clean (p : Pred) (ha : BitVec 4) (b : BitVec 5)
  | invl (p : Pred) (ha : BitVec 4) (b : BitVec 5)
  | flushl (p : Pred) (ha : BitVec 4) (b : BitVec 5)
  | prefl (p : Pred) (ha : BitVec 4) (b : BitVec 5)
  | icinv (p : Pred)
  | hshoot (p : Pred) (a : BitVec 5)
  -- SYS major, Table 3.12
  | sendw (p : Pred) (a b : BitVec 5)
  | waitch (p : Pred) (d : BitVec 5)
  | yield (p : Pred)
  | endt (p : Pred)
  | launch (p : Pred) (d a : BitVec 5) (hb : BitVec 4)
  | barv (p : Pred) (a : BitVec 5)
  | barw (p : Pred) (a : BitVec 5)
  | trap (p : Pred) (n : BitVec 10)
  | bkpt (p : Pred)
  | reth (p : Pred)
  | bbh (p : Pred) (n : BitVec 8)
  | mfs (p : Pred) (d : BitVec 5) (sreg : BitVec 11)
  | mts (p : Pred) (sreg : BitVec 11) (a : BitVec 5)
  -- ENGQ major, Table 3.13
  | qputW (p : Pred) (q : BitVec 4) (x : BitVec 5)
  | qputD (p : Pred) (q : BitVec 4) (x : BitVec 5)
  | qputT (p : Pred) (q : BitVec 4) (x : BitVec 5)
  | qputEos (p : Pred) (q : BitVec 4)
  | qputEeos (p : Pred) (q : BitVec 4)
  | qpopW (p : Pred) (x : BitVec 5) (q : BitVec 4)
  | qpopD (p : Pred) (x : BitVec 5) (q : BitVec 4)
  | qpopT (p : Pred) (x : BitVec 5) (q : BitVec 4)
  | qpopSkip (p : Pred) (x : BitVec 5) (q : BitVec 4)
  | qflusht (p : Pred) (q : BitVec 4)
  | qstat (p : Pred) (x : BitVec 5) (q : BitVec 4)
  | bqpush (p : Pred) (q : BitVec 4) (x : BitVec 5)
  | bqpop (p : Pred) (x : BitVec 5) (q : BitVec 4)
  | upd (p : Pred) (op : UpdOp) (x : BitVec 5) (h : BitVec 4) (y : BitVec 5)
  | sopen (p : Pred) (s : BitVec 3) (x : BitVec 5)
  | spush (p : Pred) (s : BitVec 3) (q : BitVec 4) (x : BitVec 5)
  | sadv (p : Pred) (s : BitVec 3) (x : BitVec 5)
  | stend (p : Pred) (pd : BitVec 3) (s : BitVec 3)
  | sclose (p : Pred) (s : BitVec 3)
  | fopen (p : Pred) (f : BitVec 3) (x : BitVec 5)
  | fpush (p : Pred) (f : BitVec 3) (q : BitVec 4) (x : BitVec 5)
  | fadv (p : Pred) (f : BitVec 3) (x : BitVec 5)
  | ftend (p : Pred) (sel : CursorSel) (pd : BitVec 3) (f : BitVec 3)
  | fclose (p : Pred) (f : BitVec 3)
  | cpy (p : Pred) (tag : BitVec 6) (x : BitVec 5)
  | cpyS (p : Pred) (tag : BitVec 6) (x : BitVec 5)
  | wtany (p : Pred) (x y : BitVec 5)
  | wtall (p : Pred) (x y : BitVec 5)
  | ffr (p : Pred) (x y : BitVec 5)
  -- ENGX major, Table 3.14
  | gath (p : Pred) (e : Bool) (q : BitVec 4) (x y : BitVec 5)
  | gathq (p : Pred) (e : Bool) (q : BitVec 4) (x y : BitVec 5)
  | scat (p : Pred) (op : ScatOp) (h : BitVec 4) (x y : BitVec 5)
  | rgath (p : Pred) (e : Bool) (q : BitVec 4) (x y : BitVec 5)
  | nzscan (p : Pred) (pairs e : Bool) (q : BitVec 4) (x y : BitVec 5)
  | vopen (p : Pred) (y : BitVec 2) (h : BitVec 4) (x : BitVec 5)
  | ldc (p : Pred) (acq : Bool) (sz : Size) (x : BitVec 5) (y : BitVec 2) (c : BitVec 5)
  | stc (p : Pred) (rel : Bool) (sz : Size) (x : BitVec 5) (y : BitVec 2) (c : BitVec 5)
  | updc (p : Pred) (op : UpdOp) (x : BitVec 5) (y : BitVec 2) (c : BitVec 5)
  | vpush (p : Pred) (q : BitVec 4) (y : BitVec 2) (c : BitVec 5)
  | vprobe (p : Pred) (x : BitVec 5) (y : BitVec 2) (c : BitVec 5)
  | vfree (p : Pred) (y : BitVec 2) (c : BitVec 5)
  | vclose (p : Pred) (y : BitVec 2)
  | vshoot (p : Pred) (a : BitVec 5)
  -- ENGB major, Table 3.15
  | bopen (p : Pred) (d : BitVec 2) (x : BitVec 5)
  | bst (p : Pred) (d : BitVec 2) (sz : Size) (x : BitVec 5) (h : BitVec 4) (y : BitVec 5)
  | bclose (p : Pred) (d : BitVec 2) (tag : BitVec 6)
  | babort (p : Pred) (d : BitVec 2)
  | rgbeg (p : Pred)
  | rgend (p : Pred) (x : BitVec 5)
  | mq (p : Pred) (x : BitVec 5)
  | mqNb (p : Pred) (pd : BitVec 3) (x : BitVec 5)
  | mqcan (p : Pred) (f : BitVec 4) (x : BitVec 5)
  | waitb (p : Pred) (b : BitVec 4) (x : BitVec 5)
  -- 16-bit words, Table 3.2
  | hint (c : BitVec 11)
  | mvs (d a : BitVec 5)
  | adds (d : BitVec 5) (imm : BitVec 6)
  | lis (d : BitVec 5) (imm : BitVec 6)
  | qputs (q : BitVec 4) (a : BitVec 5)
  | qpops (d : BitVec 5) (q : BitVec 4)
  -- a word that is no instruction
  | badop (w : Lane)
  -- steps between words and of the memory system
  | timerTrap (c : CtxId)
  | storePerform (c : CtxId) (i : Nat)
  | ownershipTransfer (d : DieId) (region : Nat)
  | hostAccess (p : PkgId) (ga : Word) (n : Nat) (write : Option Word)
  | forcedPublish (line : Nat) (reader : CoreId)
  | copyRequest (k : CoreId) (tag : BitVec 6)
  | streamRead (c : CtxId) (s : BitVec 3)
  | fibreRead (c : CtxId) (f : BitVec 3)
  | gathRow (k : CoreId) (i : Nat)
  | gathqIndex (k : CoreId) (i : Nat)
  | scatRow (k : CoreId) (i : Nat)
  | rgathReply (k : CoreId) (i row : Nat)
  | nzscanAppend (k : CoreId) (i : Nat)
  | watchReportLatch (c : CtxId) (n : BitVec 2)
  | watchReportTake (c : CtxId)
  | counterCacheTimeout (k : CoreId) (i : Nat)
  -- channels, dispatch, progress
  | channelWordArrival (k : CoreId) (ch : BitVec 6) (word : Lane)
  | handlerStart (k : CoreId) (ctx : BitVec 4)
  | handlerTableWrite (k : CoreId) (ch : BitVec 6) (word1 : Bool) (v : Word)
  | groupPlace (d : DieId)
  | taskComplete (c : CtxId)
  | chainToken (c : CtxId) (e : Nat)
  | quietWindowComplete (d : DieId) (asid : BitVec 16)
  | lodEvent (c : CtxId)
  | qtimeo (c : CtxId)
  | bstConflictTimeout (c : CtxId)
  | pairTimeout (c : CtxId) (sa : Nat)
  -- matrix commands, Table 3.18: the SA of a region performs the command at the head of its queue
  | mzero (c : CtxId) (sa : Nat)
  | mloadb (c : CtxId) (sa : Nat)
  | mmul (c : CtxId) (sa : Nat)
  | mmulp (c : CtxId) (sa : Nat)
  | mread (c : CtxId) (sa : Nat)
  | mbar (c : CtxId) (sa : Nat)
  | mrddiag (c : CtxId) (sa : Nat)
  | aPortEos (c : CtxId) (sa port : Nat)
  | refreshWindowStart (d : DieId) (g : BitVec 4)
  | refreshWindowEnd (d : DieId) (g : BitVec 4)
  -- fabric operators, Table 3.23: the site (col, row) of the region of context c's task fires
  | fabricAdd (c : CtxId) (col row : Nat)
  | fabricSub (c : CtxId) (col row : Nat)
  | fabricMul (c : CtxId) (col row : Nat)
  | fabricFma (c : CtxId) (col row : Nat)
  | fabricFms (c : CtxId) (col row : Nat)
  | fabricNeg (c : CtxId) (col row : Nat)
  | fabricAbs (c : CtxId) (col row : Nat)
  | fabricMin (c : CtxId) (col row : Nat)
  | fabricMax (c : CtxId) (col row : Nat)
  | fabricAnd (c : CtxId) (col row : Nat)
  | fabricOr (c : CtxId) (col row : Nat)
  | fabricXor (c : CtxId) (col row : Nat)
  | fabricNot (c : CtxId) (col row : Nat)
  | fabricShl (c : CtxId) (col row : Nat)
  | fabricShr (c : CtxId) (col row : Nat)
  | fabricSar (c : CtxId) (col row : Nat)
  | fabricMulhi (c : CtxId) (col row : Nat)
  | fabricCmpeq (c : CtxId) (col row : Nat)
  | fabricCmpne (c : CtxId) (col row : Nat)
  | fabricCmplt (c : CtxId) (col row : Nat)
  | fabricCmple (c : CtxId) (col row : Nat)
  | fabricClass (c : CtxId) (col row : Nat)
  | fabricClamp (c : CtxId) (col row : Nat)
  | fabricBcast (c : CtxId) (col row : Nat)
  | fabricRsum (c : CtxId) (col row : Nat)
  | fabricRmax (c : CtxId) (col row : Nat)
  | fabricRmin (c : CtxId) (col row : Nat)
  | fabricShuf (c : CtxId) (col row : Nat)
  | fabricRotl (c : CtxId) (col row : Nat)
  | fabricPack (c : CtxId) (col row : Nat)
  | fabricUnpk (c : CtxId) (col row : Nat)
  | fabricCadd (c : CtxId) (col row : Nat)
  | fabricPopc (c : CtxId) (col row : Nat)
  | fabricClz (c : CtxId) (col row : Nat)
  | fabricRint (c : CtxId) (col row : Nat)
  | fabricCopysign (c : CtxId) (col row : Nat)
  | fabricLaneid (c : CtxId) (col row : Nat)
  | fabricRscan (c : CtxId) (col row : Nat)
  | fabricAbsdiff (c : CtxId) (col row : Nat)
  | fabricCvt (c : CtxId) (col row : Nat)
  | fabricCvtBf16 (c : CtxId) (col row : Nat)
  | fabricCvtFp16 (c : CtxId) (col row : Nat)
  | fabricCvtI8 (c : CtxId) (col row : Nat)
  | fabricCvtSdbDecode (c : CtxId) (col row : Nat)
  | fabricCvtSdbEncode (c : CtxId) (col row : Nat)
  | fabricExp2 (c : CtxId) (col row : Nat)
  | fabricRcp (c : CtxId) (col row : Nat)
  | fabricRsq (c : CtxId) (col row : Nat)
  | fabricSig (c : CtxId) (col row : Nat)
  | fabricSel (c : CtxId) (col row : Nat)
  | fabricSteer (c : CtxId) (col row : Nat)
  | fabricMerge (c : CtxId) (col row : Nat)
  | fabricCarry (c : CtxId) (col row : Nat)
  | fabricInvar (c : CtxId) (col row : Nat)
  | fabricCtr (c : CtxId) (col row : Nat)
  | fabricDrop (c : CtxId) (col row : Nat)
  | fabricSink (c : CtxId) (col row : Nat)
  | fabricEosgen (c : CtxId) (col row : Nat)
  | fabricFilt (c : CtxId) (col row : Nat)
  | fabricOnce (c : CtxId) (col row : Nat)
  | fabricQpop (c : CtxId) (col row : Nat)
  | fabricQpush (c : CtxId) (col row : Nat)
  | fabricBqpush (c : CtxId) (col row : Nat)
  | fabricQpeek (c : CtxId) (col row : Nat)
  | fabricBuf (c : CtxId) (col row : Nat)
  | fabricRoute (c : CtxId) (col row : Nat)
  | fabricSafeed (c : CtxId) (col row : Nat)
  | fabricSaread (c : CtxId) (col row : Nat)
  | fabricNorm (c : CtxId) (col row : Nat)
  | fabricTrace (c : CtxId) (col row : Nat)
  | fabricTrcnt (c : CtxId) (col row : Nat)
  -- the Shawm
  | shawmWalk (d : DieId) (i : Nat)
  | poolPop (d : DieId) (i : Nat)
  | poolPush (d : DieId) (i : Nat)
  -- bundle messages: the i-th message in flight is delivered
  | join (i : Nat)
  | jack (i : Nat)
  | reg (i : Nat)
  | rack (i : Nat)
  | close (i : Nat)
  | prepare (i : Nat)
  | prepared (i : Nat)
  | commit (i : Nat)
  | committed (i : Nat)
  | abort (i : Nat)
  | aborted (i : Nat)
  -- coherence messages: of die d for one line, or the i-th message in flight
  | rdo (d : DieId) (line : Nat)
  | fwd (i : Nat)
  | ack (i : Nat)
  | data (i : Nat)
  | upg (d : DieId) (line : Nat)
  | inv (i : Nat)
  | iack (i : Nat)
  | gnt (i : Nat)
  | evc (d : DieId) (line : Nat)
  | wb (d : DieId) (line : Nat)
  | nocopy (i : Nat)
  -- pre-emption and agent registers
  | pmctlPreempt (d : DieId)
  | preemptDrainEnd (d : DieId)
  | pmdlExpiry (d : DieId)
  | pmctlFreeze (d : DieId)
  | freezeComplete (d : DieId)
  | pmctlResume (d : DieId)
  | pmctlWait (c : CtxId) (d : DieId) (x : BitVec 5)
  | ltfill (d : DieId)
  | ltstat (c : CtxId) (x : BitVec 5)
  | resctlRetry (d : DieId)
  | resctlAbandon (d : DieId)
  | mctlGo (d : DieId)
  | mctlWait (c : CtxId) (d : DieId) (x : BitVec 5)
  | mctlEnd (d : DieId)
  | hctlClear (k : CoreId)
  | plpush (c : CtxId) (d : DieId) (v : Word)
  | plstat (c : CtxId) (d : DieId) (x : BitVec 5)
  | cscrub (d : DieId) (v : Word)
  | dclrv (c : CtxId) (d : DieId) (x : BitVec 5)
  | ccflush (k : CoreId)
  | ccflushWait (c : CtxId) (k : CoreId) (x : BitVec 5)
  | fstoprq (d : DieId) (v : Word)
  | fabricStop (d : DieId)
  | trbaseWrite (d : DieId) (v : Word)
  | counterClear (d : DieId) (off : Nat)
  | reportWindowFree (d : DieId) (w : BitVec 3)
  | registerWrite (d : DieId) (off : Nat) (v : Word)
  -- the package
  | powerOn (p : PkgId)
  | firmwareLoad (p : PkgId)
  | doorbell (p : PkgId) (image : List Byte)
  | firmwareTimeout (p : PkgId)
  | hbmStackStart (p : PkgId) (ok : Bool)
  | cdieStart (p : PkgId) (ok : Bool)
  | acGroupStart (p : PkgId) (ok : Bool)
  | parcelStart (p : PkgId) (ok : Bool)
  | attestationRequest (p : PkgId) (req : AttestRequest)
  | svnRaise (p : PkgId) (svn : BitVec 16) (signed : Bool)
  | eventRecord (p : PkgId)
  | bugleBeatSend (p neighbour : PkgId)
  | bugleBeatReceive (p neighbour : PkgId)
  | beatMiss (p neighbour : PkgId)
  | packageFence (p silent : PkgId)
  | thermalThrottle (p : PkgId) (die : BitVec 2) (celsius watts : Nat)
  | thermalShutdown (p : PkgId) (die : BitVec 2) (celsius : Nat)
  | mgmtPortAccess (d : DieId) (off : Nat) (write : Option Word)
  | mgmtTimeout (p : PkgId) (d : DieId)
  | packageRejoin (p : PkgId)
deriving DecidableEq, Repr

end Sys2Proof
end

