-- ==== Sys2Proof/WellFormed.lean ====
section
/-! DEFINITION. Which instructions the encodings allow: the value constraints of R69, R71, R73, R76, R127 and R163
that the operand fields of a word must meet, besides their widths. A row that is no word of an access core is
always well formed. -/

namespace Sys2Proof

/-- A register number is a multiple of 2, 4 or 8 (R77: a misaligned pair or group is BADOP). -/
def regMul (n : Nat) (r : BitVec 5) : Bool := r.toNat % n == 0

/-- The constraints on operand values. -/
def Instr.wellFormed : Instr → Bool
  | .bfx _ _ _ wm1 pos => decide (pos.toNat + (wm1.toNat + 1) ≤ 64)
  | .bfxs _ _ _ wm1 pos => decide (pos.toNat + (wm1.toNat + 1) ≤ 64)
  | .ld _ _ _ _ _ ord _ => ord == .plain || ord == .acq
  | .ldx _ _ _ _ _ ord _ => ord == .plain || ord == .acq
  | .st _ _ _ _ _ ord _ => ord == .plain || ord == .rel
  | .stx _ _ _ _ _ ord _ => ord == .plain || ord == .rel
  | .amo _ x _ _ op _ _ _ => op != .cas || regMul 2 x
  | .qputT _ _ x => regMul 8 x
  | .qpopT _ x _ => regMul 8 x
  | .sopen _ _ x => regMul 4 x
  | .fopen _ _ x => regMul 4 x
  | .cpy _ _ x => regMul 4 x
  | .cpyS _ _ x => regMul 4 x
  | .gath _ _ _ x _ => regMul 4 x
  | .gathq _ _ _ x _ => regMul 4 x
  | .scat _ _ _ x _ => regMul 4 x
  | .rgath _ _ _ x _ => regMul 4 x
  | .nzscan _ _ _ _ x _ => regMul 4 x
  | .mq _ x => regMul 2 x
  | .mqNb _ _ x => regMul 2 x
  | _ => true

end Sys2Proof
end

