-- ==== Sys2Proof/Decode.lean ====
section
/-! DEFINITION. The decoder of access-core words (R60 to R77, Tables 3.2 to 3.15), total on any bytes and rejecting
by name, and after it the encoder, written from the same tables. -/

namespace Sys2Proof

open Machine (bitsOf)

/-- Why bytes are no instruction. Each is BADOP at the word (R77, R86), but `short`, which only the caller of the
decoder can meet. -/
inductive DecodeError
  /-- fewer bytes than the word needs -/
  | short
  /-- MAJ 24 to 31, or MAJ16 6 to 15 -/
  | major
  /-- an FN or SUB that its table lacks -/
  | function
  /-- a field marked 0 or reserved holds a nonzero value -/
  | reserved
  /-- a value that the row rejects -/
  | value
  /-- a misaligned register pair or group -/
  | misaligned
deriving DecidableEq, Repr

/-- A field of a word: n bits from bit lo. -/
abbrev fld (w lo n : Nat) : BitVec n := BitVec.ofNat n (w / 2 ^ lo)

/-- The predicate of a 32-bit word (Table 3.1). -/
def predOf (w : Nat) : Pred := ⟨fld w 6 3, bitsOf w 9 1 == 1⟩

/-- Accepts an instruction whose operand values are admitted. -/
def acceptIf (i : Instr) (e : DecodeError) : Except DecodeError Instr :=
  if i.wellFormed then .ok i else .error e

/-- Accepts when the fields marked 0 are 0. -/
def ifZero (n : Nat) (r : Except DecodeError Instr) : Except DecodeError Instr :=
  if n = 0 then r else .error .reserved

/-- SZ of Table 3.5. -/
def sizeOf : Nat → Size | 0 => .b | 1 => .h | 2 => .w | _ => .d
/-- RT of Table 3.5. -/
def rtOf : Nat → Rt | 0 => .own | 1 => .wt | 2 => .si | _ => .uc
/-- ORD of Table 3.5. -/
def ordOf : Nat → Ord | 0 => .plain | 1 => .acq | 2 => .rel | _ => .acqrel
/-- SCOPE of Table 3.5. -/
def scopeOf : Nat → Scope | 0 => .core | 1 => .die | 2 => .pkg | _ => .domain
/-- AOP of Table 3.5. -/
def aopOf : Nat → AmoOp
  | 0 => .swap | 1 => .add | 2 => .and | 3 => .or | 4 => .xor | 5 => .min | 6 => .max | _ => .cas
/-- The update operation K of Table 5.4. -/
def updOf : Nat → UpdOp
  | 0 => .addW | 1 => .addD | 2 => .addF32 | 3 => .minW | 4 => .maxW | 5 => .orD | 6 => .andD | _ => .xorD
/-- The scatter operation K of Table 6.8; 7 is BADOP. -/
def scatOf : Nat → Option ScatOp
  | 0 => some .st | 1 => some .addW | 2 => some .addD | 3 => some .addF32 | 4 => some .minW | 5 => some .maxW
  | 6 => some .orD | _ => none

/-- The block header (Table 3.3). Bit 9 is reserved, and the header with it set is no header (R65). -/
def decHdr (w : Nat) : Except DecodeError Instr :=
  ifZero (bitsOf w 9 1)
    (.ok (.hdr (fld w 20 12) (fld w 10 10) (bitsOf w 8 1 == 1) (bitsOf w 7 1 == 1) (bitsOf w 6 1 == 1)))

/-- The INT major (Table 3.10). -/
def decInt (w : Nat) : Except DecodeError Instr :=
  let p := predOf w
  let d : BitVec 5 := fld w 10 5
  let a : BitVec 5 := fld w 15 5
  let b : BitVec 5 := fld w 20 5
  let pd : BitVec 3 := fld w 10 3
  let pa : BitVec 3 := fld w 15 3
  let pb : BitVec 3 := fld w 20 3
  match bitsOf w 25 7 with
  | 0 => .ok (.add p d a b)
  | 1 => .ok (.sub p d a b)
  | 2 => .ok (.mul p d a b)
  | 3 => .ok (.mulh p d a b)
  | 4 => .ok (.mulhu p d a b)
  | 5 => .ok (.div p d a b)
  | 6 => .ok (.divu p d a b)
  | 7 => .ok (.rem p d a b)
  | 8 => .ok (.remu p d a b)
  | 16 => .ok (.and p d a b)
  | 17 => .ok (.or p d a b)
  | 18 => .ok (.xor p d a b)
  | 19 => .ok (.andn p d a b)
  | 20 => .ok (.shl p d a b)
  | 21 => .ok (.shr p d a b)
  | 22 => .ok (.sar p d a b)
  | 23 => .ok (.ror p d a b)
  | 24 => .ok (.min p d a b)
  | 25 => .ok (.max p d a b)
  | 26 => .ok (.minu p d a b)
  | 27 => .ok (.maxu p d a b)
  | 32 => ifZero (bitsOf w 20 5) (.ok (.clz p d a))
  | 33 => ifZero (bitsOf w 20 5) (.ok (.ctz p d a))
  | 34 => ifZero (bitsOf w 20 5) (.ok (.popc p d a))
  | 35 => ifZero (bitsOf w 20 5) (.ok (.bswap p d a))
  | 36 => ifZero (bitsOf w 20 5) (.ok (.sextB p d a))
  | 37 => ifZero (bitsOf w 20 5) (.ok (.sextH p d a))
  | 38 => ifZero (bitsOf w 20 5) (.ok (.sextW p d a))
  | 39 => ifZero (bitsOf w 20 5) (.ok (.zextW p d a))
  | 0x28 => .ok (.bfins p d a b)
  | 48 => ifZero (bitsOf w 13 2) (.ok (.cmpEq p pd a b))
  | 49 => ifZero (bitsOf w 13 2) (.ok (.cmpNe p pd a b))
  | 50 => ifZero (bitsOf w 13 2) (.ok (.cmpLt p pd a b))
  | 51 => ifZero (bitsOf w 13 2) (.ok (.cmpGe p pd a b))
  | 52 => ifZero (bitsOf w 13 2) (.ok (.cmpLtu p pd a b))
  | 53 => ifZero (bitsOf w 13 2) (.ok (.cmpGeu p pd a b))
  | 56 => ifZero (bitsOf w 13 2 + bitsOf w 18 2 + bitsOf w 23 2) (.ok (.pand p pd pa pb))
  | 57 => ifZero (bitsOf w 13 2 + bitsOf w 18 2 + bitsOf w 23 2) (.ok (.por p pd pa pb))
  | 58 => ifZero (bitsOf w 13 2 + bitsOf w 18 2 + bitsOf w 23 2) (.ok (.pxor p pd pa pb))
  | 59 => ifZero (bitsOf w 13 2 + bitsOf w 18 2 + bitsOf w 23 2) (.ok (.pandn p pd pa pb))
  | 0x3C => ifZero (bitsOf w 18 2 + bitsOf w 20 5) (.ok (.mvpx p d pa))
  | 0x3D => ifZero (bitsOf w 13 2 + bitsOf w 20 5) (.ok (.mvxp p pd a))
  | 0x40 => ifZero (bitsOf w 10 5 + bitsOf w 20 5) (.ok (.jr p a))
  | 0x41 => .ok (.callr p d a b)
  | _ => .error .function

/-- The immediate majors 2 to 9 (Table 3.9). -/
def decImm (maj w : Nat) : Except DecodeError Instr :=
  let p := predOf w
  let d : BitVec 5 := fld w 10 5
  let a : BitVec 5 := fld w 15 5
  let imm : BitVec 12 := fld w 20 12
  let sh : BitVec 6 := fld w 20 6
  let pd : BitVec 3 := fld w 10 3
  match maj with
  | 2 => .ok (.addi p d a imm)
  | 3 => .ok (.andi p d a imm)
  | 4 => .ok (.ori p d a imm)
  | 5 => .ok (.xori p d a imm)
  | 6 => ifZero (bitsOf w 28 4) (match bitsOf w 26 2 with
    | 0 => .ok (.shli p d a sh)
    | 1 => .ok (.shri p d a sh)
    | 2 => .ok (.sari p d a sh)
    | _ => .ok (.rori p d a sh))
  | 7 => (match bitsOf w 13 2 with
    | 0 => .ok (.cmpiEq p pd a imm)
    | 1 => .ok (.cmpiNe p pd a imm)
    | 2 => .ok (.cmpiLt p pd a imm)
    | _ => .ok (.cmpiLtu p pd a imm))
  | 8 =>
    if bitsOf w 31 1 = 0 then acceptIf (.bfx p d a (fld w 26 5) (fld w 20 6)) .value
    else acceptIf (.bfxs p d a (fld w 26 5) (fld w 20 6)) .value
  | _ => .ok (.li p d (fld w 15 17))

/-- The memory majors 14 to 17 (R69, Table 3.5), with the ORD values that R127 admits. -/
def decMem (maj w : Nat) : Except DecodeError Instr :=
  let p := predOf w
  let x : BitVec 5 := fld w 10 5
  let h : BitVec 4 := fld w 15 4
  let sz := sizeOf (bitsOf w 19 2)
  let rt := rtOf (bitsOf w 21 2)
  let ord := ordOf (bitsOf w 23 2)
  match maj with
  | 14 => acceptIf (.ld p x h sz rt ord (fld w 25 7)) .value
  | 15 => acceptIf (.st p x h sz rt ord (fld w 25 7)) .value
  | 16 =>
    ifZero (bitsOf w 31 1)
      (if bitsOf w 30 1 = 0 then acceptIf (.ldx p x h sz rt ord (fld w 25 5)) .value
       else acceptIf (.stx p x h sz rt ord (fld w 25 5)) .value)
  | _ =>
    acceptIf (.amo p x h (fld w 19 5) (aopOf (bitsOf w 24 3)) (bitsOf w 27 1 == 1) (scopeOf (bitsOf w 28 2))
      (ordOf (bitsOf w 30 2))) .misaligned

/-- The MEM major (Table 3.11). -/
def decMemFn (w : Nat) : Except DecodeError Instr :=
  let p := predOf w
  let d := bitsOf w 10 5
  let a := bitsOf w 15 5
  let b := bitsOf w 20 5
  let hd : BitVec 4 := fld w 10 4
  let ha : BitVec 4 := fld w 15 4
  let rb : BitVec 5 := fld w 20 5
  match bitsOf w 25 7 with
  | 0x00 => ifZero (b + d / 16) (.ok (.xlat p hd (fld w 15 5)))
  | 0x01 => ifZero (b + d / 16) (.ok (.xlatW p hd (fld w 15 5)))
  | 0x02 => ifZero (b + d / 16 + a / 16) (.ok (.hmv p hd ha))
  | 0x03 => ifZero (b + d + a / 16) (.ok (.hrel p ha))
  | 0x04 => ifZero (b + a / 16) (.ok (.hspan p (fld w 10 5) ha))
  | 0x08 =>
    ifZero (d + a + b / 16)
      (match bitsOf w 22 2 with
       | 0 => .ok (.fence p .full (scopeOf (bitsOf w 20 2)))
       | 1 => .ok (.fence p .acq (scopeOf (bitsOf w 20 2)))
       | 2 => .ok (.fence p .rel (scopeOf (bitsOf w 20 2)))
       | _ => .error .value)
  | 0x10 => ifZero (d + a / 16) (.ok (.clean p ha rb))
  | 0x11 => ifZero (d + a / 16) (.ok (.invl p ha rb))
  | 0x12 => ifZero (d + a / 16) (.ok (.flushl p ha rb))
  | 0x13 => ifZero (d + a / 16) (.ok (.prefl p ha rb))
  | 0x14 => ifZero (d + a + b) (.ok (.icinv p))
  | 0x18 => ifZero (d + b) (.ok (.hshoot p (fld w 15 5)))
  | _ => .error .function

/-- The SYS major (Table 3.12). -/
def decSys (w : Nat) : Except DecodeError Instr :=
  let p := predOf w
  let d := bitsOf w 10 5
  let a := bitsOf w 15 5
  let b := bitsOf w 20 5
  let rd : BitVec 5 := fld w 10 5
  let ra : BitVec 5 := fld w 15 5
  match bitsOf w 25 7 with
  | 0x00 => ifZero d (.ok (.sendw p ra (fld w 20 5)))
  | 0x01 => ifZero (a + b) (.ok (.waitch p rd))
  | 0x02 => ifZero (d + a + b) (.ok (.yield p))
  | 0x03 => ifZero (d + a + b) (.ok (.endt p))
  | 0x04 => ifZero (b / 16) (.ok (.launch p rd ra (fld w 20 4)))
  | 0x05 => ifZero (d + b) (.ok (.barv p ra))
  | 0x06 => ifZero (d + b) (.ok (.barw p ra))
  | 0x10 => ifZero d (.ok (.trap p (fld w 15 10)))
  | 0x11 => ifZero (d + a + b) (.ok (.bkpt p))
  | 0x12 => ifZero (d + a + b) (.ok (.reth p))
  | 0x20 => ifZero (d + b / 8) (.ok (.bbh p (fld w 15 8)))
  | _ => .error .function

/-- The SR major: MFS and MTS (Table 3.9). -/
def decSr (w : Nat) : Except DecodeError Instr :=
  let p := predOf w
  if bitsOf w 31 1 = 0 then ifZero (bitsOf w 15 5) (.ok (.mfs p (fld w 10 5) (fld w 20 11)))
  else ifZero (bitsOf w 10 5) (.ok (.mts p (fld w 20 11) (fld w 15 5)))

/-- The ENGQ major (Table 3.13). -/
def decEngq (w : Nat) : Except DecodeError Instr :=
  let p := predOf w
  let x := bitsOf w 10 5
  let q := bitsOf w 15 4
  let y := bitsOf w 24 5
  let k := bitsOf w 29 3
  let rx : BitVec 5 := fld w 10 5
  let fq : BitVec 4 := fld w 15 4
  let f3 : BitVec 3 := fld w 15 3
  let ry : BitVec 5 := fld w 24 5
  let tag : BitVec 6 := BitVec.ofNat 6 (16 * (k % 4) + q)
  match bitsOf w 19 5 with
  | 0 =>
    ifZero y
      (match k with
       | 0 => .ok (.qputW p fq rx)
       | 1 => .ok (.qputD p fq rx)
       | 2 => acceptIf (.qputT p fq rx) .misaligned
       | 3 => ifZero x (.ok (.qputEos p fq))
       | 4 => ifZero x (.ok (.qputEeos p fq))
       | _ => .error .value)
  | 1 =>
    ifZero y
      (match k with
       | 0 => .ok (.qpopW p rx fq)
       | 1 => .ok (.qpopD p rx fq)
       | 2 => acceptIf (.qpopT p rx fq) .misaligned
       | 3 => .ok (.qpopSkip p rx fq)
       | _ => .error .value)
  | 2 => ifZero (x + y + k) (.ok (.qflusht p fq))
  | 3 => ifZero (y + k) (.ok (.qstat p rx fq))
  | 4 => ifZero (y + k) (.ok (.bqpush p fq rx))
  | 5 => ifZero (y + k) (.ok (.bqpop p rx fq))
  | 6 => .ok (.upd p (updOf k) rx fq ry)
  | 8 => ifZero (q / 8 + y + k) (acceptIf (.sopen p f3 rx) .misaligned)
  | 9 => ifZero (q / 8 + y / 16 + k) (.ok (.spush p f3 (fld w 24 4) rx))
  | 10 => ifZero (q / 8 + y + k) (.ok (.sadv p f3 rx))
  | 11 => ifZero (q / 8 + y + k + x / 8) (.ok (.stend p (fld w 10 3) f3))
  | 12 => ifZero (q / 8 + y + k + x) (.ok (.sclose p f3))
  | 16 => ifZero (q / 8 + y + k) (acceptIf (.fopen p f3 rx) .misaligned)
  | 17 => ifZero (q / 8 + y / 16 + k) (.ok (.fpush p f3 (fld w 24 4) rx))
  | 18 => ifZero (q / 8 + y + k) (.ok (.fadv p f3 rx))
  | 19 =>
    ifZero (q / 8 + y + k)
      (match x / 8 with
       | 0 => .ok (.ftend p .v (fld w 10 3) f3)
       | 1 => .ok (.ftend p .c (fld w 10 3) f3)
       | 2 => .ok (.ftend p .vc (fld w 10 3) f3)
       | _ => .error .value)
  | 20 => ifZero (q / 8 + y + k + x) (.ok (.fclose p f3))
  | 24 => ifZero y (if k / 4 = 0 then acceptIf (.cpy p tag rx) .misaligned else acceptIf (.cpyS p tag rx) .misaligned)
  | 25 => ifZero (q + k) (.ok (.wtany p rx ry))
  | 26 => ifZero (q + k) (.ok (.wtall p rx ry))
  | 27 => ifZero (q + k) (.ok (.ffr p rx ry))
  | _ => .error .function

/-- The ENGX major (Tables 3.14, 6.8 and 7.3). -/
def decEngx (w : Nat) : Except DecodeError Instr :=
  let p := predOf w
  let x := bitsOf w 10 5
  let q := bitsOf w 15 4
  let y := bitsOf w 24 5
  let k := bitsOf w 29 3
  let rx : BitVec 5 := fld w 10 5
  let fq : BitVec 4 := fld w 15 4
  let ry : BitVec 5 := fld w 24 5
  let vq : BitVec 2 := fld w 15 2
  let e := k % 2 == 1
  match bitsOf w 19 5 with
  | 0 => ifZero (k / 2) (acceptIf (.gath p e fq rx ry) .misaligned)
  | 1 => ifZero (k / 2) (acceptIf (.gathq p e fq rx ry) .misaligned)
  | 2 =>
    match scatOf k with
    | some op => acceptIf (.scat p op fq rx ry) .misaligned
    | none => .error .value
  | 3 => ifZero (k / 2) (acceptIf (.rgath p e fq rx ry) .misaligned)
  | 4 => ifZero (k / 4) (acceptIf (.nzscan p e (k / 2 % 2 == 1) fq rx ry) .misaligned)
  | 8 => ifZero (k + y / 4) (.ok (.vopen p (fld w 24 2) fq rx))
  | 9 => ifZero (q / 4) (.ok (.ldc p (k / 4 == 1) (sizeOf (k % 4)) rx vq ry))
  | 10 => ifZero (q / 4) (.ok (.stc p (k / 4 == 1) (sizeOf (k % 4)) rx vq ry))
  | 11 => ifZero (q / 4) (.ok (.updc p (updOf k) rx vq ry))
  | 12 => ifZero (q / 4 + y / 16 + k) (.ok (.vpush p (fld w 24 4) vq rx))
  | 13 => ifZero (q / 4 + k) (.ok (.vprobe p rx vq ry))
  | 14 => ifZero (q / 4 + y + k) (.ok (.vfree p vq rx))
  | 15 => ifZero (q / 4 + y + k + x) (.ok (.vclose p vq))
  | 16 => ifZero (q + y + k) (.ok (.vshoot p rx))
  | _ => .error .function

/-- The ENGB major (Tables 3.15, 7.5; R233, R240, R241). -/
def decEngb (w : Nat) : Except DecodeError Instr :=
  let p := predOf w
  let x := bitsOf w 10 5
  let q := bitsOf w 15 4
  let y := bitsOf w 24 5
  let k := bitsOf w 29 3
  let sub := bitsOf w 19 5
  let rx : BitVec 5 := fld w 10 5
  let fq : BitVec 4 := fld w 15 4
  let ry : BitVec 5 := fld w 24 5
  let dq : BitVec 2 := fld w 15 2
  match sub with
  | 0 => ifZero (q / 4 + y + k) (.ok (.bopen p dq rx))
  | 2 => ifZero (x + q / 4 + k / 2) (.ok (.bclose p dq (BitVec.ofNat 6 (32 * (k % 2) + y))))
  | 3 => ifZero (x + q / 4 + y + k) (.ok (.babort p dq))
  | 4 => ifZero (k / 4) (.ok (.bst p 0 (sizeOf (k % 4)) rx fq ry))
  | 5 => ifZero (k / 4) (.ok (.bst p 1 (sizeOf (k % 4)) rx fq ry))
  | 6 => ifZero (k / 4) (.ok (.bst p 2 (sizeOf (k % 4)) rx fq ry))
  | 7 => ifZero (k / 4) (.ok (.bst p 3 (sizeOf (k % 4)) rx fq ry))
  | 8 => ifZero (x + q + y + k) (.ok (.rgbeg p))
  | 9 => ifZero (q + y + k) (.ok (.rgend p rx))
  | 16 =>
    ifZero (y + k / 2)
      (if k = 0 then ifZero q (acceptIf (.mq p rx) .misaligned)
       else ifZero (q / 8) (acceptIf (.mqNb p (fld w 15 3) rx) .misaligned))
  | 17 => ifZero (y + k) (.ok (.mqcan p fq rx))
  | 18 => ifZero (y + k) (.ok (.waitb p fq rx))
  | _ => .error .function

/-- A 32-bit word (R72, Table 3.8). -/
def decode32 (w : Nat) : Except DecodeError Instr :=
  match bitsOf w 1 5 with
  | 0 => decHdr w
  | 1 => decInt w
  | 2 => decImm 2 w
  | 3 => decImm 3 w
  | 4 => decImm 4 w
  | 5 => decImm 5 w
  | 6 => decImm 6 w
  | 7 => decImm 7 w
  | 8 => decImm 8 w
  | 9 => decImm 9 w
  | 10 => .ok (.imx (fld w 6 26))
  | 11 => .ok (.br (predOf w) (fld w 10 22))
  | 12 => .ok (.call (predOf w) (fld w 10 22))
  | 13 =>
    if bitsOf w 14 1 = 0 then .ok (.brq (predOf w) (fld w 10 4) (fld w 15 17))
    else .ok (.brqN (predOf w) (fld w 10 4) (fld w 15 17))
  | 14 => decMem 14 w
  | 15 => decMem 15 w
  | 16 => decMem 16 w
  | 17 => decMem 17 w
  | 18 => decMemFn w
  | 19 => decEngq w
  | 20 => decEngx w
  | 21 => decEngb w
  | 22 => decSys w
  | 23 => decSr w
  | _ => .error .major

/-- A 16-bit word (R63, Table 3.2). -/
def decode16 (w : Nat) : Except DecodeError Instr :=
  match bitsOf w 1 4 with
  | 0 => .ok (.hint (fld w 5 11))
  | 1 => ifZero (bitsOf w 15 1) (.ok (.mvs (fld w 5 5) (fld w 10 5)))
  | 2 => .ok (.adds (fld w 5 5) (fld w 10 6))
  | 3 => .ok (.lis (fld w 5 5) (fld w 10 6))
  | 4 => ifZero (bitsOf w 14 2) (.ok (.qputs (fld w 5 4) (fld w 9 5)))
  | 5 => ifZero (bitsOf w 14 2) (.ok (.qpops (fld w 5 5) (fld w 10 4)))
  | _ => .error .major

/-- Whether a first parcel opens a 32-bit word (R61). -/
def isLong (parcel : Nat) : Bool := parcel % 2 == 1

/-- The decoder: from bytes, the instruction and its length in bytes. -/
def decode : List Byte → Except DecodeError (Instr × Nat)
  | b0 :: b1 :: rest =>
    let p0 := b0.toNat + 256 * b1.toNat
    if isLong p0 then
      match rest with
      | b2 :: b3 :: _ => (decode32 (p0 + 65536 * (b2.toNat + 256 * b3.toNat))).map (fun i => (i, 4))
      | _ => .error .short
    else (decode16 p0).map (fun i => (i, 2))
  | _ => .error .short

/-- The instruction this decoder reads from a word numbered as spec/opcode_table.json numbers it: the table's words
are 16 or 32 bits, laid out little-endian as memory holds them (R60). -/
def decodeTableWord (nbits w : Nat) : Option Instr :=
  match decode (Machine.leBytes (max 4 (nbits / 8)) w) with
  | .ok (i, _) => some i
  | .error _ => none

/-! ## The encoder -/

/-- PN and PG in place (Table 3.1), with MAJ and bit 0. -/
def encHead (maj : Nat) (p : Pred) : Nat := 1 + 2 * maj + 64 * p.pg.toNat + 512 * Machine.b2n p.pn
/-- Format R (Table 3.4). -/
def encR (maj fn : Nat) (p : Pred) (d a b : Nat) : Nat :=
  encHead maj p + 1024 * d + 32768 * a + 1048576 * b + 33554432 * fn
/-- Format I. -/
def encI (maj : Nat) (p : Pred) (d a imm : Nat) : Nat := encHead maj p + 1024 * d + 32768 * a + 1048576 * imm
/-- Format L. -/
def encL (maj : Nat) (p : Pred) (d imm : Nat) : Nat := encHead maj p + 1024 * d + 32768 * imm
/-- Format B. -/
def encB (maj : Nat) (p : Pred) (disp : Nat) : Nat := encHead maj p + 1024 * disp
/-- Format BQ. -/
def encBQ (p : Pred) (q neg disp : Nat) : Nat := encHead 13 p + 1024 * q + 16384 * neg + 32768 * disp
/-- Format E. -/
def encE (maj sub : Nat) (p : Pred) (x q y k : Nat) : Nat :=
  encHead maj p + 1024 * x + 32768 * q + 524288 * sub + 16777216 * y + 536870912 * k
/-- Formats M and MX: `top` is [31:25]. -/
def encM (maj : Nat) (p : Pred) (x h sz rt ord top : Nat) : Nat :=
  encHead maj p + 1024 * x + 32768 * h + 524288 * sz + 2097152 * rt + 8388608 * ord + 33554432 * top
/-- Format A. -/
def encA (p : Pred) (x h y op szw scope ord : Nat) : Nat :=
  encHead 17 p + 1024 * x + 32768 * h + 524288 * y + 16777216 * op + 134217728 * szw + 268435456 * scope
    + 1073741824 * ord

/-- SZ of Table 3.5. -/
def sizeNum : Size → Nat | .b => 0 | .h => 1 | .w => 2 | .d => 3
/-- RT of Table 3.5. -/
def rtNum : Rt → Nat | .own => 0 | .wt => 1 | .si => 2 | .uc => 3
/-- ORD of Table 3.5. -/
def ordNum : Ord → Nat | .plain => 0 | .acq => 1 | .rel => 2 | .acqrel => 3
/-- SCOPE of Table 3.5. -/
def scopeNum : Scope → Nat | .core => 0 | .die => 1 | .pkg => 2 | .domain => 3
/-- AOP of Table 3.5. -/
def aopNum : AmoOp → Nat
  | .swap => 0 | .add => 1 | .and => 2 | .or => 3 | .xor => 4 | .min => 5 | .max => 6 | .cas => 7
/-- K of Table 5.4. -/
def updNum : UpdOp → Nat
  | .addW => 0 | .addD => 1 | .addF32 => 2 | .minW => 3 | .maxW => 4 | .orD => 5 | .andD => 6 | .xorD => 7
/-- K of Table 6.8. -/
def scatNum : ScatOp → Nat
  | .st => 0 | .addW => 1 | .addD => 2 | .addF32 => 3 | .minW => 4 | .maxW => 5 | .orD => 6
/-- Kind of a FENCE (Table 3.11). -/
def kindNum : FenceKind → Nat | .full => 0 | .acq => 1 | .rel => 2
/-- SEL of FTEND (R161). -/
def selNum : CursorSel → Nat | .v => 0 | .c => 1 | .vc => 2

/-- The words of an instruction, as one number with the first parcel lowest; `none` for a row that is no word. -/
def encode : Instr → Option Nat
  | .hdr rep len l e m => some (1 + 64 * Machine.b2n m + 128 * Machine.b2n e + 256 * Machine.b2n l + 1024 * len.toNat + 1048576 * rep.toNat)
  | .add p d a b => some (encR 1 0 p d.toNat a.toNat b.toNat)
  | .sub p d a b => some (encR 1 1 p d.toNat a.toNat b.toNat)
  | .mul p d a b => some (encR 1 2 p d.toNat a.toNat b.toNat)
  | .mulh p d a b => some (encR 1 3 p d.toNat a.toNat b.toNat)
  | .mulhu p d a b => some (encR 1 4 p d.toNat a.toNat b.toNat)
  | .div p d a b => some (encR 1 5 p d.toNat a.toNat b.toNat)
  | .divu p d a b => some (encR 1 6 p d.toNat a.toNat b.toNat)
  | .rem p d a b => some (encR 1 7 p d.toNat a.toNat b.toNat)
  | .remu p d a b => some (encR 1 8 p d.toNat a.toNat b.toNat)
  | .and p d a b => some (encR 1 16 p d.toNat a.toNat b.toNat)
  | .or p d a b => some (encR 1 17 p d.toNat a.toNat b.toNat)
  | .xor p d a b => some (encR 1 18 p d.toNat a.toNat b.toNat)
  | .andn p d a b => some (encR 1 19 p d.toNat a.toNat b.toNat)
  | .shl p d a b => some (encR 1 20 p d.toNat a.toNat b.toNat)
  | .shr p d a b => some (encR 1 21 p d.toNat a.toNat b.toNat)
  | .sar p d a b => some (encR 1 22 p d.toNat a.toNat b.toNat)
  | .ror p d a b => some (encR 1 23 p d.toNat a.toNat b.toNat)
  | .min p d a b => some (encR 1 24 p d.toNat a.toNat b.toNat)
  | .max p d a b => some (encR 1 25 p d.toNat a.toNat b.toNat)
  | .minu p d a b => some (encR 1 26 p d.toNat a.toNat b.toNat)
  | .maxu p d a b => some (encR 1 27 p d.toNat a.toNat b.toNat)
  | .clz p d a => some (encR 1 32 p d.toNat a.toNat 0)
  | .ctz p d a => some (encR 1 33 p d.toNat a.toNat 0)
  | .popc p d a => some (encR 1 34 p d.toNat a.toNat 0)
  | .bswap p d a => some (encR 1 35 p d.toNat a.toNat 0)
  | .sextB p d a => some (encR 1 36 p d.toNat a.toNat 0)
  | .sextH p d a => some (encR 1 37 p d.toNat a.toNat 0)
  | .sextW p d a => some (encR 1 38 p d.toNat a.toNat 0)
  | .zextW p d a => some (encR 1 39 p d.toNat a.toNat 0)
  | .bfins p d a b => some (encR 1 0x28 p d.toNat a.toNat b.toNat)
  | .cmpEq p pd a b => some (encR 1 48 p pd.toNat a.toNat b.toNat)
  | .cmpNe p pd a b => some (encR 1 49 p pd.toNat a.toNat b.toNat)
  | .cmpLt p pd a b => some (encR 1 50 p pd.toNat a.toNat b.toNat)
  | .cmpGe p pd a b => some (encR 1 51 p pd.toNat a.toNat b.toNat)
  | .cmpLtu p pd a b => some (encR 1 52 p pd.toNat a.toNat b.toNat)
  | .cmpGeu p pd a b => some (encR 1 53 p pd.toNat a.toNat b.toNat)
  | .pand p pd pa pb => some (encR 1 56 p pd.toNat pa.toNat pb.toNat)
  | .por p pd pa pb => some (encR 1 57 p pd.toNat pa.toNat pb.toNat)
  | .pxor p pd pa pb => some (encR 1 58 p pd.toNat pa.toNat pb.toNat)
  | .pandn p pd pa pb => some (encR 1 59 p pd.toNat pa.toNat pb.toNat)
  | .mvpx p d pa => some (encR 1 0x3C p d.toNat pa.toNat 0)
  | .mvxp p pd a => some (encR 1 0x3D p pd.toNat a.toNat 0)
  | .jr p a => some (encR 1 0x40 p 0 a.toNat 0)
  | .callr p d a b => some (encR 1 0x41 p d.toNat a.toNat b.toNat)
  | .addi p d a imm => some (encI 2 p d.toNat a.toNat imm.toNat)
  | .andi p d a imm => some (encI 3 p d.toNat a.toNat imm.toNat)
  | .ori p d a imm => some (encI 4 p d.toNat a.toNat imm.toNat)
  | .xori p d a imm => some (encI 5 p d.toNat a.toNat imm.toNat)
  | .shli p d a sh => some (encI 6 p d.toNat a.toNat (64 * 0 + sh.toNat))
  | .shri p d a sh => some (encI 6 p d.toNat a.toNat (64 * 1 + sh.toNat))
  | .sari p d a sh => some (encI 6 p d.toNat a.toNat (64 * 2 + sh.toNat))
  | .rori p d a sh => some (encI 6 p d.toNat a.toNat (64 * 3 + sh.toNat))
  | .cmpiEq p pd a imm => some (encI 7 p (8 * 0 + pd.toNat) a.toNat imm.toNat)
  | .cmpiNe p pd a imm => some (encI 7 p (8 * 1 + pd.toNat) a.toNat imm.toNat)
  | .cmpiLt p pd a imm => some (encI 7 p (8 * 2 + pd.toNat) a.toNat imm.toNat)
  | .cmpiLtu p pd a imm => some (encI 7 p (8 * 3 + pd.toNat) a.toNat imm.toNat)
  | .bfx p d a wm1 pos => some (encI 8 p d.toNat a.toNat (64 * wm1.toNat + pos.toNat))
  | .bfxs p d a wm1 pos => some (encI 8 p d.toNat a.toNat (2048 + 64 * wm1.toNat + pos.toNat))
  | .li p d imm => some (encL 9 p d.toNat imm.toNat)
  | .imx payload => some (21 + 64 * payload.toNat)
  | .br p disp => some (encB 11 p disp.toNat)
  | .call p disp => some (encB 12 p disp.toNat)
  | .brq p q disp => some (encBQ p q.toNat 0 disp.toNat)
  | .brqN p q disp => some (encBQ p q.toNat 1 disp.toNat)
  | .ld p x h sz rt ord off => some (encM 14 p x.toNat h.toNat (sizeNum sz) (rtNum rt) (ordNum ord) off.toNat)
  | .st p x h sz rt ord off => some (encM 15 p x.toNat h.toNat (sizeNum sz) (rtNum rt) (ordNum ord) off.toNat)
  | .ldx p x h sz rt ord ix => some (encM 16 p x.toNat h.toNat (sizeNum sz) (rtNum rt) (ordNum ord) ix.toNat)
  | .stx p x h sz rt ord ix => some (encM 16 p x.toNat h.toNat (sizeNum sz) (rtNum rt) (ordNum ord) (32 + ix.toNat))
  | .amo p x h y op dbl scope ord => some (encA p x.toNat h.toNat y.toNat (aopNum op) (Machine.b2n dbl) (scopeNum scope) (ordNum ord))
  | .xlat p hd a => some (encR 18 0 p hd.toNat a.toNat 0)
  | .xlatW p hd a => some (encR 18 1 p hd.toNat a.toNat 0)
  | .hmv p hd ha => some (encR 18 2 p hd.toNat ha.toNat 0)
  | .hrel p ha => some (encR 18 3 p 0 ha.toNat 0)
  | .hspan p d ha => some (encR 18 4 p d.toNat ha.toNat 0)
  | .fence p kind scope => some (encR 18 8 p 0 0 (4 * kindNum kind + scopeNum scope))
  | .clean p ha b => some (encR 18 0x10 p 0 ha.toNat b.toNat)
  | .invl p ha b => some (encR 18 0x11 p 0 ha.toNat b.toNat)
  | .flushl p ha b => some (encR 18 0x12 p 0 ha.toNat b.toNat)
  | .prefl p ha b => some (encR 18 0x13 p 0 ha.toNat b.toNat)
  | .icinv p => some (encR 18 0x14 p 0 0 0)
  | .hshoot p a => some (encR 18 0x18 p 0 a.toNat 0)
  | .sendw p a b => some (encR 22 0 p 0 a.toNat b.toNat)
  | .waitch p d => some (encR 22 1 p d.toNat 0 0)
  | .yield p => some (encR 22 2 p 0 0 0)
  | .endt p => some (encR 22 3 p 0 0 0)
  | .launch p d a hb => some (encR 22 4 p d.toNat a.toNat hb.toNat)
  | .barv p a => some (encR 22 5 p 0 a.toNat 0)
  | .barw p a => some (encR 22 6 p 0 a.toNat 0)
  | .trap p n => some (encHead 22 p + 32768 * n.toNat + 33554432 * 0x10)
  | .bkpt p => some (encR 22 0x11 p 0 0 0)
  | .reth p => some (encR 22 0x12 p 0 0 0)
  | .bbh p n => some (encHead 22 p + 32768 * n.toNat + 33554432 * 0x20)
  | .mfs p d sreg => some (encI 23 p d.toNat 0 sreg.toNat)
  | .mts p sreg a => some (encI 23 p 0 a.toNat (2048 + sreg.toNat))
  | .qputW p q x => some (encE 19 0 p x.toNat q.toNat 0 0)
  | .qputD p q x => some (encE 19 0 p x.toNat q.toNat 0 1)
  | .qputT p q x => some (encE 19 0 p x.toNat q.toNat 0 2)
  | .qputEos p q => some (encE 19 0 p 0 q.toNat 0 3)
  | .qputEeos p q => some (encE 19 0 p 0 q.toNat 0 4)
  | .qpopW p x q => some (encE 19 1 p x.toNat q.toNat 0 0)
  | .qpopD p x q => some (encE 19 1 p x.toNat q.toNat 0 1)
  | .qpopT p x q => some (encE 19 1 p x.toNat q.toNat 0 2)
  | .qpopSkip p x q => some (encE 19 1 p x.toNat q.toNat 0 3)
  | .qflusht p q => some (encE 19 2 p 0 q.toNat 0 0)
  | .qstat p x q => some (encE 19 3 p x.toNat q.toNat 0 0)
  | .bqpush p q x => some (encE 19 4 p x.toNat q.toNat 0 0)
  | .bqpop p x q => some (encE 19 5 p x.toNat q.toNat 0 0)
  | .upd p op x h y => some (encE 19 6 p x.toNat h.toNat y.toNat (updNum op))
  | .sopen p s x => some (encE 19 8 p x.toNat s.toNat 0 0)
  | .spush p s q x => some (encE 19 9 p x.toNat s.toNat q.toNat 0)
  | .sadv p s x => some (encE 19 10 p x.toNat s.toNat 0 0)
  | .stend p pd s => some (encE 19 11 p pd.toNat s.toNat 0 0)
  | .sclose p s => some (encE 19 12 p 0 s.toNat 0 0)
  | .fopen p f x => some (encE 19 16 p x.toNat f.toNat 0 0)
  | .fpush p f q x => some (encE 19 17 p x.toNat f.toNat q.toNat 0)
  | .fadv p f x => some (encE 19 18 p x.toNat f.toNat 0 0)
  | .ftend p sel pd f => some (encE 19 19 p (8 * selNum sel + pd.toNat) f.toNat 0 0)
  | .fclose p f => some (encE 19 20 p 0 f.toNat 0 0)
  | .cpy p tag x => some (encE 19 24 p x.toNat (tag.toNat % 16) 0 (tag.toNat / 16))
  | .cpyS p tag x => some (encE 19 24 p x.toNat (tag.toNat % 16) 0 (4 + tag.toNat / 16))
  | .wtany p x y => some (encE 19 25 p x.toNat 0 y.toNat 0)
  | .wtall p x y => some (encE 19 26 p x.toNat 0 y.toNat 0)
  | .ffr p x y => some (encE 19 27 p x.toNat 0 y.toNat 0)
  | .gath p e q x y => some (encE 20 0 p x.toNat q.toNat y.toNat (Machine.b2n e))
  | .gathq p e q x y => some (encE 20 1 p x.toNat q.toNat y.toNat (Machine.b2n e))
  | .rgath p e q x y => some (encE 20 3 p x.toNat q.toNat y.toNat (Machine.b2n e))
  | .scat p op h x y => some (encE 20 2 p x.toNat h.toNat y.toNat (scatNum op))
  | .nzscan p pairs e q x y => some (encE 20 4 p x.toNat q.toNat y.toNat (Machine.b2n pairs + 2 * Machine.b2n e))
  | .vopen p y h x => some (encE 20 8 p x.toNat h.toNat y.toNat 0)
  | .ldc p acq sz x y c => some (encE 20 9 p x.toNat y.toNat c.toNat (sizeNum sz + 4 * Machine.b2n acq))
  | .stc p rel sz x y c => some (encE 20 10 p x.toNat y.toNat c.toNat (sizeNum sz + 4 * Machine.b2n rel))
  | .updc p op x y c => some (encE 20 11 p x.toNat y.toNat c.toNat (updNum op))
  | .vpush p q y c => some (encE 20 12 p c.toNat y.toNat q.toNat 0)
  | .vprobe p x y c => some (encE 20 13 p x.toNat y.toNat c.toNat 0)
  | .vfree p y c => some (encE 20 14 p c.toNat y.toNat 0 0)
  | .vclose p y => some (encE 20 15 p 0 y.toNat 0 0)
  | .vshoot p a => some (encE 20 16 p a.toNat 0 0 0)
  | .bopen p d x => some (encE 21 0 p x.toNat d.toNat 0 0)
  | .bst p d sz x h y => some (encE 21 (4 + d.toNat) p x.toNat h.toNat y.toNat (sizeNum sz))
  | .bclose p d tag => some (encE 21 2 p 0 d.toNat (tag.toNat % 32) (tag.toNat / 32))
  | .babort p d => some (encE 21 3 p 0 d.toNat 0 0)
  | .rgbeg p => some (encE 21 8 p 0 0 0 0)
  | .rgend p x => some (encE 21 9 p x.toNat 0 0 0)
  | .mq p x => some (encE 21 16 p x.toNat 0 0 0)
  | .mqNb p pd x => some (encE 21 16 p x.toNat pd.toNat 0 1)
  | .mqcan p f x => some (encE 21 17 p x.toNat f.toNat 0 0)
  | .waitb p b x => some (encE 21 18 p x.toNat b.toNat 0 0)
  | .hint c => some (32 * c.toNat)
  | .mvs d a => some (2 + 32 * d.toNat + 1024 * a.toNat)
  | .adds d imm => some (4 + 32 * d.toNat + 1024 * imm.toNat)
  | .lis d imm => some (6 + 32 * d.toNat + 1024 * imm.toNat)
  | .qputs q a => some (8 + 32 * q.toNat + 512 * a.toNat)
  | .qpops d q => some (10 + 32 * d.toNat + 1024 * q.toNat)
  | _ => none

/-- How many bytes an instruction's words take (R61): 2 for the 16-bit forms, 4 for the others. -/
def Instr.bytes : Instr → Nat
  | .hint _ => 2
  | .mvs _ _ => 2
  | .adds _ _ => 2
  | .lis _ _ => 2
  | .qputs _ _ => 2
  | .qpops _ _ => 2
  | _ => 4

end Sys2Proof
end

