-- ==== Sys2Proof/Machine/State.lean ====
section
/-! DEFINITION. The state of the whole load-store domain as plain data: every handler context, access core, die,
package, placed task and region, the memory, the messages in flight, and the model's own fields (whose turn it is,
the order of turns to come). INVENTORY.md lists each piece with its rule. -/

namespace Sys2Proof.Machine

/-- No row of this machine stops it: every condition of the spec ends in a trap, a wait, a recorded error or no
effect, and all of these are next states. The type has no constructor, so no step can fault (safe). -/
inductive Fault
deriving DecidableEq, Repr

/-- Why a step has no meaning in the model. -/
inductive Refusal
  /-- Raised by an arm of `exec` whose instruction has no meaning yet. Safe: nothing can be proved of such a step. -/
  | notModelled (mnemonic : String)
deriving DecidableEq, Repr

/-! ## Tokens and queues -/

/-- Token kinds of Table 1.4. -/
inductive TokKind | data | eos | eeos | csv
deriving DecidableEq, Repr

/-- One hop of a sampled token (R397, R398): site code, arrival and departure in fc. -/
structure Hop where
  site : Nat
  arr : Nat
  dep : Nat
deriving DecidableEq, Repr

/-- The mark of a sampled token (R397): birth fc, birth site code, hops so far, TRUNC. -/
structure Mark where
  birth : Nat
  bsite : Nat
  hops : List Hop
  trunc : Bool
deriving DecidableEq, Repr

/-- A token: kind and 16 lanes (R21); whether an engine read its lanes from memory (R155); its sampling mark; and
the fc in which it arrived where it stands (R398). -/
structure Token where
  kind : TokKind
  lanes : List Lane
  eng : Bool
  mark : Option Mark
  arr : Nat
deriving DecidableEq, Repr

/-- DIR of a binding (Table 6.1). -/
inductive Dir | out | inn | loc
deriving DecidableEq, Repr

/-- A q register: the context's end of a queue (Table 6.1). `asm` holds the lanes assembled, so its length is LP
of an OUT binding and OLP of a LOCAL one; `lp` counts the lanes of `cur` consumed. `entry` is the queue-table entry. -/
structure Binding where
  dir : Dir
  boq : Bool
  ch : Bool
  tmo : Nat
  lp : Nat
  cur : Option Token
  endf : Bool
  err : Bool
  cnt : Nat
  asm : List Lane
  asmEng : Bool
  entry : Nat
deriving DecidableEq, Repr

/-- A queue-table entry bound for a task (Table 11.4): the tokens held at the context's end and at the region's
end, oldest first; `cut` once a sealed or fenced end absorbs tokens or owes its EEOS. `stallC`, `stallP` are the waits of Table
11.6. `port` says that a port operator of the region names the entry (R256). -/
structure Queue where
  ends : Nat
  inward : Bool
  boq : Bool
  tmo : Nat
  ckey : Nat
  cdie : Nat
  ctxQ : List Token
  regQ : List Token
  stallC : Nat
  stallP : Nat
  cut : Bool
  port : Bool
deriving DecidableEq, Repr

/-! ## Opaque registers of a context -/

/-- A handle (Table 5.1). `psize` is the code of Table 5.2; `entry` names the lease-table entry of the die. -/
structure Handle where
  v : Bool
  w : Bool
  anchor : Nat
  pbase : Nat
  psize : Nat
  gbase : Nat
  ord : Nat
  nt : Bool
  sdb : Bool
  bnd : Bool
  vf : Bool
  x : Bool
  entry : Nat
deriving DecidableEq, Repr

/-- An invalid handle. -/
def Handle.invalid : Handle := ⟨false, false, 0, 0, 0, 0, 0, false, false, false, false, false, 0⟩

/-- A stream (R157 to R159): the record x[X]..x[X+3], the handle copy, POS, and the recorded error. `no` tells this open
of the register from its others. -/
structure Stream where
  record : List Nat
  hcopy : Handle
  pos : Nat
  err : Option (Nat × Nat)
  no : Nat
deriving DecidableEq, Repr

/-- A fibre (R160, R161): record, copies of PH, CH, VH, the segment and its two cursors, and the recorded error. -/
structure Fibre where
  record : List Nat
  ph : Handle
  ch : Handle
  vh : Handle
  beg : Nat
  fin : Nat
  vpos : Nat
  cpos : Nat
  err : Option (Nat × Nat)
  no : Nat
deriving DecidableEq, Repr

/-- A push in flight of a stream or fibre (R158, R161): it keeps its own record and handle copy, since the
register may be replaced while issued pushes complete: `no` is the open of the register that issued it. `dead` once it met an
error and enters EEOS (R159); `asid` the job it reads for. -/
structure Push where
  fibre : Bool
  idx : Nat
  record : List Nat
  hcopy : Handle
  next : Nat
  remaining : Nat
  q : Nat
  dead : Bool
  seq : Nat
  no : Nat
  asid : Nat
deriving DecidableEq, Repr

/-- A volume register (R174): the descriptor's 128 bytes and its GA. -/
structure Vol where
  desc : List Byte
  ga : Nat
deriving DecidableEq, Repr

/-- A ducat register's role (R183, R187; Table 16.7). -/
inductive Role | opener | joiner | aborted
deriving DecidableEq, Repr

/-- A ducat register. -/
structure DReg where
  ducat : Nat
  role : Role
deriving DecidableEq, Repr

/-- A read group (R189): FR, OV, VF and the lines entered with their stamps. -/
structure ReadGroup where
  fr : Bool
  ov : Bool
  vf : Nat
  lines : List (Nat × Nat)
deriving DecidableEq, Repr

/-! ## Waits, pending writes, buffered stores -/

/-- What a waiting context waits for: one constructor per row of Table 11.7 and per reply it implies. `qFull` says how
many places the word needs; `behind`, whether an engine's word waits behind an earlier producer of q or an earlier
consumer, and `queueBehind` the same of a word at the queue's end; a load of an agent's
register names the die or core and the register x[x] it writes. -/
inductive Wait
  | qFull (q need : Nat)
  | qEmpty (q : Nat)
  | behind (q : Nat) (producer : Bool)
  | queueBehind (q : Nat) (producer : Bool)
  | tagBusy (t : Nat)
  | copyFull
  | engineFull
  | spOrder (ga n : Nat)
  | bopenFull
  | join (ducat : Nat)
  | bstConflict (line ducat off : Nat)
  | babort (ducat : Nat)
  | mqFull (sa : Nat)
  | barrierFull (b : Nat)
  | waitb (b : Nat)
  | anyTag (mask : Nat)
  | allTags (mask : Nat)
  | inbox
  | sendFull (core ch : Nat) (w : Lane)
  | barw (slot phase : Nat)
  | shoot (entries : List (Nat × Nat))
  | vshoot (ga : Nat)
  | vfree (frame pool size : Nat) (pushed : Bool)
  | walk (die walk : Nat)
  | drain
  | ownership (die region : Nat)
  | prepared (line : Nat)
  | ltstat (die x : Nat)
  | plstat (die x : Nat)
  | dclrv (die x : Nat)
  | ccflush (core x : Nat)
  | mctl (die x : Nat)
  | mctlEnd (die : Nat)
  | pmctl (die x : Nat)
deriving DecidableEq, Repr

/-- A wait with the cc at which it began. -/
structure Waiting where
  kind : Wait
  since : Nat
deriving DecidableEq, Repr

/-- A register that an access word writes. -/
inductive RegWrite
  | x (r : Nat) (v : Word)
  | p (r : Nat) (v : Bool)
  | h (r : Nat) (v : Handle)
  | f (r : Nat) (v : Fibre)
deriving DecidableEq, Repr

/-- A write of exposed mode that lands at issue step `due` (R91). -/
structure Pending where
  due : Nat
  wr : RegWrite
deriving DecidableEq, Repr

/-- A store in the store buffer (R128, R132). `epoch` counts the fences that order stores and `fences` all fences issued
and release stores before it; `parts` holds the bytes of the merged stores as (address, byte); `scope` is set when a narrower fence
ordered it (R353); `unord`, of an UNORD page (R343); `entries`, the lease-table entries of the merged stores (R120); `asid`, the job
under which it issued (R390). -/
structure BufStore where
  ga : Nat
  parts : List (Nat × Byte)
  rt : Rt
  nt : Bool
  strong : Bool
  rel : Bool
  unord : Bool
  scope : Option Scope
  epoch : Nat
  fences : Nat
  entries : List Nat
  asid : Nat
deriving DecidableEq, Repr

/-! ## Tasks and regions -/

/-- A CSV quad as an accumulator holds it (R55 to R57): only the resolved values V_i are kept. -/
structure Quad where
  set : Bool
  ovf : Bool
  e : Int
  stky : BitVec 16
  narf : BitVec 16
  pois : BitVec 16
  v : List Int
deriving DecidableEq, Repr

/-- The zero state of R57. -/
def Quad.zero : Quad := ⟨false, false, 0, 0, 0, 0, []⟩

/-- A matrix command in a queue: the 128-bit word; whether it has started; whether it is a cancelled MBAR (R241);
the pair number of an MMULP (R300); its number among the engine commands of the core in issue
order, and the core's (R142, R236); since it became ready (R230), whether its semaphore held ABT at that moment, and the
fc of it. -/
structure SaCmd where
  w : Nat
  started : Bool
  cancelled : Bool
  num : Option Nat
  seq : Nat
  ctx : CtxId
  ready : Option (Bool × Nat)
deriving DecidableEq, Repr

/-- The error that the next MBAR of an SA reports (R238): how many commands of the queue are still before the one in
error, which then decide (R234), its cause, K-block and opcode. -/
structure SaErr where
  ahead : Nat
  code : Nat
  kstep : Nat
  mop : Nat
deriving DecidableEq, Repr

/-- Pair states of Table 14.4. -/
inductive PairState | idle | wait | run | done | errd | cand
deriving DecidableEq, Repr

/-- An SA block of a placed region (R229, Table 16.12): its place on the die, formats and whether a SAREAD serves it;
the command queue; for the running MMUL the A blocks taken, those of the current K-block not yet applied, and per row
the K-blocks applied; for a running MLOADB the blocks read and the first failure; for a running MREAD the next quad and
beat; what stands on the path from SAFEED to its three ports; both banks; the pair state with the fc its timer started,
the MMULPs that reached the head, the pair numbers whose other half was cancelled or timed out; the first error since
the last MBAR; accumulator words in error. -/
structure Sa where
  index : Nat
  afmt : Nat
  bfmt : Nat
  reader : Bool
  eosAfter : Bool
  queue : List SaCmd
  n : Nat
  ablk : SMap (List Byte)
  rowK : SMap Nat
  load : Nat
  loadErr : Option (Nat × Nat)
  quad : Nat
  beat : Nat
  eosDue : Bool
  port0 : List Token
  port1 : List Token
  port2 : List Token
  acc : SMap Quad
  pair : PairState
  pairSince : Nat
  pairN : Nat
  pairCancel : List Nat
  pairErr : List Nat
  firstErr : Option SaErr
  accUe : List Nat
deriving DecidableEq, Repr

/-- A site of a placed region (Table 16.11): its configuration word and the operator's own state. `sub` is byte 16
of the record; `reload` says that SELF holds the token reloaded after EOS (R193); `held` is INVAR's value or FILT's partial token; `buf` is BUF's contents, or
what CVT.SDB, NORM or a reduction has gathered; `outq` the tokens still to be emitted; `beat` the beats of the current quad moved and `choice`
the decision made on beat 0; `last` the fc of CTR's last emission; `emitted` the tokens a traced QPOP has emitted; `ue`
an uncorrectable error in its storage; `fired`, `shots` the fc of its last firing and how often it fired in it. -/
structure Site where
  cfg : Nat
  sub : Nat
  fsp : Bool
  k : Nat
  n : Nat
  self : Option Token
  reload : Bool
  held : List Token
  buf : List Token
  outq : List Token
  beat : Nat
  choice : Nat
  last : Option Nat
  emitted : Nat
  sawEos : Bool
  ue : Bool
  fired : Option Nat
  shots : Nat
deriving DecidableEq, Repr

/-- A placed region (R80 to R83, R221, R229): extents, base, configuration version, MEOS, region number; sites by
W*row+col; links by 9*site+direction of the source (direction 8 is ROUTE's far copy); how many tokens left a link in
which fc; route table, rewritten; semaphores, completion barriers and SA blocks; MBCNT, fault code, sealed; the fc in
which a token last moved; stopped by FSTOPRQ. -/
structure Region where
  w : Nat
  h : Nat
  bc : Nat
  br : Nat
  cfgver : Nat
  meos : Bool
  regno : Nat
  sites : SMap Site
  links : SMap (List Token)
  freed : SMap (Nat × Nat)
  routes : List (Nat × Nat)
  sem : SMap (Nat × Bool)
  cb : SMap (List Nat)
  sas : List Sa
  mbcnt : Nat
  fault : Nat
  sealed : Bool
  moved : Option Nat
  stopped : Bool
deriving DecidableEq, Repr

/-- The tile task a context serves (R33, R34, R261): launch and home die, group, task index, coordinate, priority,
job, scratchpad banks, barrier slots of the die, bound queues, region, loss-of-decoupling count. -/
structure Task where
  launch : Nat
  hdie : Nat
  group : Nat
  tidx : Nat
  tx : Nat
  ty : Nat
  tz : Nat
  prio : Nat
  asid : Nat
  lease : Nat
  banks : List Nat
  bars : List Nat
  queues : SMap Queue
  region : Option Region
  lodcnt : Nat
  image : List Byte
deriving DecidableEq, Repr

/-! ## Contexts and cores -/

/-- The system registers of a context (Table 4.5), STATUS by field (Table 4.6). -/
structure Sys where
  pl : Bool
  ppl : Bool
  ie : Bool
  pie : Bool
  skip : Bool
  pri : Nat
  cause : Word
  epc : Word
  eva : Word
  ehdr : Word
  eitr : Word
  tvec : Word
  sscr0 : Word
  sscr1 : Word
  sscr2 : Word
  sscr3 : Word
  lease : Word
  asid : Nat
  lodthr : Word
  watch0 : Word
  watch1 : Word
  watch2 : Word
  watch3 : Word
  timecmp : Word
  bbhbase : Word
deriving DecidableEq, Repr

/-- The current block (R64 to R67): header address, header fields, iteration, the word to issue next, and whether
`pc` addresses a header about to be entered, in which iteration, by fall-through or not. `buf` holds the parcels of the
current block that the loop buffer has taken, by their place from the header; `pin`, the pinned block's header address and
code (R67); `word`, the bytes of the word last fetched, which a waiting word keeps
(log 128). -/
structure Block where
  pc : Nat
  hdr : Nat
  rep : Nat
  len : Nat
  l : Bool
  e : Bool
  m : Bool
  iter : Nat
  entering : Bool
  ft : Bool
  buf : SMap Nat
  pin : Option (Nat × List Byte)
  word : List Byte
deriving DecidableEq, Repr

/-- A trap whose handler's header stands in a region that a host owns: it is taken once that can be fetched (R284). `code` 0
is no trap: the run's first header, at `eva`, stands in such a region (log 125). -/
structure HeldTrap where
  code : Nat
  eva : Nat
  skip : Bool
  fetch : Bool
deriving DecidableEq, Repr

/-- A handler context (Table 4.1 and its run). `fences` counts the fences and release stores it has issued; `inLoad` is the handle
of a load that waits with its request made (R126); `wengine` names the engine command that made a latched report; `runNo`
counts the runs it has begun; `due` holds traps (cause, EVA) to be taken between its steps (R254); `adv` is the fc in which an engine command of it, or a token at its end of a chain, last moved (R314); `sent`, the block state before the SENDW that last sent a word
(R247). -/
structure Ctx where
  x : SMap Word
  p : BitVec 8
  h : SMap Handle
  s : SMap Stream
  f : SMap Fibre
  q : SMap Binding
  y : SMap Vol
  d : SMap DReg
  rg : Option ReadGroup
  sys : Sys
  blk : Block
  imx : List (BitVec 26)
  stepNo : Nat
  pend : List Pending
  pushes : List Push
  pushSeq : Nat
  sbuf : List BufStore
  epoch : Nat
  fences : Nat
  fscope : Option Scope
  owed : Option Nat
  held : Option HeldTrap
  inLoad : Option Handle
  wreport : SMap Word
  wengine : SMap (CoreId × Nat)
  wait : Option Waiting
  run : Bool
  chan : Option Nat
  task : Option Task
  ended : Bool
  trapDepth : Nat
  ending : Bool
  stopped : Bool
  desched : Bool
  preempt : Bool
  reply : Option (Nat × Nat × Nat)
  ltstat : Nat
  plstat : Nat
  lodSeen : Bool
  runNo : Nat
  due : List (Nat × Nat)
  adv : Nat
  sent : Option Block
deriving DecidableEq, Repr

/-- A side of a copy: through a handle at an offset, or a GA. -/
structure CopySide where
  h : Option Handle
  off : Nat
  stride : Nat
deriving DecidableEq, Repr

/-- A copy in flight (R140 to R142): progress by row and byte, the first error, the source bytes read first when
the ranges overlap, and its number among the engine commands of the core. -/
structure Copy where
  tag : Nat
  owner : CtxId
  asid : Nat
  desc : List Nat
  strided : Bool
  src : CopySide
  dst : CopySide
  rows : Nat
  len : Nat
  row : Nat
  byte : Nat
  snap : Option (List Byte)
  isStart : Bool
  err : Option (Nat × Nat)
  seq : Nat
deriving DecidableEq, Repr

/-- An entry of an index list as R164 resolved it: the null index, an index out of range, or a row, by its GA, its
virtual address and the lease-table entry that translated it. -/
inductive IxRow
  | null
  | oob
  | row (ga va entry : Nat)
deriving DecidableEq, Repr

/-- An index-engine command in flight (R162 to R169): kind 0 GATH, 1 GATHQ, 2 SCAT, 3 RGATH, 4 NZSCAN. `flag` is E,
`op` the scatter operation or P, `start` the offset of the list's first index and `ihn` the number of its handle, `pos` the next list position (GATHQ:
the non-null indices taken; NZSCAN: the next element), `wpos` the words of the current row already appended or written, `popped`
the lanes popped for the current row or GATHQ's current index, `arrived` the bytes of RGATH's rows that have arrived and `bad`
their failed requests, by position (for SCAT, of a row written in part). -/
structure IxCmd where
  kind : Nat
  owner : CtxId
  asid : Nat
  word : Nat
  record : List Nat
  cnt : Nat
  q : Nat
  flag : Nat
  op : Nat
  dh : Handle
  ih : Handle
  ihn : Nat
  rows : List IxRow
  start : Nat
  pos : Nat
  wpos : Nat
  popped : List Lane
  found : Bool
  arrived : SMap (List Byte)
  bad : SMap (Nat × Nat)
  err : Option (Nat × Nat)
  seq : Nat
deriving DecidableEq, Repr

/-- The owner and recorded error of a tag (R141, R143, R187). -/
structure Tag where
  owner : CtxId
  err : Option (Nat × Nat)
deriving DecidableEq, Repr

/-- A CLB entry (R332). -/
structure Clb where
  asid : Nat
  desc : Nat
  key : Nat
  frame : Nat
deriving DecidableEq, Repr

/-- A handler-table entry (R245). RUN and OCC are computed. `late` holds the senders of the last words of the inbox that entered
in cc `lateAt`, in their order there (R247); `peer` is the job of the context that sent its last word (R266). -/
structure Chan where
  addr : Nat
  en : Bool
  msk : Bool
  prio : Nat
  ctx : Nat
  pls : Bool
  asid : Nat
  inbox : List Lane
  lateAt : Nat
  late : List Nat
  peer : Option Nat
deriving DecidableEq, Repr

/-- A pending update-only delta of a core (R136): the contexts whose updates combined in it, each with its job at the time
(R146, R390); `eng` when a SCAT or UPDC made it or part of it. -/
structure Delta where
  ga : Nat
  op : UpdOp
  v : Nat
  who : List (CtxId × Nat)
  eng : Bool
deriving DecidableEq, Repr

/-- A counter-cache entry (R401): GA, delta, cc of its first pending increment, order of last use, the job of the
context that incremented it last (for R390), and whether a flush or a full delta asks for its write. -/
structure CcEntry where
  ga : Nat
  delta : Nat
  first : Nat
  used : Nat
  asid : Nat
  owed : Bool
deriving DecidableEq, Repr

/-- A window of the hotness table (R285). -/
structure HotWin where
  win : Nat
  asid : Nat
  starve : Nat
  elem : Nat
deriving DecidableEq, Repr

/-- An access core. `l1` lists the tracked lines that its L1 holds, true where with ownership; `si` its SI copies and
`deltas` its update-only lines; the three together fill at most 512 lines (R15). `evicts` counts its evictions. -/
structure Core where
  started : Bool
  tb : Word
  tags : SMap Tag
  copies : List Copy
  ix : List IxCmd
  ixSeq : Nat
  ixrows : Nat
  ixnull : Nat
  ixoob : Nat
  ixrreq : Nat
  ixrstl : Nat
  ixnz : Nat
  chans : SMap Chan
  lastIss : SMap Nat
  lastCh : SMap Nat
  clb : List Clb
  deltas : List Delta
  l1 : SMap Bool
  si : SMap (List Byte)
  evicts : Nat
  cc : List CcEntry
  ccSeq : Nat
  ccerrga : Nat
  cclost : Nat
  hot : SMap HotWin
  hctl : Nat
  qsel : Nat
deriving DecidableEq, Repr

/-! ## Dies -/

/-- A lease-table entry (R276). -/
structure LtEntry where
  id : Nat
  asid : Nat
  va : Nat
  psize : Nat
  gbase : Nat
  ord : Nat
  nt : Bool
  sdb : Bool
  bnd : Bool
  vf : Bool
  w : Bool
  x : Bool
  pins : Nat
deriving DecidableEq, Repr

/-- A lease-list entry as LAUNCH read it (R270). -/
structure LeaseRange where
  base : Nat
  npg : Nat
  demand : Bool
  wr : Bool
deriving DecidableEq, Repr

/-- An accepted launch (R252 to R254, R258): the descriptor's fields, what LAUNCH read with it (lease list, queue
table, region image), who launched it, how far it is, and the resident virtual ranges (start, end) still to be made
present. `gone`: a resumption of one of its groups was abandoned, so that it has ended and only its last task is awaited (R277). -/
structure Launch where
  num : Nat
  gx : Nat
  gy : Nat
  gz : Nat
  bx : Nat
  by' : Nat
  bz : Nat
  prio : Nat
  asid : Nat
  spq : Nat
  nbar : Nat
  entry : Nat
  trapv : Nat
  done : Option Nat
  lease : Nat
  ranges : List LeaseRange
  qtab : List Nat
  image : List Byte
  launcher : CtxId
  runNo : Nat
  next : Nat
  finished : Nat
  bad : Bool
  gone : Bool
  resident : Bool
  pins : List Nat
  todo : List (Nat × Nat)
deriving DecidableEq, Repr

/-- A barrier slot of a die (R118, R259). -/
structure BarSlot where
  launch : Nat
  hdie : Nat
  group : Nat
  phase : Nat
  count : Nat
  arrived : Nat
  expected : Nat
deriving DecidableEq, Repr

/-- What the model keeps of an SA block of a saved task beside its section: the commands with their numbers and readiness,
the first error since the last MBAR, how far an MLOADB has come, and the accumulator words in error. -/
structure ParkedSa where
  queue : List SaCmd
  firstErr : Option SaErr
  load : Nat
  loadErr : Option (Nat × Nat)
  accUe : List Nat
deriving DecidableEq, Repr

/-- What the model keeps of a saved task beside its image, which has no place for it (R319, R320, R388; log 89): the engine commands
with the handle copies and numbers they had, its pushes, each with whether its stream or fibre is still the one that issued it, its SA blocks, the sites whose storage holds an uncorrectable error, and how many
levels of handler its context is in. -/
structure Parked where
  copies : List Copy
  ix : List IxCmd
  pushes : List (Push × Bool)
  ixSeq : Nat
  sas : List ParkedSa
  ueSites : List Nat
  depth : Nat
deriving DecidableEq, Repr

/-- A group saved and not yet seen resumed (R319), with each task's core and scratchpad banks, and what is kept of it by
task index. -/
structure Saved where
  img : Nat
  size : Nat
  tasks : Nat
  launch : Nat
  hdie : Nat
  group : Nat
  quotas : List (CoreId × List Nat)
  parked : SMap Parked
deriving DecidableEq, Repr

/-- The pre-emption operation in progress of a die (R312 to R314, R320, R387). A resumption keeps the virtual ranges
still to be made present and the entries it has pinned. -/
structure PmOp where
  launch : Nat
  hdie : Nat
  group : Nat
  img : Nat
  freeze : Bool
  deadline : Option Nat
  started : Nat
  resume : Bool
  todo : List (Nat × Nat)
  pinned : List Nat
deriving DecidableEq, Repr

/-- A context that waits for a walk: the coordinate of its element, whether its word allocates, whether the result enters
its core's CLB (a VFREE's does not), and whether it joined a walk that had already read an empty slot. -/
structure Asker where
  ctx : CtxId
  coord : Nat
  alloc : Bool
  clb : Bool
  late : Bool
deriving DecidableEq, Repr

/-- A Shawm walk (R332, R334, R337): the volume and key, the level reached, the GA of the node, the contexts merged into it, and
the frame popped and not yet published. -/
structure Walk where
  id : Nat
  asid : Nat
  desc : Nat
  body : List Byte
  key : Nat
  level : Nat
  node : Nat
  askers : List Asker
  frame : Option Nat
  filled : Bool
  waitPop : Bool
deriving DecidableEq, Repr

/-- Who asked for a pool operation: a walk (for a pop), a walk that lost its CAS, a VFREE, the n-th store to PLPUSH of those
still to be performed, by a context or through a die's management port. -/
inductive PoolFor
  | walk (d : DieId) (id : Nat)
  | lost (d : DieId)
  | vfree (c : CtxId)
  | plpush (c : CtxId) (n : Nat)
  | port (d : DieId) (n : Nat)
deriving DecidableEq, Repr

/-- A pool operation asked of the Shawm of the die that holds the record (R330): the record, the frame pushed or none
for a pop, the alignment of the pool's frames, who asked, and the job. -/
structure PoolOp where
  pool : Nat
  push : Option Nat
  align : Nat
  who : PoolFor
  asid : Nat
deriving DecidableEq, Repr

/-- States of a bundle at its coordinator (Table 21.3). -/
inductive BState | opened | closing | preparing | committing | aborting | done
deriving DecidableEq, Repr

/-- A bundle at its coordinator (R364). -/
structure Bundle where
  st : BState
  opener : CtxId
  holders : List CtxId
  closed : List CtxId
  parts : List DieId
  prepared : List (DieId × Nat × Nat)
  committed : List DieId
  abortedBy : List DieId
  stamp : Nat
  digest : Nat
  tags : List (CoreId × Nat × CtxId)
  silent : Option DieId
deriving DecidableEq, Repr

/-- A companion entry (Table 21.1); slot numbers are absent when none. -/
structure Companion where
  line : Nat
  ctag : Nat
  cstamp : Nat
  cdigest : Nat
  prv : Option Nat
  pnd : Option Nat
deriving DecidableEq, Repr

/-- A retention slot (Table 21.2): state and ducat of the tag, record, line GA, data; and the jobs that stored into it
(R390). -/
structure Slot where
  state : Nat
  ducat : Nat
  stamp : Nat
  digest : Nat
  ga : Nat
  data : List Byte
  jobs : List Nat
deriving DecidableEq, Repr

/-- A line of a home L2 slice: its VALID and DIRTY masks, a bit per 32-bit word (R375). -/
structure L2Line where
  valid : BitVec 32
  dirty : BitVec 32
deriving DecidableEq, Repr

/-- What a completed task left at the producing end of a chain, on the die where it ran: its job and tile coordinate, the
chain's key and far die, and the tokens still to cross, with the EEOS of a sealed port (R154, R257, R384). -/
structure ChainTail where
  asid : Nat
  tx : Nat
  ty : Nat
  tz : Nat
  ckey : Nat
  cdie : Nat
  tokens : List Token
deriving DecidableEq, Repr

/-- A fill asked of a die's lease agent (R278): by which context, or through the management port of the die, its number among those of
that context still pending, the page and
the job; `late` once a fill that the context asked for later has finished, whose result LTSTAT keeps. -/
structure Fill where
  who : Option CtxId
  num : Nat
  va : Nat
  asid : Nat
  late : Bool
deriving DecidableEq, Repr

/-- A C-die with its S-die and its agents. `applied` holds the stamp and digest of each COMMIT that the die has applied for a
bundle not yet done, by ducat (R370); `portLt` and `portPl` the results of the last fill and push asked through the management port
(R414). -/
structure Die where
  started : Bool
  leases : List LtEntry
  nextEntry : Nat
  fills : List Fill
  portLt : Nat
  portPl : Nat
  asidbase : Nat
  rotbase : Nat
  resva : Nat
  resreason : Nat
  resln : Nat
  resHold : Option (DieId × Nat)
  flips : SMap Nat
  msrc : Nat
  mdst : Nat
  mlen : Nat
  mstate : Nat
  mcode : Nat
  mcopied : Nat
  nextLaunch : Nat
  launches : List Launch
  words : List (Nat × Nat)
  rrptr : Nat
  pmlnch : Nat
  pmgidx : Nat
  pmimg : Nat
  pmdl : Nat
  pmstat : Nat
  pmop : Option PmOp
  deftvec : Nat
  saved : List Saved
  bars : SMap BarSlot
  tails : List ChainTail
  parcels : BitVec 24
  nextRegno : Nat
  windows : SMap (List Nat)
  lastMove : SMap Nat
  lastBusy : SMap Nat
  walks : List Walk
  nextWalk : Nat
  poolOps : List PoolOp
  plrec : Nat
  vlost : Nat
  vlostga : Nat
  shwalk : Nat
  shalloc : Nat
  shlose : Nat
  bundles : SMap Bundle
  nextSeq : Nat
  hss : Nat
  comp : SMap Companion
  slots : SMap Slot
  regs : SMap Nat
  applied : SMap (Nat × Nat)
  ctcap : Nat
  rscap : Nat
  vfetch : Nat
  cscrub : Nat
  dasid : Nat
  dclr : Nat
  snoop : SMap (List CoreId)
  l2 : SMap L2Line
  l2evicts : Nat
  trbase : Nat
  trsize : Nat
  trhead : Nat
  trtail : Nat
  tren : Bool
  trstop : Bool
  trn : Nat
  trdrop : Nat
  trunsnk : Nat
  fsarm : Bool
  fsreg : Nat
  fstat : Nat
  refresh : Option Nat
  inRefresh : List Nat
deriving DecidableEq, Repr

/-! ## Package and domain -/

/-- An event waiting for the event ring (R408), with the fc in which the arbiter received it. `code` is the model's own
number of the event's kind (1 context stop, 2 residency, 3 bundle committed, 4 bundle aborted, 5 silence declared,
6 thermal shutdown); the record's code field is `Config.eventCode` of it, since the spec numbers none. -/
structure Event where
  fc : Nat
  source : Nat
  code : Nat
  payload : Nat
deriving DecidableEq, Repr

/-- How the strap BIF splits the ×16 port of a root complex (R405): the spec gives the two splits and no encoding (log 127). -/
inductive Bif | two8 | four4
deriving DecidableEq, Repr

/-- Fuses, straps and what the outside offers at start (R405, R406, R414): inputs of the environment. `mgmt` is the fuse that
names the management server, and `servers` what each server of that name would give; `nvme` the drives behind the port in
ascending bus, device and function. -/
structure Fuses where
  pfix : Bool
  psel : Nat
  pers : Nat
  pkh : Nat
  svnmin : Nat
  lone : BitVec 4
  bifSel : Bif
  nvme : List (List Byte)
  mgmt : Nat
  servers : SMap (List Byte)
  port : Bool
deriving DecidableEq, Repr

/-- A package and its Purser (R402 to R413). `bifSel` is the strap as sampled at power-on, and `lanes` the widths into which the ×16
port stands split (R405); `readData`, what the last read by a host or through the management port returned. `takeover` holds the taker and
the network addresses of each package, `taken` the addresses that this one answers (R411); `portPlan` the scale-up ports that the
firmware makes Yalzal, and `yalzal` those so configured (R409); `celsius` and `watts` what the Purser last measured (R413), by die, and
`dieEvents` the events of a bonded die that its port has still to give (R414). -/
structure Pkg where
  power : Bool
  bootAt : Nat
  stage : Nat
  unit : Nat
  personality : Nat
  bifSel : Bif
  lanes : List Nat
  failcode : Nat
  stackBad : BitVec 4
  diemap : BitVec 4
  acmap : SMap Nat
  parmap : SMap Nat
  evbase : Nat
  evhead : Nat
  events : List Event
  fwsvn : Nat
  fuses : Fuses
  image : Option (List Byte)
  measures : List Nat
  report : Option (List Nat)
  lastBeat : SMap Nat
  missed : SMap Nat
  beatsSent : SMap Nat
  silent : List PkgId
  fencedAt : SMap Nat
  takeover : SMap (PkgId × List Nat)
  taken : SMap (List Nat)
  throttled : BitVec 4
  shutdown : Bool
  hostCopies : List Nat
  hostAsks : List (DieId × Nat)
  readData : Nat
  mgmt : SMap Nat
  portPlan : BitVec 16
  yalzal : BitVec 16
  celsius : SMap Nat
  watts : Nat
  dieEvents : SMap (List Event)
deriving DecidableEq, Repr

/-- States of a line at its home directory (R372). -/
inductive Moesi | I | S | E | M | O
deriving DecidableEq, Repr

/-- A directory entry: state, owner (for E, M, O) and the dies holding copies. -/
structure DirLine where
  st : Moesi
  owner : Option DieId
  dies : List DieId
deriving DecidableEq, Repr

/-- A line dirty in a core's L1 (R129): who holds it, which of its 32 words are valid and which dirty, as its WB carries them (R375),
and the home's old bytes. -/
structure DirtyLine where
  core : CoreId
  valid : BitVec 32
  mask : BitVec 32
  old : List Byte
deriving DecidableEq, Repr

/-- Bundle messages (R364 to R369). -/
inductive BKind | join | jack | reg | rack | close | prepare | prepared | commit | committed | abort | aborted
deriving DecidableEq, Repr

/-- A bundle message in flight: kind, sending and receiving die, ducat, the context it concerns, two values. -/
structure BMsg where
  kind : BKind
  src : DieId
  dst : DieId
  ducat : Nat
  ctx : CtxId
  a : Nat
  b : Nat
deriving DecidableEq, Repr

/-- Coherence messages (R372 to R374) that are in flight after a directory step. -/
inductive CKind | rdo | fwd | ack | data | upg | inv | iack | gnt | evc | wb | nocopy
deriving DecidableEq, Repr

/-- A coherence message: kind, sender, receiver, requester, line. -/
structure CMsg where
  kind : CKind
  src : DieId
  dst : DieId
  req : DieId
  line : Nat
deriving DecidableEq, Repr

/-- Whose turn it is next (MODEL). `cc` core cycles pass first; then a core issues for the context that R251
chooses, or the row of an event happens. -/
inductive Turn
  | core (cc : Nat) (k : CoreId)
  | event (cc : Nat) (e : Instr)
deriving DecidableEq, Repr

/-- A watch match of kind CE, NI or AC not yet latched (R146): context, watchpoint, EVA; for CE the core whose engine made it,
with the number of its command, and how many further write requests that command has performed since. -/
structure WatchHit where
  ctx : CtxId
  n : Nat
  eva : Nat
  engine : Option (CoreId × Nat)
  skid : Nat
deriving DecidableEq, Repr

/-- The whole domain. `orphans` holds the bundles whose coordinator has lost power, by ducat, until the survivors resolve them
(R370). -/
structure State where
  mem : List Host.Cell
  pkgs : SMap Pkg
  dies : SMap Die
  cores : SMap Core
  ctxs : SMap Ctx
  dir : SMap DirLine
  dirty : SMap DirtyLine
  scopes : SMap (CoreId × Scope)
  bmsgs : List BMsg
  orphans : SMap Bundle
  cmsgs : List CMsg
  hits : List WatchHit
  ue : List Nat
  absent : List PkgId
  now : Nat
  cur : CtxId
  agenda : List Turn
deriving DecidableEq, Repr

/-! ## Reset -/

/-- System registers after reset (R88): IE = 1, TIMECMP all ones, the rest 0. -/
def Sys.reset : Sys :=
  { pl := false, ppl := false, ie := true, pie := false, skip := false, pri := 0, cause := 0, epc := 0, eva := 0,
    ehdr := 0, eitr := 0, tvec := 0, sscr0 := 0, sscr1 := 0, sscr2 := 0, sscr3 := 0, lease := 0, asid := 0,
    lodthr := 0, watch0 := 0, watch1 := 0, watch2 := 0, watch3 := 0,
    timecmp := 0xFFFFFFFFFFFFFFFF, bbhbase := 0 }

/-- No block entered. -/
def Block.reset : Block := ⟨0, 0, 0, 0, false, false, false, 0, false, false, [], none, []⟩

/-- A context that holds no run (R88). LTSTAT reads NONE (R278); the other values are those R88 gives. -/
def Ctx.reset : Ctx :=
  { x := [], p := 1, h := [], s := [], f := [], q := [], y := [], d := [], rg := none, sys := Sys.reset,
    blk := Block.reset, imx := [], stepNo := 0, pend := [], pushes := [], pushSeq := 0, sbuf := [], epoch := 0,
    fences := 0, fscope := none, owed := none, held := none, inLoad := none, wreport := [],
    wengine := [], wait := none, run := false, chan := none, task := none, ended := false,
    trapDepth := 0, ending := false, stopped := false, desched := false, preempt := false, reply := none,
    ltstat := 7, plstat := 0, lodSeen := false, runNo := 0, due := [], adv := 0, sent := none }

/-- An access core that has not started. No rule gives its registers a reset value: the model takes 0, and a
round robin that begins at context 0 and channel 0 (log 8, DESIGN CHOICE). -/
def Core.reset : Core :=
  { started := false, tb := 0, tags := [], copies := [], ix := [], ixSeq := 0, ixrows := 0, ixnull := 0, ixoob := 0,
    ixrreq := 0, ixrstl := 0, ixnz := 0, chans := [], lastIss := [], lastCh := [], clb := [], deltas := [], l1 := [],
    si := [], evicts := 0, cc := [], ccSeq := 0, ccerrga := 0, cclost := 0, hot := [], hctl := 0, qsel := 0 }

/-- A handler-table entry that nothing has written (log 8, DESIGN CHOICE). -/
def Chan.reset : Chan := ⟨0, false, false, 0, 0, false, 0, [], 0, [], none⟩

/-- A die that has not started. CTCAP and RSCAP hold the shipped values (R415); HSS is 0 (R366); sequences begin
at 1 (R181); the other registers have no stated value and read 0 (log 8, DESIGN CHOICE). -/
def Die.reset : Die :=
  { started := false, leases := [], nextEntry := 0, fills := [], portLt := 7, portPl := 0, asidbase := 0, rotbase := 0, resva := 0,
    resreason := 0, resln := 0, resHold := none, flips := [], msrc := 0, mdst := 0, mlen := 0,
    mstate := 0, mcode := 0,
    mcopied := 0, nextLaunch := 0, launches := [], words := [], rrptr := 63, pmlnch := 0, pmgidx := 0, pmimg := 0,
    pmdl := 0, pmstat := 0, pmop := none, deftvec := 0, saved := [], bars := [], tails := [], parcels := 0, nextRegno := 0,
    windows := [], lastMove := [], lastBusy := [], walks := [], nextWalk := 0, poolOps := [], plrec := 0, vlost := 0,
    vlostga := 0, shwalk := 0, shalloc := 0, shlose := 0, bundles := [], nextSeq := 1, hss := 0, comp := [],
    slots := [], regs := [], applied := [], ctcap := 2 ^ 24, rscap := 2 ^ 22, vfetch := 0, cscrub := 0, dasid := 0,
    dclr := 0, snoop := [], l2 := [], l2evicts := 0, trbase := 0, trsize := 0, trhead := 0, trtail := 0, tren := false, trstop := false,
    trn := 0, trdrop := 0, trunsnk := 0, fsarm := false, fsreg := 0, fstat := 0, refresh := none, inRefresh := [] }

/-- A package before power-on (R402). -/
def Pkg.reset : Pkg :=
  { power := false, bootAt := 0, stage := 0, unit := 0, personality := 0, bifSel := .two8, lanes := [16],
    failcode := 0, stackBad := 0, diemap := 0, acmap := [],
    parmap := [], evbase := 0, evhead := 0, events := [], fwsvn := 0,
    fuses := ⟨false, 0, 0, 0, 0, 0, .two8, [], 0, [], false⟩, image := none, measures := [], report := none,
    lastBeat := [], missed := [], beatsSent := [], silent := [], fencedAt := [], takeover := [], taken := [], throttled := 0,
    shutdown := false, hostCopies := [], hostAsks := [], readData := 0, mgmt := [], portPlan := 0, yalzal := 0, celsius := [],
    watts := 0, dieEvents := [] }

/-- The machine right after reset: no package has power, every map lists nothing, memory lists nothing, and no
turn is planned. -/
def State.reset : State :=
  { mem := [], pkgs := [], dies := [], cores := [], ctxs := [], dir := [], dirty := [], scopes := [], bmsgs := [], orphans := [],
    cmsgs := [], hits := [], ue := [], absent := [], now := 0, cur := 0, agenda := [] }

end Sys2Proof.Machine
end

