-- ==== Sys2Proof/Machine/Deltas.lean ====
section
/-! DEFINITION. The arithmetic of commutative updates (Table 5.4) on bytes, and the bytes and words of a 128-byte line. -/

namespace Sys2Proof.Machine

/-- Replaces bytes inside a 128-byte line. -/
def patch (l : List Byte) (off : Nat) (bs : List Byte) : List Byte := l.take off ++ bs ++ l.drop (off + bs.length)

/-- The words of a line that a byte range touches, as a mask of 32 bits (R375). -/
def wordMask (off n : Nat) : BitVec 32 :=
  (List.range n).foldl (fun m i => m ||| BitVec.ofNat 32 (2 ^ ((off + i) / 4 % 32))) 0

/-- The width of an update operation (Table 5.4). -/
def updWidth : UpdOp → Nat
  | .addW => 4 | .addF32 => 4 | .minW => 4 | .maxW => 4 | .addD => 8 | .orD => 8 | .andD => 8 | .xorD => 8

/-- The exact value of a finite binary32 as an integer over 2^149; `none` for NaN or infinity. -/
def f32Scaled (v : Nat) : Option Int :=
  let e := bitsOf v 23 8
  let m := bitsOf v 0 23
  if e = 255 then none
  else
    let a : Nat := if e = 0 then m else (m + 2 ^ 23) * 2 ^ (e - 1)
    some (if bitOf v 31 then -(a : Int) else (a : Int))

/-- binary32 from an integer over 2^149, rounded to nearest even; `z` is the pattern of an exact zero. -/
def f32OfScaled (z : Nat) (i : Int) : Nat :=
  let a := i.natAbs
  let sgn := if i < 0 then 2 ^ 31 else 0
  if a = 0 then z
  else
    let l := Nat.log2 a
    if l < 24 then sgn + a
    else
      let sh := l - 23
      let q := a / 2 ^ sh
      let r := a % 2 ^ sh
      let up := decide (2 ^ (sh - 1) < r) || (r == 2 ^ (sh - 1) && q % 2 == 1)
      let q := q + b2n up
      -- a carry out of the fraction raises the exponent by itself
      let pat := sh * 2 ^ 23 + q
      if 255 * 2 ^ 23 ≤ pat then sgn + 255 * 2 ^ 23 else sgn + pat

/-- ADD.F32 of Table 5.4: binary32 addition, RNE, subnormals kept, NaN results 0x7FC00000. -/
def f32Add (a b : Nat) : Nat :=
  match f32Scaled a, f32Scaled b with
  | some x, some y =>
    -- an exact zero sum is −0 only for −0 + −0
    f32OfScaled (if a = 2 ^ 31 && b = 2 ^ 31 then 2 ^ 31 else 0) (x + y)
  | none, some _ => if bitsOf a 0 23 = 0 then a else 0x7FC00000
  | some _, none => if bitsOf b 0 23 = 0 then b else 0x7FC00000
  | none, none =>
    if bitsOf a 0 23 = 0 && bitsOf b 0 23 = 0 && bitOf a 31 == bitOf b 31 then a else 0x7FC00000

/-- The combination of a word and a delta, which also combines two deltas (Table 5.4). -/
def updApply (op : UpdOp) (a b : Nat) : Nat :=
  match op with
  | .addW => (a + b) % 2 ^ 32
  | .addD => (a + b) % 2 ^ 64
  | .addF32 => f32Add a b
  | .minW => if signed 32 a < signed 32 b then a else b
  | .maxW => if signed 32 a < signed 32 b then b else a
  | .orD => a ||| b
  | .andD => a &&& b
  | .xorD => a ^^^ b

/-- The bytes of a line after a pending delta merges into them. -/
def Delta.over (l : List Byte) (d : Delta) : List Byte :=
  let n := updWidth d.op
  patch l (d.ga % 128) (leBytes n (updApply d.op (leNat ((l.drop (d.ga % 128)).take n)) d.v))

end Sys2Proof.Machine
end

