-- ==== Sys2Proof/Machine/Ops.lean ====
section
/-! DEFINITION. The named operations over the state: access to its parts, the register files and their latencies,
what a global address names and whether an access to it completes, translation, instruction fetch, control
transfer, the end of a word, taking a trap (R108) and returning from one (R110). -/

namespace Sys2Proof.Machine

/-! ## Parts of the state -/

/-- A package. -/
def State.pkg (s : State) (p : PkgId) : Pkg := SMap.getD s.pkgs p Pkg.reset
/-- A die. -/
def State.die (s : State) (d : DieId) : Die := SMap.getD s.dies d Die.reset
/-- A core. -/
def State.core (s : State) (k : CoreId) : Core := SMap.getD s.cores k Core.reset
/-- A context. -/
def State.ctx (s : State) (c : CtxId) : Ctx := SMap.getD s.ctxs c Ctx.reset
/-- Changes a package. -/
def State.modPkg (s : State) (p : PkgId) (f : Pkg → Pkg) : State := { s with pkgs := SMap.set s.pkgs p (f (s.pkg p)) }
/-- Changes a die. -/
def State.modDie (s : State) (d : DieId) (f : Die → Die) : State := { s with dies := SMap.set s.dies d (f (s.die d)) }
/-- Changes a core. -/
def State.modCore (s : State) (k : CoreId) (f : Core → Core) : State :=
  { s with cores := SMap.set s.cores k (f (s.core k)) }
/-- Changes a context. -/
def State.modCtx (s : State) (c : CtxId) (f : Ctx → Ctx) : State := { s with ctxs := SMap.set s.ctxs c (f (s.ctx c)) }
/-- The fabric clock: 11 fc take the time of 20 cc (R24). -/
def State.fc (s : State) : Nat := s.now * 11 / 20

/-! ## Registers -/

/-- x[r]; x0 reads 0 (R87). -/
def Ctx.getX (c : Ctx) (r : Nat) : Word := if r = 0 then 0 else SMap.getD c.x r 0
/-- p[r]; p0 reads true (R87). -/
def Ctx.getP (c : Ctx) (r : Nat) : Bool := if r = 0 then true else c.p.getLsbD r
/-- h[r]. -/
def Ctx.getH (c : Ctx) (r : Nat) : Handle := SMap.getD c.h r Handle.invalid
/-- Writes x[r]; a write to x0 keeps it (R88). -/
def Ctx.setX (c : Ctx) (r : Nat) (v : Word) : Ctx := if r = 0 then c else { c with x := SMap.set c.x r v }
/-- Writes p[r]; a write to p0 keeps it (R88). -/
def Ctx.setP (c : Ctx) (r : Nat) (v : Bool) : Ctx :=
  if r = 0 then c
  else { c with p := if v then c.p ||| BitVec.ofNat 8 (2 ^ r) else c.p &&& ~~~(BitVec.ofNat 8 (2 ^ r)) }
/-- Writes h[r]. -/
def Ctx.setH (c : Ctx) (r : Nat) (v : Handle) : Ctx := { c with h := SMap.set c.h r v }

/-- Performs a register write. -/
def RegWrite.apply (c : Ctx) : RegWrite → Ctx
  | .x r v => c.setX r v
  | .p r v => c.setP r v
  | .h r v => c.setH r v
  | .f r v => { c with f := SMap.set c.f r v }

/-- Writes a result of nominal latency `lat`: at once in scoreboard mode, whose values follow program order (R92);
at issue step t + lat in exposed mode (R91). -/
def Ctx.put (c : Ctx) (lat : Nat) (w : RegWrite) : Ctx :=
  if c.blk.m then w.apply c else { c with pend := c.pend ++ [⟨c.stepNo + lat, w⟩] }

/-- Lands the pending writes due by issue step `n`, oldest word first. -/
def Ctx.landBy (c : Ctx) (n : Nat) : Ctx :=
  let done := c.pend.filter (fun q => decide (q.due ≤ n))
  { done.foldl (fun c q => q.wr.apply c) c with pend := c.pend.filter (fun q => decide (n < q.due)) }

/-- Lands every pending write, in the order their steps fall due (R93, R108). -/
def Ctx.landAll (c : Ctx) : Ctx :=
  let top := c.pend.foldl (fun m q => max m q.due) 0
  { (List.range (top + 1 - c.stepNo)).foldl (fun c i => c.landBy (c.stepNo + i)) c with pend := [] }

/-- The predicate of a word holds (R62). -/
def Ctx.holds (c : Ctx) (p : Pred) : Bool := (c.getP p.pg.toNat) != p.pn

/-! ## Global addresses (R25 to R27) -/

/-- PKG of a GA. -/
def gaPkg (g : Nat) : PkgId := bitsOf g 50 6
/-- The die of the domain a GA names. -/
def gaDie (g : Nat) : DieId := bitsOf g 48 8
/-- SPACE of a GA. -/
def gaSpace (g : Nat) : Nat := bitsOf g 44 4
/-- OFFSET of a GA. -/
def gaOff (g : Nat) : Nat := bitsOf g 0 44
/-- The 56 bits of a GA held in a register (R25). -/
def gaOf (v : Nat) : Nat := v % 2 ^ 56
/-- The GA of a die, space and offset. -/
def mkGa (d : DieId) (space off : Nat) : Nat := d * 2 ^ 48 + space * 2 ^ 44 + off
/-- The 128-byte line of a GA. -/
def lineOf (g : Nat) : Nat := g / 128

/-- Who makes an access, as Table 1.8 tells them apart. -/
inductive Acc
  | load (priv : Bool) | store | copyRead (priv : Bool) | copyWrite (priv : Bool) | mloadb | engine
deriving DecidableEq, Repr

/-- The extent of a space on a die (Table 1.8, R415). -/
def spaceExtent (d : Die) : Nat → Nat
  | 0 => 2 ^ 37 - (64 * d.ctcap + 256 * d.rscap)
  | 1 => 384 * 2 ^ 30
  | 2 => 2 ^ 26
  | 3 => 2 ^ 29
  | 4 => 96 * 2 ^ 20
  | 5 => 64 * d.ctcap
  | 6 => 256 * d.rscap
  | 7 => 0x170000
  | _ => 0

/-- Whether a die's kernel runs: a task is placed on it (R16). -/
def kernelRuns (s : State) (d : DieId) : Bool := s.ctxs.any (fun e => decide (dieOf e.1 = d) && e.2.task.isSome)

/-- Whether Table 1.8 admits an access to a space. -/
def admitted (s : State) (d : DieId) (space : Nat) : Acc → Bool
  | .load priv => space ≤ 2 || ((space == 5 || space == 6 || space == 7) && priv)
  | .store => space ≤ 2 || space == 7
  | .copyRead priv => space ≤ 2 || (space == 4 && priv)
  | .copyWrite priv => space ≤ 2 || (space == 3 && !kernelRuns s d) || (space == 4 && priv)
  | .mloadb => space == 2 || space == 3
  | .engine => space ≤ 2

/-- Two packages are joined by the load-store domain, which runs over Yalzal ports only (R409). -/
def joined (s : State) (from' p : PkgId) : Bool := from' == p || ((s.pkg from').yalzal != 0 && (s.pkg p).yalzal != 0)

/-- Whether package `from` may not reach a package: it is absent from the domain, or `from` has fenced it (R27,
R409, R411). -/
def pkgGone (s : State) (from' p : PkgId) : Bool :=
  s.absent.contains p || (s.pkg from').silent.contains p || !joined s from' p

/-- Whether an access of `n` bytes from package `from` completes FENCED (R27, R403). -/
def fenced (s : State) (from' : PkgId) (acc : Acc) (g n : Nat) : Bool :=
  let d := gaDie g
  pkgGone s from' (gaPkg g) || !(s.die d).started || decide (8 ≤ gaSpace g)
    || decide (spaceExtent (s.die d) (gaSpace g) < gaOff g + n) || !admitted s d (gaSpace g) acc

/-- Whether a byte range meets an uncorrectable error (R128). -/
def hasUe (s : State) (g n : Nat) : Bool := s.ue.any (fun a => decide (g ≤ a) && decide (a < g + n))

/-- A companion entry as its 64 bytes (Table 21.1). -/
def Companion.bytes (e : Companion) : List Byte :=
  leBytes 8 (e.line + 2 ^ 63) ++ leBytes 4 e.ctag ++ leBytes 4 0 ++ leBytes 4 (e.prv.getD 0xFFFFFFFF)
    ++ leBytes 4 (e.pnd.getD 0xFFFFFFFF) ++ leBytes 8 0 ++ leBytes 8 e.cstamp ++ leBytes 8 e.cdigest ++ leBytes 16 0

/-- A retention slot as its 256 bytes (Table 21.2). -/
def Slot.bytes (e : Slot) : List Byte :=
  e.data ++ leBytes 8 e.stamp ++ leBytes 8 e.digest ++ leBytes 4 (e.state * 2 ^ 28 + e.ducat % 2 ^ 28) ++ leBytes 4 0
    ++ leBytes 8 e.ga ++ leBytes 96 0

/-- The byte at a GA: spaces 5 and 6 show the companion entries and retention slots (R360, R361). -/
def State.byteAt (s : State) (g : Nat) : Byte :=
  let d := s.die (gaDie g)
  if gaSpace g = 5 then
    match SMap.find d.comp (gaOff g / 64) with
    | some e => (Companion.bytes e).getD (gaOff g % 64) 0
    | none => 0
  else if gaSpace g = 6 then
    match SMap.find d.slots (gaOff g / 256) with
    | some e => (Slot.bytes e).getD (gaOff g % 256) 0
    | none => 0
  else Mem.get s.mem g

/-- `n` bytes from a GA. -/
def State.bytesAt (s : State) (g : Nat) : Nat → List Byte
  | 0 => []
  | n + 1 => s.byteAt g :: State.bytesAt s (g + 1) n

/-- Mem[g, n] as a number. -/
def State.peek (s : State) (g n : Nat) : Nat := leNat (s.bytesAt g n)

/-- The copy of a byte of a line that a page migration has copied, and so follows writes to its source (R286). -/
def forwardByte (dies : SMap Die) (m : List Host.Cell) (g : Nat) (b : Byte) : List Host.Cell :=
  dies.foldl (fun m e =>
    let d := e.2
    if d.mstate != 0 && decide (d.msrc ≤ g) && decide (g < d.msrc + d.mcopied * 128) then Mem.set m (d.mdst + (g - d.msrc)) b
    else m) m

/-- Bytes forwarded to the lines that page migrations have copied (R286). -/
def forwardBytes (dies : SMap Die) : List Host.Cell → Nat → List Byte → List Host.Cell
  | m, _, [] => m
  | m, g, b :: bs => forwardBytes dies (forwardByte dies m g b) (g + 1) bs

/-- Bytes land at their home: the coherent value changes, and the destination of a migration follows. -/
def State.put (s : State) (g : Nat) (bs : List Byte) : State :=
  { s with mem := forwardBytes s.dies (Mem.setBytes s.mem g bs) g bs }

/-- Mem[g, n] := v, of the coherent value. -/
def State.poke (s : State) (g n v : Nat) : State := s.put g (leBytes n v)

/-! ## Reads that see pending updates (R136, R349) -/

/-- The update-only deltas pending on a line, anywhere in the domain, that a merge would write. -/
def State.deltasOn (s : State) (line : Nat) : List Delta :=
  s.cores.flatMap (fun e => e.2.deltas.filter (fun d =>
    lineOf d.ga == line && !fenced s (pkgOf (dieOfCore e.1)) .engine d.ga (updWidth d.op)))

/-- The byte that a read at the home returns, once it has recalled every pending delta of its line. -/
def State.seenAt (s : State) (g : Nat) : Byte :=
  match s.deltasOn (lineOf g) with
  | [] => s.byteAt g
  | l => (l.foldl Delta.over (s.bytesAt (lineOf g * 128) 128)).getD (g % 128) 0

/-- `n` such bytes. -/
def State.seenBytes (s : State) (g : Nat) : Nat → List Byte
  | 0 => []
  | n + 1 => s.seenAt g :: State.seenBytes s (g + 1) n

/-- Their number. -/
def State.seen (s : State) (g n : Nat) : Nat := leNat (s.seenBytes g n)

/-- A read that completes: its value, or the cause MEMUE or FENCED. -/
def readOut (s : State) (from' : PkgId) (acc : Acc) (g n : Nat) : Except Nat Nat :=
  if fenced s from' acc g n then .error 0x51 else if hasUe s g n then .error 0x50 else .ok (s.seen g n)

/-! ## Ownership of shared regions (R283, R284) -/

/-- The ownership byte of the 2 MiB region of a GA: SHR and OWN. Only space 0 has regions. -/
def ownByte (s : State) (g : Nat) : Nat :=
  let d := s.die (gaDie g)
  if gaSpace g = 0 && d.started then s.seen (d.rotbase + gaOff g / 2 ^ 21) 1 else 0

/-- A device-side access to the region waits: it is shared and owned by PROC. -/
def procOwned (s : State) (g : Nat) : Bool := let b := ownByte s g; bitOf b 0 && !bitOf b 1

/-- The wait for the region of a GA (R284). -/
def ownWait (g : Nat) : Wait := .ownership (gaDie g) (gaOff g / 2 ^ 21)

/-- The wait that a series of reads meets first. -/
def firstOwned (s : State) (gas : List Nat) : Option Wait := (gas.find? (procOwned s)).map ownWait

/-! ## Translation (R272 to R276) -/

/-- The bytes of a page-size code (Table 5.2). -/
def pageBytes : Nat → Nat | 0 => 2 ^ 12 | 1 => 2 ^ 16 | 2 => 2 ^ 21 | _ => 2 ^ 30

/-- How many entries of the lease table a page takes (R276). -/
def entryCost (psize : Nat) : Nat := if psize = 3 then 512 else 1

/-- Entries in use (LTOCC). -/
def leaseOcc (d : Die) : Nat := d.leases.foldl (fun n e => n + entryCost e.psize) 0

/-- The lease-table entry for a virtual address of a job. -/
def leaseFind (d : Die) (asid va : Nat) : Option LtEntry :=
  d.leases.find? (fun e => decide (e.asid = asid) && decide (e.va ≤ va) && decide (va < e.va + pageBytes e.psize))

/-- What a page-table walk finds. -/
inductive WalkResult
  | leaf (e : LtEntry)
  | absent
  | malformed
deriving DecidableEq, Repr

/-- The checks of R275 on a present entry at a level, but for the uniform group of a 64 KiB page. -/
def pteBad (level v : Nat) : Bool :=
  let leaf := bitOf v 62
  let frame := bitsOf v 0 44
  let space := bitsOf v 32 4
  bitsOf v 44 9 != 0 || bitsOf v 59 2 == 3
    || (leaf && (level == 3 || !(space ≤ 2 || space == 7) || (bitOf v 56 && (bitOf v 55 || bitOf v 58))
        || (bitOf v 61 && level != 0)
        || frame % (if level == 2 then 2 ^ 18 else if level == 1 then 2 ^ 9 else 1) != 0))
    || (!leaf && (level == 0 || bitsOf v 53 9 != 0))

/-- The 16 entries of a 64 KiB page agree (R275, last item): C, attributes, and frames rising by 4 KiB. -/
def groupOk (vs : List Nat) : Bool :=
  match vs with
  | [] => false
  | v0 :: _ =>
    bitsOf v0 0 4 == 0 && (vs.zip (List.range 16)).all (fun e =>
      bitsOf e.1 44 20 == bitsOf v0 44 20 && bitOf e.1 63 && bitsOf e.1 0 44 == bitsOf v0 0 44 + e.2)

/-- The entry that a leaf makes (R276). -/
def leafEntry (asid va level v : Nat) : LtEntry :=
  let ps := if level == 2 then 3 else if level == 1 then 2 else if bitOf v 61 then 1 else 0
  let frame := bitsOf v 0 44 * 4096
  { id := 0, asid := asid, va := va / pageBytes ps * pageBytes ps, psize := ps,
    gbase := frame / pageBytes ps * pageBytes ps, ord := bitsOf v 59 2, nt := bitOf v 58, sdb := bitOf v 57,
    bnd := bitOf v 56, vf := bitOf v 55, w := bitOf v 54, x := bitOf v 53, pins := 0 }

/-- The shift of the address bits that index a level (R273). -/
def levelShift : Nat → Nat | 0 => 12 | 1 => 21 | 2 => 30 | _ => 39

/-- Walks from a table at a level down (R273). `from` is the package of the die that walks. -/
def ptWalk (s : State) (from' : PkgId) (asid va table : Nat) : Nat → WalkResult
  | 0 =>
    let at' := table + 8 * (va / 2 ^ 12 % 512)
    match readOut s from' .engine at' 8 with
    | .error _ => .malformed
    | .ok v =>
      if !bitOf v 63 then .absent
      else if pteBad 0 v then .malformed
      else if bitOf v 61 then
        let g0 := table + 8 * (va / 2 ^ 16 % 32 * 16)
        if groupOk ((List.range 16).map (fun i => s.seen (g0 + 8 * i) 8)) then
          .leaf (leafEntry asid va 0 (s.seen g0 8))
        else .malformed
      else .leaf (leafEntry asid va 0 v)
  | l + 1 =>
    let at' := table + 8 * (va / 2 ^ levelShift (l + 1) % (if l + 1 = 3 then 2 ^ 17 else 512))
    match readOut s from' .engine at' 8 with
    | .error _ => .malformed
    | .ok v =>
      if !bitOf v 63 then .absent
      else if pteBad (l + 1) v then .malformed
      else if bitOf v 62 then .leaf (leafEntry asid va (l + 1) v)
      else ptWalk s from' asid va (bitsOf v 0 44 * 4096) l

/-- The job's root table from the die's ASID table (R272), then the walk. An entry with V = 0 gives `absent`. -/
def walkPage (s : State) (d : DieId) (asid va : Nat) : WalkResult :=
  let at' := (s.die d).asidbase + 16 * (asid % 2 ^ 15)
  match readOut s (pkgOf d) .engine at' 8 with
  | .error _ => .malformed
  | .ok v =>
    if !bitOf v 63 then .absent
    else if bitsOf v 56 7 != 0 || bitsOf v 0 20 != 0 || decide (2 < bitsOf v 44 4) then .malformed
    else ptWalk s (pkgOf d) asid va (gaOf v) 3

/-- The table entries that a walk reads from a table at a level down, in order. -/
def ptGas (s : State) (from' : PkgId) (va table : Nat) : Nat → List Nat
  | 0 => [table + 8 * (va / 2 ^ 12 % 512)]
  | l + 1 =>
    let at' := table + 8 * (va / 2 ^ levelShift (l + 1) % (if l + 1 = 3 then 2 ^ 17 else 512))
    match readOut s from' .engine at' 8 with
    | .error _ => [at']
    | .ok v => if bitOf v 63 && !pteBad (l + 1) v && !bitOf v 62 then at' :: ptGas s from' va (bitsOf v 0 44 * 4096) l else [at']

/-- The table entries that `walkPage` reads, in order. -/
def walkGas (s : State) (d : DieId) (asid va : Nat) : List Nat :=
  let at' := (s.die d).asidbase + 16 * (asid % 2 ^ 15)
  match readOut s (pkgOf d) .engine at' 8 with
  | .error _ => [at']
  | .ok v =>
    if bitOf v 63 && !(bitsOf v 56 7 != 0 || bitsOf v 0 20 != 0 || decide (2 < bitsOf v 44 4)) then
      at' :: ptGas s (pkgOf d) va (gaOf v) 3
    else [at']

/-- A fill (R278): the result code of LTSTAT, with the entry inserted. -/
def fillPage (s : State) (d : DieId) (asid va : Nat) : State × Nat :=
  match leaseFind (s.die d) asid va with
  | some _ => (s, 0)
  | none =>
    match walkPage s d asid va with
    | .absent => (s, 2)
    | .malformed => (s, 3)
    | .leaf e =>
      if 262144 < leaseOcc (s.die d) + entryCost e.psize then (s, 4)
      else
        (s.modDie d (fun x => { x with leases := x.leases ++ [{ e with id := x.nextEntry }]
                                       nextEntry := x.nextEntry + 1 }), 0)

/-! ## Instruction fetch (R111) -/

/-- A fetch fault: cause and EVA. -/
abbrev FetchFault := Nat × Nat

/-- The GA that an instruction byte at a virtual address is fetched from; the state after a miss that walks. -/
def fetchAddr (s : State) (c : CtxId) (va : Nat) : State × Except FetchFault Nat :=
  let d := dieOf c
  if 2 ^ 56 ≤ va then (s, .error (0x11, va))
  else
    let asid := (s.ctx c).sys.asid
    let r := if (leaseFind (s.die d) asid va).isSome then (s, none)
             else let f := fillPage s d asid va; (f.1.modCtx c (fun x => { x with ltstat := f.2 }), some f.2)
    match leaseFind (r.1.die d) asid va with
    | none => (r.1, .error (0x10, va))
    | some e =>
      if !e.x || decide (2 < gaSpace e.gbase) then (r.1, .error (0x11, va))
      else
        let g := e.gbase + (va - e.va)
        match readOut r.1 (pkgOf d) .engine g 2 with
        | .error code => (r.1, .error (code, g))
        | .ok _ => (r.1, .ok g)

/-- Fetches one parcel. -/
def fetchParcel (s : State) (c : CtxId) (va : Nat) : State × Except FetchFault Nat :=
  match fetchAddr s c va with
  | (s', .error f) => (s', .error f)
  | (s', .ok g) => (s', .ok (s'.seen g 2))

/-- Fetches `n` parcels in ascending order; the first that fails decides. -/
def fetchParcels (s : State) (c : CtxId) (va : Nat) : Nat → State × Except FetchFault (List Nat)
  | 0 => (s, .ok [])
  | n + 1 =>
    match fetchParcel s c va with
    | (s', .error f) => (s', .error f)
    | (s', .ok p) =>
      match fetchParcels s' c (va + 2) n with
      | (s'', .error f) => (s'', .error f)
      | (s'', .ok ps) => (s'', .ok (p :: ps))

/-- Parcels as bytes. -/
def parcelBytes (ps : List Nat) : List Byte := ps.flatMap (fun p => leBytes 2 p)

/-- The word at a code address: its first parcel, and the second when the first opens a 32-bit word (R61). -/
def fetchWord (s : State) (c : CtxId) (va : Nat) : State × Except FetchFault (List Byte) :=
  match fetchParcel s c va with
  | (s', .error f) => (s', .error f)
  | (s', .ok p) =>
    if isLong p then
      match fetchParcel s' c (va + 2) with
      | (s'', .error f) => (s'', .error f)
      | (s'', .ok q) => (s'', .ok (leBytes 2 p ++ leBytes 2 q))
    else (s', .ok (leBytes 2 p))

/-- A header's fields, when a 32-bit number is one (Table 3.3). A header with bit 9 set still opens a block, which
is then malformed (R65). -/
def headerOf (w : Nat) : Option (Nat × Nat × Bool × Bool × Bool) :=
  if bitsOf w 0 6 = 1 then some (bitsOf w 20 12, bitsOf w 10 10, bitOf w 8, bitOf w 7, bitOf w 6) else none

/-- Reads the header at a code address: from the pinned block's copy in the loop buffer, else by fetch. The parcel at the
address says whether a header stands there, and only a header has its second parcel fetched (R100, R111). -/
def fetchHeader (s : State) (c : CtxId) (va : Nat) :
    State × Except FetchFault (Option (Nat × Nat × Bool × Bool × Bool)) :=
  match (s.ctx c).blk.pin with
  | some (a, bs) => if a = va then (s, .ok (headerOf (leNat (bs.take 4)))) else fetched
  | none => fetched
where
  fetched :=
    match fetchParcel s c va with
    | (s', .error f) => (s', .error f)
    | (s', .ok p) =>
      if bitsOf p 0 6 = 1 then
        match fetchParcel s' c (va + 2) with
        | (s'', .error f) => (s'', .error f)
        | (s'', .ok q) => (s'', .ok (headerOf (p + 2 ^ 16 * q)))
      else (s', .ok none)

/-- What fetching the parcel at an address reads: on a miss the page tables, and the parcel itself. -/
def fetchGas (s : State) (c : CtxId) (va : Nat) : List Nat :=
  let d := dieOf c
  let at' (e : LtEntry) : List Nat := if e.x then [e.gbase + (va - e.va)] else []
  if 2 ^ 56 ≤ va then []
  else
    match leaseFind (s.die d) (s.ctx c).sys.asid va with
    | some e => at' e
    | none => walkGas s d (s.ctx c).sys.asid va ++ (match walkPage s d (s.ctx c).sys.asid va with | .leaf e => at' e | _ => [])

/-- The wait that fetching `n` parcels from an address meets (R284): one parcel of each page tells. -/
def codeWait (s : State) (c : CtxId) (va n : Nat) : Option Wait :=
  firstOwned s (((List.range n).filter (fun i => i = 0 || (va + 2 * i) % 4096 < 2)).flatMap (fun i => fetchGas s c (va + 2 * i)))

/-- The wait that fetching the word at an address meets; `long` tells from its first parcel whether a second follows. -/
def wordWait (s : State) (c : CtxId) (va : Nat) (long : Nat → Bool) : Option Wait :=
  match codeWait s c va 1 with
  | some w => some w
  | none =>
    if (va + 2) % 4096 < 2 then
      match (fetchParcel s c va).2 with
      | .ok p => if long p then codeWait s c (va + 2) 1 else none
      | .error _ => none
    else none

/-- The wait that checking a target meets (R100, R284). -/
def headerWait (s : State) (c : CtxId) (va : Nat) : Option Wait :=
  if va % 2 = 1 || (match (s.ctx c).blk.pin with | some (a, _) => a == va | none => false) then none
  else wordWait s c va (fun p => bitsOf p 0 6 == 1)

/-! ## Events and traps -/

/-- The die's number among event sources (R408): 1 to 4 for C-dies 0 to 3. -/
def dieSource (d : DieId) : Nat := 1 + d % 4

/-- Enters an event in the arbiter's order: by the fc of its receipt, then by source number (R408). -/
def enterEvent (e : Event) : List Event → List Event
  | [] => [e]
  | f :: l => if e.fc = f.fc && decide (e.source < f.source) then e :: f :: l else f :: enterEvent e l

/-- The C-die of a package that an event source belongs to (R408, R414): its own number, or that of its four ports. -/
def sourceDie (source : Nat) : Option Nat := if source = 0 then none else some (if source ≤ 4 then source - 1 else (source - 5) / 4)

/-- Sends an event to the arbiter of a package (R408); those of a bonded die also wait at its management port (R414). -/
def record (s : State) (p : PkgId) (source code payload : Nat) : State :=
  let e : Event := ⟨s.fc, source, code, payload⟩
  s.modPkg p (fun k =>
    { k with events := enterEvent e k.events
             dieEvents := match sourceDie source with
               | some d => if k.fuses.lone.getLsbD d then SMap.set k.dieEvents d (SMap.getD k.dieEvents d [] ++ [e]) else k.dieEvents
               | none => k.dieEvents })

/-- COREID of a context (Table 4.5). -/
def coreId (s : State) (c : CtxId) : Nat :=
  c % 16 + 2 ^ 4 * (c / 16 % 64) + 2 ^ 10 * (c / 1024 % 4) + 2 ^ 12 * (c / 4096 % 64)
    + (match (s.ctx c).chan with | some ch => 2 ^ 18 * ch + 2 ^ 24 | none => 0)

/-- The first word of the instruction under way: the first IMX prefix met, or the word itself (R71). -/
def Ctx.wordPc (c : Ctx) : Nat := c.blk.pc - 4 * c.imx.length

/-- The target check of R100: the code address of a header with E = 1, else the cause, EVA and FETCH. -/
def checkTarget (s : State) (c : CtxId) (tgt : Nat) : State × Except (Nat × Nat × Bool) Unit :=
  if tgt % 2 = 1 then (s, .error (0x02, tgt, false))
  else
    match fetchHeader s c tgt with
    | (s', .error (code, va)) => (s', .error (code, va, true))
    | (s', .ok none) => (s', .error (0x02, tgt, false))
    | (s', .ok (some (_, _, _, e, _))) => if e then (s', .ok ()) else (s', .error (0x02, tgt, false))

/-- Execution stands before the header at `tgt`, to be entered at its first iteration. -/
def Ctx.goTo (c : Ctx) (tgt : Nat) (ft : Bool) : Ctx :=
  { c with blk := { c.blk with pc := tgt, entering := true, ft := ft, iter := 0 }, imx := [], wait := none }

/-- TrapEntry of R108. EPC names the first IMX of the instruction; in a block being entered EPC = EHDR = the
header and the iteration is the one it is entered in, 0 but after a RETH (R109, R111). A TVEC that fails the check of R100
stops the context and records a context-stop event. LEASEV marks the run as ending (R281). -/
def enterTrap (s : State) (c : CtxId) (code eva : Nat) (skip fetch : Bool) : State :=
  let x := (s.ctx c).landAll
  let epc := x.wordPc
  let ehdr := if x.blk.entering then x.blk.pc else x.blk.hdr
  let eitr := if x.blk.entering then (if x.blk.ft then 4096 else 0) + x.blk.iter else x.blk.iter
  let sys : Sys :=
    { x.sys with epc := wordOf epc, ehdr := wordOf ehdr, eitr := wordOf eitr
                 cause := wordOf (code + (if fetch then 256 else 0)), eva := wordOf eva
                 ppl := x.sys.pl, pie := x.sys.ie, skip := skip, pl := true, ie := false }
  let s1 := s.modCtx c (fun _ => { x with sys := sys, imx := [], wait := none, reply := none
                                          trapDepth := x.trapDepth + 1, ending := x.ending || code == 0x11 })
  match checkTarget s1 c sys.tvec.toNat with
  | (s2, .ok _) => s2.modCtx c (fun x => x.goTo sys.tvec.toNat false)
  | (s2, .error _) =>
    record (s2.modCtx c (fun x => { x with stopped := true })) (pkgOf (dieOf c)) (dieSource (dieOf c)) 1 (coreId s2 c)

/-- Takes a trap. The fetch of its handler's header waits while a host owns the region that it reads (R284): the trap is
then held, and taken first once the region is the device's. -/
def trapEntry (s : State) (c : CtxId) (code eva : Nat) (skip fetch : Bool) : State :=
  match headerWait s c (s.ctx c).sys.tvec.toNat with
  | none => enterTrap s c code eva skip fetch
  | some w => s.modCtx c (fun x => { x with held := some ⟨code, eva, skip, fetch⟩, wait := some ⟨w, s.now⟩ })

/-- A trap of the running word, with SKIP 0. -/
def trap (s : State) (code eva : Nat) : State := trapEntry s s.cur code eva false false

/-- BADOP and PRIV carry the word's first 32 bits in EVA (Table 4.7). -/
def trapWord (s : State) (code : Nat) (i : Instr) : State := trap s code ((encode i).getD 0)

/-! ## The end of a word -/

/-- Moves past a word of `n` bytes: the next word of the body, the body's next iteration, or the parcel after the
block, to be entered by fall-through (R66). The instruction's prefixes are spent. -/
def Ctx.advance (c : Ctx) (n : Nat) : Ctx :=
  let b := c.blk
  let pc := b.pc + n
  let blk :=
    if pc < b.hdr + 4 + 2 * b.len then { b with pc := pc }
    else if b.iter < b.rep then { b with pc := b.hdr + 4, iter := b.iter + 1 }
    else { b with pc := b.hdr + 4 + 2 * b.len, entering := true, ft := true, iter := 0 }
  { c with blk := blk, imx := [], wait := none }

/-- One issue step has passed: writes that fall due land (R91). -/
def Ctx.tickStep (c : Ctx) : Ctx := { c with stepNo := c.stepNo + 1 }.landBy (c.stepNo + 1)

/-- The word of `n` bytes completes. -/
def retire (s : State) (n : Nat) : State := s.modCtx s.cur (fun c => (c.advance n).tickStep)

/-- The running context. -/
def State.me (s : State) : Ctx := s.ctx s.cur
/-- Changes the running context. -/
def State.modMe (s : State) (f : Ctx → Ctx) : State := s.modCtx s.cur f
/-- The running context's die. -/
def State.myDie (s : State) : DieId := dieOf s.cur
/-- The running context's core. -/
def State.myCore (s : State) : CoreId := coreOf s.cur
/-- x[r] of the running context. -/
def State.x (s : State) (r : BitVec 5) : Word := s.me.getX r.toNat

/-- A 32-bit word that takes no IMX prefix: a prefix before it is BADOP at the first IMX (R71), whatever the
predicate; a predicated-off word only takes its step (R89). -/
def word (s : State) (p : Pred) (body : State → State) : State :=
  match s.me.imx with
  | m :: _ => trap s 0x01 (21 + 64 * m.toNat)
  | [] => if s.me.holds p then body s else retire s 4

/-- A word of major 2 to 5, 7, 9, 14 or 15, which takes its prefixes (R71). -/
def wordImm (s : State) (p : Pred) (body : State → State) : State :=
  if s.me.holds p then body s else retire s 4

/-- A 16-bit word is never predicated and takes no prefix (R63, R71). -/
def word16 (s : State) (body : State → State) : State :=
  match s.me.imx with
  | m :: _ => trap s 0x01 (21 + 64 * m.toNat)
  | [] => body s

/-- Writes one result of latency `lat` and completes a word of `n` bytes. -/
def finish (s : State) (n lat : Nat) (w : RegWrite) : State := retire (s.modMe (fun c => c.put lat w)) n

/-- The waiting load of an agent's register completes with a value for x[r] (R128, R278). -/
def loadDone (s : State) (c : CtxId) (r : Nat) (v : Word) : State :=
  s.modCtx c (fun y => ((y.put 4 (.x r v)).advance 4).tickStep)

/-- A wait of one kind goes on from a wait of another: but for BST's check 6, whose time starts with it (R184). -/
def Wait.sinceOf (w : Wait) (old : Waiting) (now : Nat) : Nat :=
  match w, old.kind with
  | .bstConflict _ _ _, .bstConflict _ _ _ => old.since
  | .bstConflict _ _ _, _ => now
  | _, _ => old.since

/-- The running context begins, or goes on, waiting: it takes no step (R249). -/
def waitFor (s : State) (w : Wait) : State :=
  s.modMe (fun c =>
    match c.wait with
    | some old => if old.kind = w then c else { c with wait := some ⟨w, w.sinceOf old s.now⟩ }
    | none => { c with wait := some ⟨w, s.now⟩, lodSeen := false })

/-- The waits of a load whose request is made. -/
def Wait.ofLoad : Wait → Bool
  | .prepared _ => true
  | .ltstat _ _ => true
  | .plstat _ _ => true
  | .dclrv _ _ => true
  | .ccflush _ _ => true
  | .mctl _ _ => true
  | .pmctl _ _ => true
  | _ => false

/-- The handle of a load that waits with its request made. -/
def Ctx.loading (c : Ctx) : Option Handle :=
  match c.wait with
  | some w => if w.kind.ofLoad then c.inLoad else none
  | none => none

/-- Pre-emption abandons the wait (Table 11.7). -/
def Wait.abandoned : Wait → Bool
  | .join _ | .babort _ | .shoot _ | .vshoot _ | .vfree _ _ _ _ | .walk _ _ | .drain | .prepared _ | .ltstat _ _
  | .plstat _ _ | .dclrv _ _ | .ccflush _ _ | .mctl _ _ | .mctlEnd _ | .pmctl _ _ => false
  | _ => true

/-- A latched report is the next thing that a context takes: it runs, with IE = 1, and is in no wait that pre-emption lets
complete (R146, R379). -/
def Ctx.watchNext (c : Ctx) : Bool :=
  c.run && !c.stopped && !c.ended && !c.desched && c.held.isNone && c.sys.ie && !c.wreport.isEmpty
    && (match c.wait with | some w => w.kind.abandoned | none => true)

/-- It may be taken now: between two steps, or in a wait that pre-emption abandons (R146, R379). -/
def Ctx.watchDue (c : Ctx) : Bool := c.watchNext && (c.wait.isSome || c.imx.isEmpty)

/-- An engine command of a context has advanced (R314). -/
def noteAdvance (s : State) (c : CtxId) : State := s.modCtx c (fun x => { x with adv := s.fc })

/-- A function of privilege S: at U it traps PRIV (R75). -/
def privileged (s : State) (i : Instr) (body : State → State) : State :=
  if s.me.sys.pl then body s else trapWord s 0x03 i

/-- A target is checked by R100, then `body` follows. While a host owns a region that the check reads, the context waits
(R284). -/
def targetChecked (s : State) (tgt : Nat) (body : State → State) : State :=
  match headerWait s s.cur tgt with
  | some w => waitFor s w
  | none =>
    match checkTarget s s.cur tgt with
    | (s', .error (code, va, fetch)) => trapEntry s' s'.cur code va false fetch
    | (s', .ok _) => body s'

/-- A taken transfer, its target already computed: checked by R100 before anything changes, then `link` writes x1
with the address after the calling block's body. -/
def transfer (s : State) (tgt : Nat) (link : Bool) : State :=
  targetChecked s tgt (fun s' =>
    s'.modMe (fun c =>
      let lv := wordOf (c.blk.hdr + 4 + 2 * c.blk.len)
      let c := if link then c.put 1 (.x 1 lv) else c
      (c.goTo tgt false).tickStep))

/-! ## Return from a trap -/

/-- Whether a code address starts a word of a body: the parcels are walked from the body's first (R110). -/
def startsWord : List Nat → Nat → Nat → Bool
  | [], _, _ => false
  | p :: ps, at', pc => at' == pc || startsWordFrom (isLong p) ps (at' + 2) pc
where
  /-- `second`: the next parcel is the second of a 32-bit word. -/
  startsWordFrom : Bool → List Nat → Nat → Nat → Bool
    | _, [], _, _ => false
    | true, _ :: ps, at', pc => startsWordFrom false ps (at' + 2) pc
    | false, p :: ps, at', pc => at' == pc || startsWordFrom (isLong p) ps (at' + 2) pc

/-- How many bytes the instruction at the head of the parcels takes, prefixes included (R71). DESIGN CHOICE (log 129): where the
parcels after a prefix cannot be read, only what can be read counts. -/
def instrBytes : List Nat → Nat
  | [] => 2
  | p :: ps =>
    if !isLong p then 2
    else if bitsOf p 1 5 = 10 then
      match ps with
      | _ :: ps' => 4 + instrBytes ps'
      | [] => 4
    else 4

/-- The checks of RETH on the header at EHDR and the place of EPC, before any parcel of the body is read (R110). -/
def rethPlaceOk (rep len iter ehdr epc : Nat) (e ft : Bool) : Bool :=
  decide (iter ≤ rep)
    && (if epc = ehdr then ft || e else decide (ehdr + 4 ≤ epc) && decide (epc < ehdr + 4 + 2 * len) && epc % 2 == 0)

/-- STATUS after RETH's first line: PL := PPL, IE := PIE; one level of handler is left. -/
def Ctx.restore (c : Ctx) : Ctx :=
  { c with sys := { c.sys with pl := c.sys.ppl, ie := c.sys.pie }, trapDepth := c.trapDepth - 1 }

/-- A fetch fault of RETH's checks is the resumed word's own (R110): PL and IE are restored, then the fault is
taken with EPC, EHDR, EITR and SKIP as this RETH found them. -/
def rethRefault (s : State) (code va : Nat) : State :=
  match headerWait s s.cur s.me.sys.tvec.toNat with
  | some w => waitFor s w
  | none =>
  let s1 := s.modMe Ctx.restore
  let keep := s1.me.sys
  (trapEntry s1 s1.cur code va keep.skip true).modCtx s1.cur (fun x =>
    { x with sys := { x.sys with epc := keep.epc, ehdr := keep.ehdr, eitr := keep.eitr } })

/-- The resumption of RETH in iteration `iter` of a block, at EPC, or past the instruction of `skipped` bytes. The
results of earlier words are all written first when M changes (R93). -/
def Ctx.resume (c : Ctx) (hdr : Nat × Nat × Bool × Bool × Bool) (ehdr epc iter : Nat) (ft : Bool)
    (skipped : Option Nat) : Ctx :=
  let (rep, len, l, e, m) := hdr
  let c := { (if m = c.blk.m then c else c.landAll) with sys := { c.sys with skip := false } }
  let c := c.tickStep
  if epc = ehdr then let c := c.goTo ehdr ft; { c with blk := { c.blk with iter := iter } }
  else
    let c := { c with imx := [], wait := none
                      blk := { c.blk with pc := epc, hdr := ehdr, rep := rep, len := len, l := l, e := e, m := m
                                          iter := iter, entering := false, ft := false, buf := [] } }
    match skipped with
    | some n => c.advance n
    | none => c

/-- The code of the pinned block of a context, when its header stands at `hdr` (R67). -/
def Ctx.pinned (c : Ctx) (hdr : Nat) : Option (List Byte) :=
  match c.blk.pin with
  | some (a, code) => if a = hdr then some code else none
  | none => none

/-- A parcel of the body of the block at `hdr`: from the loop buffer when the block is pinned there, else by fetch (R67). -/
def bodyParcel (s : State) (c : CtxId) (hdr va : Nat) : State × Except FetchFault Nat :=
  match (s.ctx c).pinned hdr with
  | some code => (s, .ok (leNat ((code.drop (va - hdr)).take 2)))
  | none => fetchParcel s c va

/-- The parcels from a code address of the block at `hdr` that can be read, at most `n`: a fetch made ahead of need, which
raises nothing (R111). -/
def aheadParcels (s : State) (c : CtxId) (hdr va : Nat) : Nat → List Nat
  | 0 => []
  | n + 1 =>
    match (bodyParcel s c hdr va).2 with
    | .error _ => []
    | .ok p => p :: aheadParcels s c hdr (va + 2) n

/-- The instruction of RETH's resumption: whether EPC starts a word of the body, and the bytes of the instruction there. The
body's parcels before EPC tell where its words start; where one of them cannot be read, EPC is taken to start one (log 49). -/
def resumeWord (s : State) (c : CtxId) (ehdr epc len : Nat) : Bool × Nat :=
  let i := (epc - (ehdr + 4)) / 2
  let before := aheadParcels s c ehdr (ehdr + 4) i
  let here := aheadParcels s c ehdr epc (min (len - i) 5)
  (before.length < i || startsWord (before ++ here) (ehdr + 4) epc, instrBytes here)

/-- RETH of R110, at PL = S, once nothing that it reads is a host's: the header at EHDR and the parcel at EPC are read by
instruction fetch, or from the loop buffer of a pinned block (R67). A failed check traps BADTGT with EVA = EPC, the address RETH would go to. With SKIP = 1 and EPC at the
header no instruction stands at EPC, and the block is entered (log 12). -/
def rethReturn (s : State) : State :=
  let c := s.cur
  let sy := s.me.sys
  let epc := sy.epc.toNat
  let ehdr := sy.ehdr.toNat
  let iter := bitsOf sy.eitr.toNat 0 12
  let ft := bitOf sy.eitr.toNat 12
  let bad (s : State) : State := trap s 0x02 epc
  if ehdr % 2 = 1 then bad s
  else
    match fetchHeader s c ehdr with
    | (s1, .error (code, va)) => rethRefault s1 code va
    | (s1, .ok none) => bad s1
    | (s1, .ok (some hdr)) =>
      let (rep, len, _, e, _) := hdr
      if !rethPlaceOk rep len iter ehdr epc e ft then bad s1
      else if epc = ehdr then (s1.modMe Ctx.restore).modMe (fun x => x.resume hdr ehdr epc iter ft none)
      else
        match bodyParcel s1 c ehdr epc with
        | (s2, .error (code, va)) => rethRefault s2 code va
        | (s2, .ok _) =>
          let w := resumeWord s2 c ehdr epc len
          if !w.1 then bad s2
          else
            (s2.modMe Ctx.restore).modMe (fun x => x.resume hdr ehdr epc iter ft (if sy.skip then some w.2 else none))

/-- The wait that RETH's reads meet: the header at EHDR, or the parcel at EPC (R110, R284). -/
def rethWait (s : State) : Option Wait :=
  let sy := s.me.sys
  if (s.me.pinned sy.ehdr.toNat).isSome then none
  else (headerWait s s.cur sy.ehdr.toNat).orElse (fun _ => codeWait s s.cur sy.epc.toNat 1)

/-! ## Pre-emption in progress -/

/-- The group that a die's pre-emption operation stops is the task's. -/
def PmOp.covers (o : PmOp) (t : Task) : Bool :=
  !o.resume && o.launch == t.launch && o.hdie == t.hdie && o.group == t.group

/-- The task is being frozen: the stop wave has reached its sites and SA blocks (R387). The wave may reach them in any
order; the model lets it reach all with the step that starts it (log 24). -/
def frozen (s : State) (c : CtxId) : Bool :=
  match (s.die (dieOf c)).pmop, (s.ctx c).task with
  | some o, some t => o.freeze && o.covers t
  | _, _ => false

/-- Every context of the group has stopped and the drain proceeds (R314). -/
def draining (s : State) (c : CtxId) : Bool :=
  match (s.die (dieOf c)).pmop, (s.ctx c).task with
  | some o, some t =>
    !o.freeze && !o.resume && o.covers t
      && s.ctxs.all (fun e => match e.2.task with
                              | some u => !(dieOf e.1 == dieOf c && o.covers u) || e.2.desched
                              | none => true)
  | _, _ => false

end Sys2Proof.Machine
end

