-- ==== Sys2Proof/Machine/Flags.lean ====
section
/-! DEFINITION. The results of the integer operations and the conditions that the compares write to predicates
(R95 to R99). The machine has no flag register: a condition goes to a predicate. -/

namespace Sys2Proof.Machine

/-- Leading zeros of the low `n` bits of a number. -/
def leadZeros : Nat → Nat → Nat
  | 0, _ => 0
  | n + 1, v => if bitOf v n then 0 else 1 + leadZeros n v

/-- Trailing zeros of the low `n` bits. -/
def trailZeros : Nat → Nat → Nat
  | 0, _ => 0
  | n + 1, v => if v % 2 = 1 then 0 else 1 + trailZeros n (v / 2)

/-- One bits among the low `n` bits. -/
def onesOf : Nat → Nat → Nat
  | 0, _ => 0
  | n + 1, v => v % 2 + onesOf n (v / 2)

/-- Bits [127:64] of a product as i64 × i64 (Table 4.4). -/
def mulHigh (a b : Word) : Word := BitVec.ofInt 64 (a.toInt * b.toInt / 2 ^ 64)
/-- Bits [127:64] of a product as n64 × n64. -/
def mulHighU (a b : Word) : Word := BitVec.ofNat 64 (a.toNat * b.toNat / 2 ^ 64)
/-- DIV: the quotient rounded toward zero; all ones for a zero divisor; −2^63 / −1 is −2^63 (R96). -/
def divS (a b : Word) : Word := if b = 0 then BitVec.allOnes 64 else BitVec.ofInt 64 (a.toInt.tdiv b.toInt)
/-- DIVU (R96). -/
def divU (a b : Word) : Word := if b = 0 then BitVec.allOnes 64 else BitVec.ofNat 64 (a.toNat / b.toNat)
/-- REM: a − quotient × b, with the sign of a; a for a zero divisor, and 0 for −2^63 / −1 (R96). -/
def remS (a b : Word) : Word := if b = 0 then a else BitVec.ofInt 64 (a.toInt.tmod b.toInt)
/-- REMU (R96). -/
def remU (a b : Word) : Word := if b = 0 then a else BitVec.ofNat 64 (a.toNat % b.toNat)
/-- The shift amount b[5:0]. -/
def shiftBy (b : Word) : Nat := b.toNat % 64
/-- MIN as i64. -/
def minS (a b : Word) : Word := if a.slt b then a else b
/-- MAX as i64. -/
def maxS (a b : Word) : Word := if a.slt b then b else a
/-- MIN as n64. -/
def minU (a b : Word) : Word := if a.ult b then a else b
/-- MAX as n64. -/
def maxU (a b : Word) : Word := if a.ult b then b else a
/-- The 8 bytes in reverse order. -/
def byteSwap (a : Word) : Word := BitVec.ofNat 64 (leNat (leBytes 8 a.toNat).reverse)
/-- SignExt(a[n-1:0], 64). -/
def sextFrom (n : Nat) (a : Word) : Word := BitVec.ofInt 64 (signed n a.toNat)
/-- ZeroExt of a bit field (BFX, R97). -/
def bitField (a : Word) (pos w : Nat) : Word := BitVec.ofNat 64 (bitsOf a.toNat pos w)
/-- SignExt of a bit field (BFXS, R97). -/
def bitFieldS (a : Word) (pos w : Nat) : Word := BitVec.ofInt 64 (signed w (bitsOf a.toNat pos w))
/-- BFINS: bits [pos+w-1:pos] of d become a[w-1:0]; what would land above bit 63 is dropped (R98). -/
def bitInsert (d a : Word) (pos w : Nat) : Word :=
  let mask := BitVec.ofNat 64 ((2 ^ w - 1) * 2 ^ pos)
  (d &&& ~~~mask) ||| (BitVec.ofNat 64 (a.toNat % 2 ^ w * 2 ^ pos) &&& mask)

/-- The conditions of R99. -/
inductive Cond | eq | ne | lt | ge | ltu | geu
deriving DecidableEq, Repr

/-- A condition on two words (R99). -/
def Cond.eval (a b : Word) : Cond → Bool
  | .eq => a == b
  | .ne => a != b
  | .lt => a.slt b
  | .ge => !a.slt b
  | .ltu => a.ult b
  | .geu => !a.ult b

end Sys2Proof.Machine
end

