-- ==== Sys2Proof/Machine/Operands.lean ====
section
/-! DEFINITION. Operand forms: immediates with their IMX prefixes (R71), the offsets of memory forms (R69), the
checks every access through a handle makes (R121), watchpoint matches (R145), and handles made from lease-table
entries. -/

namespace Sys2Proof.Machine

/-- The bytes of a size field. -/
def Size.bytes : Size → Nat | .b => 1 | .h => 2 | .w => 4 | .d => 8

/-- The immediate of a consumer: the payloads of its prefixes, first highest, then its own field of `k` bits,
sign-extended from the top bit; bits above bit 63 are ignored (R71). -/
def immOf (pre : List (BitVec 26)) (k v : Nat) : Word :=
  let raw := pre.foldl (fun n m => n * 2 ^ 26 + m.toNat) 0 * 2 ^ k + v
  BitVec.ofInt 64 (signed (26 * pre.length + k) raw)

/-- The immediate of the running word. -/
def State.imm {k : Nat} (s : State) (v : BitVec k) : Word := immOf s.me.imx k v.toNat

/-- The byte offset of LD and ST: SignExt(OFF7), or its extended form, times 2^SZ (R69, R71). -/
def offM (s : State) (off : BitVec 7) (sz : Size) : Word := BitVec.ofNat 64 ((s.imm off).toNat * Size.bytes sz)

/-- The byte offset of LDX and STX: x[IX] times 2^SZ (R69). -/
def offMX (s : State) (ix : BitVec 5) (sz : Size) : Word := BitVec.ofNat 64 ((s.x ix).toNat * Size.bytes sz)

/-- A cause and what EVA then holds. -/
abbrev Cause := Nat × Nat

/-- The first byte of a write that a watchpoint of package `p` watches (R145, R146). -/
def watchMatch (w : Word) (p : PkgId) (g n : Nat) : Option Nat :=
  let v := w.toNat
  if !bitOf v 63 || gaPkg g != p then none
  else
    let base := bitsOf v 0 46 * 16
    ((List.range n).map (fun i => g + i)).find? (fun b =>
      b % 2 ^ 50 / 16 * 16 == base && bitOf (bitsOf v 46 16) (b % 16))

/-- The watchpoints of a context, lowest first. -/
def Sys.watches (y : Sys) : List Word := [y.watch0, y.watch1, y.watch2, y.watch3]

/-- The first watched byte of a write for the lowest-numbered watchpoint that matches. Where several match, at different bytes,
no rule says which of them EVA names: the model takes that watchpoint's (log 107). -/
def watchCore (s : State) (c : CtxId) (g n : Nat) : Option Nat :=
  (s.ctx c).sys.watches.findSome? (fun w => watchMatch w (pkgOf (dieOf c)) g n)

/-- EVA of a match of identity CORE: GA[49:0] of the first matched byte (R146). -/
def watchEvaCore (b : Nat) : Nat := b % 2 ^ 50

/-- The virtual address h.ANCHOR + off (R121). -/
def Handle.va (h : Handle) (off : Word) : Nat := (h.anchor + off.toNat) % 2 ^ 64

/-- The global address of a virtual address of the handle's page (R121). -/
def Handle.ga (h : Handle) (va : Nat) : Nat := h.gbase + (va - h.pbase)

/-- Check 3 of R121. -/
def Handle.inPage (h : Handle) (va n : Nat) : Bool :=
  decide (h.pbase ≤ va) && decide (va + n ≤ h.pbase + pageBytes h.psize)

/-- Checks 1 to 3 of R121 for handle number `hn`, the alignment check made when `align` is set. -/
def checkRead (h : Handle) (hn : Nat) (off : Word) (n : Nat) (align : Bool) : Except Cause Nat :=
  if !h.v then .error (0x12, hn)
  else
    let va := h.va off
    if align && va % n != 0 then .error (0x14, off.toNat)
    else if !h.inPage va n then .error (0x13, off.toNat)
    else .ok (h.ga va)

/-- The checks of R121 that come before those of Table 1.12: HINV and BOUNDS. ALIGN stands between them but for a page of
space 7, whose own rows decide it (log 108). -/
def accessAt (h : Handle) (hn : Nat) (off : Word) (n : Nat) : Except Cause Nat :=
  checkRead h hn off n (gaSpace h.gbase != 7)

/-- Checks 1 to 5 of R121: a write also needs W = 1 and BND = 0. -/
def checkWrite (h : Handle) (hn : Nat) (off : Word) (n : Nat) (align : Bool) : Except Cause Nat :=
  match checkRead h hn off n align with
  | .error e => .error e
  | .ok g =>
    if !h.w then .error (0x11, h.va off) else if h.bnd then .error (0x38, off.toNat) else .ok g

/-- Checks 1 to 6 of R121 for a write by context `c` itself. -/
def checkOwnWrite (s : State) (c : CtxId) (h : Handle) (hn : Nat) (off : Word) (n : Nat) : Except Cause Nat :=
  match checkWrite h hn off n true with
  | .error e => .error e
  | .ok g =>
    match watchCore s c g n with
    | some b => .error (0x28, watchEvaCore b)
    | none => .ok g

/-- The handle that XLAT makes (R122). -/
def handleOf (e : LtEntry) (va : Nat) (write : Bool) : Handle :=
  { v := true, w := write, anchor := va, pbase := e.va, psize := e.psize, gbase := e.gbase, ord := e.ord, nt := e.nt,
    sdb := e.sdb, bnd := e.bnd, vf := e.vf, x := e.x, entry := e.id }

/-- Whether two frames overlap. -/
def framesMeet (a b : LtEntry) : Bool :=
  decide (a.gbase < b.gbase + pageBytes b.psize) && decide (b.gbase < a.gbase + pageBytes a.psize)

/-- The frame of an entry is mapped tracked and untracked at once, by entries anywhere in the domain (R376). -/
def aliased (s : State) (e : LtEntry) : Bool :=
  s.dies.any (fun d => d.2.leases.any (fun f => f.nt != e.nt && framesMeet e f))

/-- The HSPAN result (Table 5.2). -/
def hspan (h : Handle) : Word :=
  if !h.v then 0
  else wordOf (h.pbase / 2 ^ 12 * 2 ^ 12 % 2 ^ 56 + h.psize * 2 ^ 10 + b2n h.vf * 2 ^ 9 + b2n h.bnd * 2 ^ 8
    + b2n h.sdb * 2 ^ 7 + b2n h.nt * 2 ^ 6 + h.ord * 2 ^ 4 + b2n h.x * 2 ^ 3 + b2n h.w * 2 ^ 2 + 1)

/-- The lease list at LEASE, searched for the range that contains an address (R271): entry `i` onwards, with
`fuel` entries still allowed. The answer is the rights of the range found, or the cause. -/
def leaseSearch (s : State) (c : CtxId) (lease va : Nat) : Nat → Nat → Except Cause Bool
  | 0, _ => .error (0x11, va)
  | fuel + 1, i =>
    let g := lease + 16 * i
    let p := pkgOf (dieOf c)
    match readOut s p .engine g 8, readOut s p .engine (g + 8) 8 with
    | .error code, _ => .error (code, g)
    | _, .error code => .error (code, g + 8)
    | .ok w0, .ok w1 =>
      if bitsOf w0 56 8 != 0 || bitsOf w0 0 12 != 0 || bitsOf w1 36 25 != 0 || bitsOf w1 0 36 == 0 then
        .error (0x11, va)
      else if decide (w0 ≤ va) && decide (va < w0 + bitsOf w1 0 36 * 4096) then .ok (bitOf w1 62)
      else if bitOf w1 61 then .error (0x11, va)
      else leaseSearch s c lease va fuel (i + 1)

/-- The words of the lease list that the search reads, in order. -/
def leaseGas (s : State) (c : CtxId) (lease va : Nat) : Nat → Nat → List Nat
  | 0, _ => []
  | fuel + 1, i =>
    let g := lease + 16 * i
    let p := pkgOf (dieOf c)
    match readOut s p .engine g 8, readOut s p .engine (g + 8) 8 with
    | .ok w0, .ok w1 =>
      if bitsOf w0 56 8 != 0 || bitsOf w0 0 12 != 0 || bitsOf w1 36 25 != 0 || bitsOf w1 0 36 == 0
          || (decide (w0 ≤ va) && decide (va < w0 + bitsOf w1 0 36 * 4096)) || bitOf w1 61 then [g, g + 8]
      else g :: (g + 8) :: leaseGas s c lease va fuel (i + 1)
    | _, _ => [g, g + 8]

/-- What the lookup of XLAT reads in memory. -/
def translateGas (s : State) (c : CtxId) (va : Nat) : List Nat :=
  let lease := gaOf (s.ctx c).sys.lease.toNat
  if 2 ^ 56 ≤ va || lease % 8 != 0 then [] else leaseGas s c lease va 64 0

/-- The lookup of XLAT (R122): the lease list, then the die's lease table. -/
def translate (s : State) (c : CtxId) (va : Nat) (write : Bool) : Except Cause LtEntry :=
  if 2 ^ 56 ≤ va then .error (0x11, va)
  else
    let sy := (s.ctx c).sys
    let lease := gaOf sy.lease.toNat
    if lease % 8 != 0 then .error (0x11, va)
    else
      match leaseSearch s c lease va 64 0 with
      | .error e => .error e
      | .ok wr =>
        if write && !wr then .error (0x11, va)
        else
          match leaseFind (s.die (dieOf c)) sy.asid va with
          | none => .error (0x10, va)
          | some e =>
            if write && !e.w then .error (0x11, va)
            else if aliased s e then .error (0x15, va)
            else .ok e

end Sys2Proof.Machine
end

