-- ==== Sys2Proof/Machine/Memory.lean ====
section
/-! DEFINITION. The memory system: writes as they perform at their homes (with dirty tracking, migration forwarding
and watch matches), the lines of an L1 and of the home slices, SI copies, update-only deltas, the store buffer, acquires
and releases, and the net effect of accesses on the home directory. `State.mem` holds the coherent value of every byte; a
dirty line's record keeps the bytes the home would have without the holder's words. -/

namespace Sys2Proof.Machine

/-! ## Writes at the home -/

/-- Who writes, as R146 tells writers apart; `cmd` numbers the command of an engine, 0 for a write of no command. -/
inductive Writer
  | own (c : CtxId)
  | delta (k : CoreId) (cs : List CtxId)
  | engine (k : CoreId) (cmd : Nat)
  | host (p : PkgId)
  | shawm (d : DieId)
deriving DecidableEq, Repr

/-- The package a write comes from. -/
def Writer.pkg : Writer → PkgId
  | .own c => pkgOf (dieOf c)
  | .delta k _ => pkgOf (dieOfCore k)
  | .engine k _ => pkgOf (dieOfCore k)
  | .host p => p
  | .shawm d => pkgOf d

/-- The core whose AC and die a report of kind CE or AC names. -/
def Writer.core : Writer → CoreId
  | .own c => coreOf c
  | .delta k _ => k
  | .engine k _ => k
  | .host _ => 0
  | .shawm d => d * 64

/-- EVA of a latched report (R146): the first matched byte, the writer's die, identity and AC or package. -/
def watchEva (who : Writer) (p : PkgId) (b : Nat) : Nat :=
  let ni := match who with | .host _ => true | _ => who.pkg != p
  let isEngine := match who with | .engine _ _ => true | .shawm _ => true | _ => false
  if ni then b % 2 ^ 50 + 2 * 2 ^ 56 + who.pkg % 64 * 2 ^ 58
  else
    b % 2 ^ 50 + who.core / 64 % 4 * 2 ^ 54 + (if isEngine then 1 else 3) * 2 ^ 56 + who.core % 64 * 2 ^ 58

/-- Whether a match of this writer is reported imprecisely to a context: a context's own stores and UPDs report
before they perform (identity CORE), and not again; a merged delta is reported when another context's update is in it. -/
def Writer.reportsTo (who : Writer) (c : CtxId) : Bool :=
  match who with
  | .own w => w != c
  | .delta _ cs => cs.any (fun w => w != c)
  | _ => true

/-- The matches of a performed write against every watchpoint of the package it reaches (R146). -/
def watchHits (s : State) (who : Writer) (g n : Nat) : List WatchHit :=
  let p := gaPkg g
  let eng := match who with | .engine k n => some (k, n) | _ => none
  s.ctxs.flatMap (fun e =>
    if pkgOf (dieOf e.1) = p && who.reportsTo e.1 then
      (e.2.sys.watches.zip (List.range 4)).filterMap (fun w =>
        (watchMatch w.1 p g n).map (fun b => ⟨e.1, w.2, watchEva who p b, eng, 0⟩))
    else [])

/-- A match is latched as its watchpoint's report; one that finds a report latched sets LOST (R145, R146). -/
def latchHit (x : Ctx) (n : Nat) (eva : Nat) (by' : Option (CoreId × Nat)) : Ctx :=
  if (SMap.find x.wreport n).isNone then
    { x with wreport := SMap.set x.wreport n (wordOf eva)
             wengine := match by' with | some e => SMap.set x.wengine n e | none => SMap.erase x.wengine n }
  else
    let lost (w : Word) : Word := w ||| wordOf (2 ^ 62)
    match n with
    | 0 => { x with sys := { x.sys with watch0 := lost x.sys.watch0 } }
    | 1 => { x with sys := { x.sys with watch1 := lost x.sys.watch1 } }
    | 2 => { x with sys := { x.sys with watch2 := lost x.sys.watch2 } }
    | _ => { x with sys := { x.sys with watch3 := lost x.sys.watch3 } }

/-! ## The home slice (R375) -/

/-- The lines of a die's 48 MiB of L2 (Table 1.2). -/
def l2Size : Nat := 48 * 2 ^ 20 / 128

/-- The home die of a line. -/
def homeOf (line : Nat) : DieId := gaDie (line * 128)

/-- A slice with room for one line more: a full one first writes the DIRTY words of a line to memory and drops it. -/
def Die.l2Room (x : Die) (d : DieId) : Die :=
  if x.l2.length < l2Size then x
  else
    match x.l2[Config.victim (2 ^ 16 + d) x.l2evicts % x.l2.length]? with
    | some v => { x with l2 := SMap.erase x.l2 v.1, l2evicts := x.l2evicts + 1 }
    | none => x

/-- Changes a line of its home slice, which takes it in first. -/
def l2Mod (s : State) (line : Nat) (f : L2Line → L2Line) : State :=
  s.modDie (homeOf line) (fun x =>
    let y := if (SMap.find x.l2 line).isSome then x else x.l2Room (homeOf line)
    { y with l2 := SMap.set y.l2 line (f (SMap.getD y.l2 line ⟨0, 0⟩)) })

/-- An OWN read fills the line's invalid words from below. -/
def l2Fill (s : State) (line : Nat) : State := l2Mod s line (fun x => { x with valid := BitVec.allOnes 32 })

/-- Words written at the home slice, by a write through, a write-back or a merge, become VALID and DIRTY. -/
def l2Write (s : State) (line : Nat) (mask : BitVec 32) : State :=
  l2Mod s line (fun x => ⟨x.valid ||| mask, x.dirty ||| mask⟩)

/-! ## Dirty lines, directory -/

/-- The directory entry of a line. -/
def State.dirOf (s : State) (line : Nat) : DirLine := SMap.getD s.dir line ⟨.I, none, []⟩

/-- Writes back a line's dirty words, if any core holds some: they alone become DIRTY at the home, which then holds the
coherent bytes (R375). -/
def writeBack (s : State) (line : Nat) : State :=
  match SMap.find s.dirty line with
  | some o => l2Write { s with dirty := SMap.erase s.dirty line } line o.mask
  | none => s

/-- Records a directory entry. -/
def setDir (s : State) (line : Nat) (e : DirLine) : State :=
  { s with dir := if e.st == .I then SMap.erase s.dir line else SMap.set s.dir line e }

/-- The directory after a die's copies are gone: an owner that leaves takes its state along. -/
def dirDrop (e : DirLine) (d : DieId) : DirLine :=
  let dies := e.dies.erase d
  if dies.isEmpty then ⟨.I, none, []⟩
  else if e.owner == some d then ⟨.S, none, dies⟩ else { e with dies := dies }

/-- The directory after the owner's dirty words went home and its copy stayed clean. -/
def dirClean (e : DirLine) : DirLine :=
  if e.dies.length ≤ 1 then { e with st := if e.st == .M || e.st == .O then .E else e.st }
  else ⟨.S, none, e.dies⟩

/-- A core's L1 holds the line as a tracked copy. -/
def State.holdsLine (s : State) (k : CoreId) (line : Nat) : Bool := (SMap.find (s.core k).l1 line).isSome

/-- Some core of a die holds the line. -/
def State.dieHolds (s : State) (d : DieId) (line : Nat) : Bool :=
  s.cores.any (fun e => dieOfCore e.1 == d && (SMap.find e.2.l1 line).isSome)

/-- A die's snoop filter forgets that a core holds a line (R373). -/
def Die.forget (x : Die) (k : CoreId) (line : Nat) : Die :=
  let left := (SMap.getD x.snoop line []).erase k
  { x with snoop := if left.isEmpty then SMap.erase x.snoop line else SMap.set x.snoop line left }

/-- A core's tracked copy leaves its L1: its dirty words go to the home as WB, a clean copy leaves as EVC, and the home
removes the die from the holders unless another core of it holds the line (R372, R373). -/
def l1Drop (s : State) (k : CoreId) (line : Nat) : State :=
  let d := dieOfCore k
  let mine := match SMap.find s.dirty line with | some o => o.core == k | none => false
  if !mine && !s.holdsLine k line then s
  else
    let s := if mine then setDir (writeBack s line) line (dirClean (s.dirOf line)) else s
    let s := (s.modCore k (fun x => { x with l1 := SMap.erase x.l1 line })).modDie d (fun x => x.forget k line)
    if s.dieHolds d line then s else setDir s line (dirDrop (s.dirOf line) d)

/-- Every tracked copy but one core's is invalidated, dirty words going home first. -/
def purgeLine (s : State) (keep : Option CoreId) (line : Nat) : State :=
  (s.cores.map (fun e => e.1)).foldl (fun s k => if some k = keep then s else l1Drop s k line)
    (match SMap.find s.dirty line with | some o => if some o.core = keep then s else l1Drop s o.core line | none => s)

/-- Every tracked copy goes, and the home directory records none. -/
def homePurge (s : State) (line : Nat) : State := setDir (purgeLine s none line) line ⟨.I, none, []⟩

/-- The dirty copy of a line, wherever held, is written back and invalidated (R131). -/
def recallDirty (s : State) (line : Nat) : State :=
  match SMap.find s.dirty line with
  | some o => l1Drop s o.core line
  | none => s

/-- The home directory's view after a read for ownership by a die (R372). -/
def dirRead (e : DirLine) (d : DieId) : DirLine :=
  if e.dies.contains d then e
  else
    match e.st with
    | .I => ⟨.E, some d, [d]⟩
    | .S => ⟨.S, none, e.dies ++ [d]⟩
    | .E => ⟨.S, none, e.dies ++ [d]⟩
    | .M => ⟨.O, e.owner, e.dies ++ [d]⟩
    | .O => ⟨.O, e.owner, e.dies ++ [d]⟩

/-- A die obtains the line for writing: every other die's copy is invalidated (R372). -/
def dirOwn (d : DieId) : DirLine := ⟨.M, some d, [d]⟩

/-- After a write through to the home by a core of a die, every other copy being invalidated: the state of that core's own
copy stays (R131), `dirty` saying that it still holds dirty words; with no copy left there is no holder. -/
def dirThrough (e : DirLine) (d : DieId) (holds dirty : Bool) : DirLine :=
  if !holds then ⟨.I, none, []⟩
  else if dirty then ⟨.M, some d, [d]⟩
  else if e.owner == some d then ⟨.E, some d, [d]⟩ else ⟨.S, none, [d]⟩

/-! ## Update-only deltas and dirty tracking

A merge marks granules of the dirty bitmap (R390), and a mark reads the bitmap, whose line may itself have deltas pending: the
merge takes the mark it makes as an argument. -/

/-- One delta of a core merges at the home as one write (R136, R349): dirty words are written back first, every copy is
invalidated, and the jobs of the updates in it mark the granule (R390). A merge that completes FENCED writes nothing. -/
def mergeDeltaBy (mark : State → Nat → Nat → State) (s : State) (k : CoreId) (d : Delta) : State :=
  let n := updWidth d.op
  if fenced s (pkgOf (dieOfCore k)) .engine d.ga n then s
  else
    let line := lineOf d.ga
    let s := d.who.foldl (fun s w => mark s w.2 d.ga) (l2Write (homePurge s line) line (wordMask (d.ga % 128) n))
    let s := s.put d.ga (leBytes n (updApply d.op (s.peek d.ga n) d.v))
    { s with hits := s.hits ++ watchHits s (if d.eng then .engine k 0 else .delta k (d.who.map (fun w => w.1))) d.ga n }

/-- The pending deltas of a core that meet `f` merge. -/
def mergeCoreBy (mark : State → Nat → Nat → State) (f : Delta → Bool) (s : State) (k : CoreId) : State :=
  ((s.core k).deltas.filter f).foldl (fun s d => mergeDeltaBy mark s k d)
    (if (s.core k).deltas.any f then s.modCore k (fun x => { x with deltas := x.deltas.filter (fun d => !f d) }) else s)

/-- Every core's pending deltas that meet `f` merge. -/
def mergeAllBy (mark : State → Nat → Nat → State) (f : Delta → Bool) (s : State) : State :=
  (s.cores.map (fun e => e.1)).foldl (mergeCoreBy mark f) s

/-- The delta lies in a line. -/
def Delta.onLine (line : Nat) (d : Delta) : Bool := lineOf d.ga == line

/-- The GA of the word of the ASID table that controls dirty tracking of a job on the die of a GA (R389). -/
def trackGa (s : State) (asid g : Nat) : Nat := (s.die (gaDie g)).asidbase + 16 * (asid % 2 ^ 15) + 8

/-- The bitmap byte and bit of the granule of a GA under that word, when it is tracked (R389). -/
def dirtyBit (w1 g : Nat) : Option (Nat × Nat) :=
  if 1 < gaSpace g || !bitOf w1 63 then none
  else
    let n := (gaSpace g * 2 ^ 37 + gaOff g) / (if bitOf w1 62 then 2 ^ 21 else 2 ^ 12)
    some (bitsOf w1 12 44 * 4096 + n / 8, n % 8)

/-- What the home reads to set the bit of a granule for a job: the word of its ASID table and the byte of the bitmap. -/
def dirtyGas (s : State) (asid g : Nat) : List Nat :=
  if 1 < gaSpace g || !(s.die (gaDie g)).started then []
  else trackGa s asid g :: (match dirtyBit (s.seen (trackGa s asid g) 8) g with | some a => [a.1] | none => [])

/-- The bit of a granule is set, as memory stands. -/
def markBit (s : State) (asid g : Nat) : State :=
  if !(s.die (gaDie g)).started then s
  else
    match dirtyBit (s.peek (trackGa s asid g) 8) g with
    | none => s
    | some (a, i) =>
      let b := s.peek a 1
      if bitOf b i then s
      else (l2Write (homePurge s (lineOf a)) (lineOf a) (wordMask (a % 128) 1)).poke a 1 (b + 2 ^ i)

/-- The dirty-bitmap bit of a granule (R389, R390), for an agent of a job: the home's read of the table and of the bitmap
recalls pending deltas first (R136). -/
def markDirty (s : State) (asid g : Nat) : State :=
  markBit ((dirtyGas s asid g).foldl (fun s a => mergeAllBy markBit (Delta.onLine (lineOf a)) s) s) asid g

/-- One delta merges (R136). -/
def mergeDelta (s : State) (k : CoreId) (d : Delta) : State := mergeDeltaBy markDirty s k d

/-- The pending deltas of a core on a line merge (R136). -/
def mergeCore (s : State) (k : CoreId) (line : Nat) : State := mergeCoreBy markDirty (Delta.onLine line) s k

/-- Every core's pending deltas on a line merge: the recall that a read makes, and the invalidation before a write (R136, R372). -/
def mergeAll (s : State) (line : Nat) : State := mergeAllBy markDirty (Delta.onLine line) s

/-- Every pending delta of the domain merges. -/
def mergeEvery (s : State) : State := mergeAllBy markDirty (fun _ => true) s

/-- The pending updates of a context merge: a release, a fence that orders them, ENDT, or its pre-emption (R136, R138, R356). -/
def mergeOwn (s : State) (c : CtxId) : State := mergeAllBy markDirty (fun d => d.who.any (fun w => w.1 == c)) s

/-- Bytes land: the coherent value changes, and matches of watchpoints are noted. The job's dirty bit is set first, for an agent of a job (R390). -/
def homeWrite (s : State) (who : Writer) (asid g : Nat) (bs : List Byte) : State :=
  let s := match who with | .host _ => s | _ => markDirty s asid g
  let s := s.put g bs
  { s with hits := s.hits ++ watchHits s who g bs.length }

/-- The wait of an access to a GA by an agent of a job (R284): for its region, or, where it writes or takes write permission,
for a region that holds what the home reads to set the dirty bit. -/
def heldBy (s : State) (asid : Nat) (writes : Bool) (g : Nat) : Option Wait :=
  firstOwned s (g :: if writes then dirtyGas s asid g else [])

/-- A buffered store waits for its owner. -/
def storeHeld (s : State) (b : BufStore) : Bool := (heldBy s b.asid true b.ga).isSome

/-! ## Room in an L1, and the snoop filter -/

/-- The lines of an L1: 64 KiB (R15). -/
def l1Size : Nat := 512

/-- The lines that an L1 holds: tracked, SI and update-only. -/
def Core.l1Lines (x : Core) : List Nat :=
  x.l1.map (fun e => e.1) ++ x.si.map (fun e => e.1) ++ (x.deltas.map (fun d => lineOf d.ga)).eraseDups

/-- A line leaves a core's L1: its deltas merge, its dirty words go home, an SI copy just goes (R129, R136). -/
def l1Evict (s : State) (k : CoreId) (line : Nat) : State :=
  (l1Drop (mergeCore s k line) k line).modCore k (fun x => { x with si := SMap.erase x.si line })

/-- A core's L1 makes room for a line. -/
def l1Room (s : State) (k : CoreId) (line : Nat) : State :=
  let ls := (s.core k).l1Lines
  if ls.contains line || decide (ls.length < l1Size) then s
  else
    match ls[Config.victim k (s.core k).evicts % ls.length]? with
    | some v => l1Evict (s.modCore k (fun x => { x with evicts := x.evicts + 1 })) k v
    | none => s

/-- A line leaves a die: every L1 copy of it goes, SI copies and update-only lines too, and the home removes the die from
the holders (R373). -/
def evictLine (s : State) (d : DieId) (line : Nat) : State :=
  let s := ((s.cores.map (fun e => e.1)).filter (fun k => dieOfCore k == d)).foldl (fun s k => l1Evict s k line) s
  let s := match SMap.find s.dirty line with
           | some o => if dieOfCore o.core = d then writeBack s line else s
           | none => s
  let s := s.modDie d (fun x => { x with snoop := SMap.erase x.snoop line })
  setDir s line (dirDrop (s.dirOf line) d)

/-- The snoop filter's 262,144 entries stand in 16,384 sets of 16 ways; a line's set is its low bits (log 22). -/
def snoopSet (line : Nat) : Nat := line % 16384

/-- A die's snoop filter records that a core holds a line homed elsewhere; a full set evicts an entry, and the line is
back-invalidated (R373). -/
def noteSnoop (s : State) (k : CoreId) (line : Nat) : State :=
  let d := dieOfCore k
  if gaDie (line * 128) = d then s
  else
    let have' := SMap.find (s.die d).snoop line
    let peers := (s.die d).snoop.filter (fun e => snoopSet e.1 == snoopSet line)
    let s := match have', peers with
             | none, e :: _ => if 16 ≤ peers.length then evictLine s d e.1 else s
             | _, _ => s
    s.modDie d (fun x => { x with snoop := SMap.set x.snoop line ((have'.getD []).erase k ++ [k]) })

/-- A core's L1 takes a tracked line, with ownership or without; an SI copy of it goes. -/
def l1Enter (s : State) (k : CoreId) (line : Nat) (own : Bool) : State :=
  let s := (l1Room s k line).modCore k (fun x => { x with l1 := SMap.set x.l1 line own, si := SMap.erase x.si line })
  noteSnoop s k line

/-- The copies of a line that other cores hold are owned no longer. -/
def shareLine (s : State) (line : Nat) : State :=
  { s with cores := s.cores.map (fun e =>
      if (SMap.find e.2.l1 line).isSome then (e.1, { e.2 with l1 := SMap.set e.2.l1 line false }) else e) }

/-! ## SI copies, acquires -/

/-- An acquire performed on a core invalidates every SI copy in its L1 (R129). -/
def acquireCore (s : State) (k : CoreId) : State := s.modCore k (fun x => { x with si := [] })

/-- An acquire by the running context. -/
def acquire (s : State) : State := acquireCore s s.myCore

/-- The core's own SI copy of a line follows a write of its own (R348). -/
def patchSi (s : State) (k : CoreId) (g : Nat) (bs : List Byte) : State :=
  match SMap.find (s.core k).si (lineOf g) with
  | none => s
  | some l => s.modCore k (fun x => { x with si := SMap.set x.si (lineOf g) (patch l (g % 128) bs) })

/-! ## Performing one write of a context -/

/-- The request type after NT: OWN behaves as UC, WT as SI (R130). -/
def effRt (rt : Rt) (nt : Bool) : Rt :=
  if nt then (match rt with | .own => .uc | .wt => .si | r => r) else rt

/-- A write of consecutive bytes within one line performs under a request type (R129 to R131, R375). -/
def performWrite (s : State) (who : Writer) (k : CoreId) (asid : Nat) (rt : Rt) (nt : Bool) (g : Nat)
    (bs : List Byte) : State :=
  let line := lineOf g
  let d := dieOfCore k
  let mask := wordMask (g % 128) bs.length
  let s := mergeAll s line
  match effRt rt nt with
  | .own =>
    -- the line is taken with ownership; another holder's dirty words are written back first
    let s := purgeLine s (some k) line
    let rec' : DirtyLine :=
      match SMap.find s.dirty line with
      | some o => { o with mask := o.mask ||| mask }
      | none => ⟨k, BitVec.allOnes 32, mask, s.bytesAt (line * 128) 128⟩
    let s := l1Enter s k line true
    let s := setDir { s with dirty := SMap.set s.dirty line rec' } line (dirOwn d)
    homeWrite s who asid g bs
  | .uc =>
    let s := if nt then s else homePurge s line
    homeWrite (l2Write s line mask) who asid g bs
  | _ =>
    -- WT, and the no-allocate write: at the home, and into an L1 copy if one is present
    let e := s.dirOf line
    let s := if nt then s else purgeLine s (some k) line
    let own := match SMap.find s.dirty line with | some o => o.core == k | none => false
    let s :=
      match SMap.find s.dirty line with
      | some o => if own then { s with dirty := SMap.set s.dirty line { o with old := patch o.old (g % 128) bs } } else s
      | none => s
    let s := if nt then s else setDir s line (dirThrough e d (own || s.holdsLine k line) own)
    patchSi (homeWrite (l2Write s line mask) who asid g bs) k g bs

/-- Splits a write at line boundaries and performs each piece in ascending address (R344). -/
def performBytes (s : State) (who : Writer) (k : CoreId) (asid : Nat) (rt : Rt) (nt : Bool) (g : Nat)
    (bs : List Byte) : State :=
  let first := min bs.length (128 - g % 128)
  let s := performWrite s who k asid rt nt g (bs.take first)
  let rest := bs.drop first
  if rest.isEmpty then s
  else
    let s := performWrite s who k asid rt nt (g + first) (rest.take 128)
    if rest.length ≤ 128 then s
    else
      (List.range ((rest.length - 1) / 128)).foldl (fun s i =>
        performWrite s who k asid rt nt (g + first + 128 * (i + 1)) ((rest.drop (128 * (i + 1))).take 128)) s

/-! ## The store buffer -/

/-- Whether two buffered stores share a byte. -/
def storesMeet (a b : BufStore) : Bool := a.parts.any (fun x => b.parts.any (fun y => x.1 == y.1))

/-- Whether a later store must wait for an earlier one: a shared byte, a later release over a store that is not UNORD, two
STRONG stores, or a fence between them that orders stores (R345, R138). -/
def storeBefore (a b : BufStore) : Bool := storesMeet a b || (b.rel && !a.unord) || (a.strong && b.strong) || decide (a.epoch < b.epoch)

/-- Whether the i-th buffered store may perform. -/
def mayPerform (l : List BufStore) (i : Nat) : Bool :=
  match l[i]? with
  | some b => (l.take i).all (fun a => !storeBefore a b)
  | none => false

/-- The matches of one write: for each watchpoint the one of its first matched byte. -/
def oneHit (l : List WatchHit) : List WatchHit :=
  l.foldl (fun m h =>
    match m.findIdx? (fun k => k.ctx == h.ctx && k.n == h.n) with
    | some i => match m[i]? with | some k => if h.eva < k.eva then listSet m i h else m | none => m
    | none => m ++ [h]) []

/-- One buffered store performs. One whose package was fenced after issue writes nothing and owes its trap (R128).
A store made under an ordering narrower than DOMAIN leaves its line's record at the home, any other clears it (R353). -/
def performStore (s : State) (c : CtxId) (b : BufStore) : State :=
  if fenced s (pkgOf (dieOf c)) .store b.ga 1 then
    s.modCtx c (fun x => { x with owed := match x.owed with | some g => some g | none => some b.ga })
  else
    let k := coreOf c
    let before := s.hits
    let s := b.parts.foldl (fun s p => performWrite s (.own c) k b.asid b.rt b.nt p.1 [p.2]) { s with hits := [] }
    { s with hits := before ++ oneHit s.hits
             scopes := match b.scope with
                       | some sc => SMap.set s.scopes (lineOf b.ga) (k, sc)
                       | none => SMap.erase s.scopes (lineOf b.ga) }

/-- The i-th store of a context's buffer performs, when it may. -/
def performNth (s : State) (c : CtxId) (i : Nat) : State :=
  let l := (s.ctx c).sbuf
  match l[i]? with
  | some b => if mayPerform l i then performStore (s.modCtx c (fun x => { x with sbuf := listDrop x.sbuf i })) c b else s
  | none => s

/-- The whole buffer performs, oldest first. -/
def drain (s : State) (c : CtxId) : State :=
  (s.ctx c).sbuf.foldl (fun s b => performStore s c b) (s.modCtx c (fun x => { x with sbuf := [] }))

/-- The buffered stores of a context perform, oldest first, up to the first that waits for its owner (R284). -/
def drainFree (s : State) (c : CtxId) : State :=
  let n := ((s.ctx c).sbuf.takeWhile (fun b => !storeHeld s b)).length
  ((s.ctx c).sbuf.take n).foldl (fun s b => performStore s c b) (s.modCtx c (fun x => { x with sbuf := x.sbuf.drop n }))

/-- The buffered stores of a context up to and including the last that meets the condition perform. -/
def drainWhile (s : State) (c : CtxId) (f : BufStore → Bool) : State :=
  let l := (s.ctx c).sbuf
  let keep := (l.reverse.takeWhile (fun b => !f b)).length
  let n := l.length - keep
  (l.take n).foldl (fun s b => performStore s c b) (s.modCtx c (fun x => { x with sbuf := x.sbuf.drop n }))

/-- Merges a store into an earlier one of the same line, request type and job, when neither is a release and no release
or fence of any kind stands between (R132), `fences` counting both; the merged store keeps the earlier place. Otherwise it
joins the end. -/
def pushStore (l : List BufStore) (b : BufStore) : List BufStore :=
  match l.reverse with
  | [] => [b]
  | a :: rest =>
    if lineOf a.ga == lineOf b.ga && !a.rel && !b.rel && a.rt == b.rt && a.epoch == b.epoch
        && a.fences == b.fences && a.nt == b.nt && !a.strong && !b.strong && a.unord == b.unord && a.scope == b.scope && a.asid == b.asid then
      (rest.reverse) ++ [{ a with parts := a.parts.filter (fun x => b.parts.all (fun y => y.1 != x.1)) ++ b.parts
                                  entries := a.entries ++ b.entries.filter (fun n => !a.entries.contains n) }]
    else l ++ [b]

/-! ## Narrow scopes -/

/-- Whether a core lies within a scope of another (Table 3.5). -/
def inScope (holder reader : CoreId) : Scope → Bool
  | .core => holder == reader
  | .die => dieOfCore holder == dieOfCore reader
  | .pkg => pkgOf (dieOfCore holder) == pkgOf (dieOfCore reader)
  | .domain => true

/-- The holder performs at their homes every write it has locally ordered before the recorded one (R353). -/
def publish (s : State) (line : Nat) : State :=
  match SMap.find s.scopes line with
  | none => s
  | some (k, _) =>
    let s := (List.range 16).foldl (fun s i => drainFree s (16 * k + i)) s
    { s with scopes := SMap.erase s.scopes line }

/-- A read by a core forces the publish when it lies outside the recorded scope (R353). -/
def publishFor (s : State) (k : CoreId) (line : Nat) : State :=
  match SMap.find s.scopes line with
  | some (h, sc) => if inScope h k sc then s else publish s line
  | none => s

/-! ## Performing one read -/

/-- The bytes a read returns to a context: its own buffered stores over what the memory system supplies. -/
def overlay (l : List BufStore) (g : Nat) (bs : List Byte) : List Byte :=
  (bs.zip (List.range bs.length)).map (fun x =>
    l.foldl (fun b st =>
      match st.parts.find? (fun p => p.1 == g + x.2) with
      | some p => p.2
      | none => b) x.1)

/-- The home directory's view after a die that holds no copy reads a line: the holder of an E or M line keeps a clean S or a
dirty O copy (R372). -/
def dirShare (e : DirLine) (d : DieId) : DirLine :=
  if e.dies.contains d then e
  else
    match e.st with
    | .E => ⟨.S, none, e.dies⟩
    | .M => ⟨.O, e.owner, e.dies⟩
    | _ => e

/-- A read by a core of a line that another die holds with write permission is forwarded there, and takes the permission (R372). -/
def readShare (s : State) (k : CoreId) (line : Nat) : State :=
  let e := s.dirOf line
  let e' := dirShare e (dieOfCore k)
  if e'.st = e.st then s else setDir (shareLine s line) line e'

/-- A coherent read of a line by an agent on core `k`: pending deltas are recalled, a narrow holding is published, and the
holder of write permission is left with a shared copy. -/
def coherentLine (s : State) (k : CoreId) (line : Nat) : State := readShare (publishFor (mergeAll s line) k line) k line

/-- A coherent read of a range of at most two lines. -/
def coherentRead (s : State) (k : CoreId) (g n : Nat) : State :=
  let l0 := lineOf g
  let l1 := lineOf (g + n - 1)
  if l1 = l0 then coherentLine s k l0 else coherentLine (coherentLine s k l0) k l1

/-- A load of `n` bytes within one line performs (Table 5.3, R130, R131): the state after it and the bytes the
memory system supplies, before the context's own buffered stores are laid over. -/
def performRead (s : State) (k : CoreId) (asid : Nat) (rt : Rt) (nt : Bool) (g n : Nat) : State × List Byte :=
  let line := lineOf g
  let own := (s.core k).deltas.any (fun d => lineOf d.ga == line)
  let s := if own then mergeAll s line else s
  match effRt rt nt, SMap.find (s.core k).si line with
  | .si, some l => (s, (l.drop (g % 128)).take n)
  | .wt, some l => (s, (l.drop (g % 128)).take n)
  | .si, none =>
    let s := coherentRead s k g n
    if s.holdsLine k line then (s, s.bytesAt g n)
    else
      let s := l1Room s k line
      (s.modCore k (fun x => { x with si := SMap.set x.si line (s.bytesAt (line * 128) 128) }), s.bytesAt g n)
  | .wt, none => let s := coherentRead s k g n; (s, s.bytesAt g n)
  | .own, _ =>
    let s := coherentRead s k g n
    if s.holdsLine k line then (s, s.bytesAt g n)
    else
      let e := dirRead (s.dirOf line) (dieOfCore k)
      let alone := e.st == .E && !s.dieHolds (dieOfCore k) line
      let s := setDir (l1Enter (shareLine s line) k line alone) line e
      -- an exclusive grant is a write permission (R390)
      let s := if e.st == .E then markDirty s asid g else s
      (l2Fill s line, s.bytesAt g n)
  | .uc, _ =>
    let s := coherentRead s k g n
    let s := if nt then s else recallDirty s line
    (s, s.bytesAt g n)

/-- A coherent read by an engine of core `k`: as UC on an NT page, else without allocating (R142). -/
def engineRead (s : State) (k : CoreId) (g n : Nat) : State × Except Nat (List Byte) :=
  if fenced s (pkgOf (dieOfCore k)) .engine g n then (s, .error 0x51)
  else
    let s := coherentRead s k g n
    if hasUe s g n then (s, .error 0x50) else (s, .ok (s.bytesAt g n))

/-- A write by command `cmd` of an engine of core `k`, for a job: through to the home as a WT store, as UC on an NT page
(R142). -/
def engineWrite (s : State) (k : CoreId) (cmd : Nat) (asid : Nat) (nt : Bool) (g : Nat) (bs : List Byte) : State :=
  performBytes s (.engine k cmd) k asid (if nt then .uc else .wt) nt g bs

/-- Two deltas share a byte and do not combine: another word or another operation (R136). -/
def Delta.clashes (d e : Delta) : Bool :=
  decide (e.ga < d.ga + updWidth d.op) && decide (d.ga < e.ga + updWidth e.op) && !(e.ga == d.ga && e.op == d.op)

/-- A delta of an update enters the update-only line of core `k`: it combines with a pending one of the same operation and
word; a pending one of another operation on any of its bytes merges first, on whichever core (R136, R348). A copy of the line
that the L1 holds goes home first. On an untracked page the delta performs at the home at once. -/
def addDelta (s : State) (k : CoreId) (d : Delta) (nt : Bool) : State :=
  let line := lineOf d.ga
  let s := (l1Drop s k line).modCore k (fun x => { x with si := SMap.erase x.si line })
  if nt then mergeDelta s k d
  else
    let s := l1Room (mergeAllBy markDirty d.clashes s) k line
    s.modCore k (fun x =>
      match x.deltas.findIdx? (fun e => e.ga == d.ga && e.op == d.op) with
      | some i =>
        match x.deltas[i]? with
        | some e =>
          let e' : Delta := { e with v := updApply d.op e.v d.v, eng := e.eng || d.eng
                                     who := e.who ++ d.who.filter (fun w => !e.who.contains w) }
          { x with deltas := listSet x.deltas i e' }
        | none => x
      | none => { x with deltas := x.deltas ++ [d] })

/-- Reads `n` bytes for core `k`, line by line upwards (R344): `fuel` bounds the lines. -/
def readLines (s : State) (k : CoreId) (asid : Nat) (rt : Rt) (nt : Bool) (g n : Nat) : Nat → State × List Byte
  | 0 => (s, [])
  | fuel + 1 =>
    let m := min n (128 - g % 128)
    if m = 0 then (s, [])
    else
      let a := performRead s k asid rt nt g m
      let b := readLines a.1 k asid rt nt (g + m) (n - m) fuel
      (b.1, a.2 ++ b.2)

/-! ## Line operations (R139) -/

/-- CLEAN: the core's dirty words reach the home, the copy stays clean; its update-only line merges. -/
def cleanLine (s : State) (k : CoreId) (line : Nat) : State :=
  let s := mergeCore s k line
  match SMap.find s.dirty line with
  | some o => if o.core = k then setDir (writeBack s line) line (dirClean (s.dirOf line)) else s
  | none => s

/-- Drops the core's copies of a line. -/
def dropCopy (s : State) (k : CoreId) (line : Nat) : State :=
  (l1Drop s k line).modCore k (fun x => { x with si := SMap.erase x.si line })

/-- FLUSHL: as CLEAN, then the copy is invalidated. -/
def flushLine (s : State) (k : CoreId) (line : Nat) : State := dropCopy (cleanLine s k line) k line

/-- The bytes of a line after its holder's dirty words are lost. -/
def withoutDirty (now' : List Byte) (o : DirtyLine) : List Byte :=
  (now'.zip (o.old.zip (List.range 128))).map (fun x => if o.mask.getLsbD (x.2.2 / 4) then x.2.1 else x.1)

/-- INVL: the core's copy is discarded without write-back; its dirty words and pending deltas are lost. -/
def invalidateLine (s : State) (k : CoreId) (line : Nat) : State :=
  let s := s.modCore k (fun x => { x with deltas := x.deltas.filter (fun d => lineOf d.ga != line) })
  let s :=
    match SMap.find s.dirty line with
    | some o =>
      if o.core = k then
        let g := line * 128
        setDir { s with mem := Mem.setBytes s.mem g (withoutDirty (s.bytesAt g 128) o)
                        dirty := SMap.erase s.dirty line } line (dirClean (s.dirOf line))
      else s
    | none => s
  dropCopy s k line

/-! ## Space 7 (R30) -/

/-- The first rows of Table 1.12: an access at U, and one that is not of 8 bytes. -/
def agentDenied (s : State) (g n : Nat) : Option Cause :=
  if !s.me.sys.pl then some (0x51, g) else if n != 8 || g % 8 != 0 then some (0x14, g) else none

/-! ## Lines of a range -/

/-- Every write held back from the lines of a range reaches its home: pending deltas merge, narrow holdings and buffered
stores of any context perform, dirty words are written back, and no L1 holds a tracked copy (R284, R357). -/
def settleLines (s : State) (inside : Nat → Bool) : State :=
  let holders := (s.ctxs.filter (fun e => e.2.sbuf.any (fun b => b.parts.any (fun p => inside (lineOf p.1))))).map (fun e => e.1)
  let s := holders.foldl drainFree s
  let lines := (s.cores.flatMap (fun e => e.2.deltas.map (fun x => lineOf x.ga)) ++ s.scopes.map (fun e => e.1)).filter inside
  let s := lines.foldl (fun s l => publish (mergeAll s l) l) s
  let s := ((s.dirty.map (fun e => e.1)).filter inside).foldl writeBack s
  let keep {α : Type} (m : SMap α) : SMap α := m.filter (fun e => !inside e.1)
  { s with dir := keep s.dir
           dies := s.dies.map (fun e => (e.1, { e.2 with snoop := keep e.2.snoop }))
           cores := s.cores.map (fun e => (e.1, { e.2 with l1 := keep e.2.l1 })) }

/-- The lines of a range of bytes. -/
def inLines (g n : Nat) (line : Nat) : Bool := decide (g / 128 ≤ line) && decide (line < (g + n + 127) / 128)

/-- Settles the lines of a range of bytes. -/
def settleRange (s : State) (g n : Nat) : State := settleLines s (inLines g n)

/-- The reads of a walk, a lease list or a fetch reach the home: deltas of their lines are recalled and narrow holdings
published, for core `k`. -/
def recallReads (s : State) (k : CoreId) (gas : List Nat) : State :=
  if s.scopes.isEmpty && s.cores.all (fun e => e.2.deltas.isEmpty) then s
  else gas.foldl (fun s g => coherentRead s k g 1) s

/-- The buffered stores of the running context up to and including the last that meets `f` perform, then `body` goes on.
While one of them lies in a region that a host owns, the context waits (R284). -/
def settle (s : State) (f : BufStore → Bool) (body : State → State) : State :=
  let l := s.me.sbuf
  let n := l.length - (l.reverse.takeWhile (fun b => !f b)).length
  match (l.take n).findSome? (fun b => heldBy s b.asid true b.ga) with
  | some w => waitFor s w
  | none => body (drainWhile s s.cur f)

/-- A buffered store shares a byte with a range, or stands before a fence that the context has passed. -/
def BufStore.before (b : BufStore) (epoch g n : Nat) : Bool :=
  decide (b.epoch < epoch) || b.parts.any (fun x => decide (g ≤ x.1) && decide (x.1 < g + n))

/-- Stores that an access of the running context follows perform first: those that share a byte with it, and those that a
fence ordered before it (R345). -/
def settleBefore (s : State) (g n : Nat) (body : State → State) : State :=
  settle s (fun b => b.before s.me.epoch g n) body

/-- A synchronising release by the running context that waits for no owner (Table 20.2): its stores perform, its updates merge
(R136), the trap FENCED of one that wrote nothing is taken at this word (R128), and otherwise `body` follows. -/
def releaseNow (s : State) (body : State → State) : State :=
  let s := mergeOwn (drain s s.cur) s.cur
  match s.me.owed with
  | some g => trap (s.modMe (fun c => { c with owed := none })) 0x51 g
  | none => body s

/-- A synchronising release by the running context. A store to a region that a host owns makes it wait (R284). -/
def release (s : State) (body : State → State) : State :=
  match s.me.sbuf.findSome? (fun b => heldBy s b.asid true b.ga) with
  | some w => waitFor s w
  | none => releaseNow s body

end Sys2Proof.Machine
end

