-- ==== Sys2Proof/Machine/Queues.lean ====
section
/-! DEFINITION. Bindings and their queues (R147 to R156): assembly and disassembly of tokens, waits at a queue's end,
and the words that act on them. A queue between a context and its region holds 32 tokens at each end, kept as one
FIFO whose oldest 32 stand at the consuming end, or 32 at the context's end alone where no port operator names it (R256); a
LOCAL queue holds 32, a chain 32 at each end (log 13). -/

namespace Sys2Proof.Machine

/-! ## Ends -/

/-- A binding with the queue-table entry it names. -/
abbrev End := Binding × Queue

/-- The queue-table entry e of a context's task. -/
def Ctx.queue (c : Ctx) (e : Nat) : Option Queue := c.task.bind (fun t => SMap.find t.queues e)

/-- Changes queue-table entry e of a context's task. -/
def Ctx.setQueue (c : Ctx) (e : Nat) (k : Queue) : Ctx :=
  { c with task := c.task.map (fun t => { t with queues := SMap.set t.queues e k }) }

/-- The end that q names. -/
def Ctx.endOf (c : Ctx) (q : Nat) : Option End :=
  match SMap.find c.q q with
  | none => none
  | some b => (c.queue b.entry).map (fun k => (b, k))

/-- Writes back the end that q names. -/
def Ctx.putEnd (c : Ctx) (q : Nat) (e : End) : Ctx := { c with q := SMap.set c.q q e.1 }.setQueue e.1.entry e.2

/-- A DATA or end token. -/
def Token.mk' (k : TokKind) (lanes : List Lane) (eng : Bool) : Token := ⟨k, lanes, eng, none, 0⟩
/-- EOS. -/
def Token.eos : Token := Token.mk' .eos (List.replicate 16 0) false
/-- EEOS. -/
def Token.eeos : Token := Token.mk' .eeos (List.replicate 16 0) false
/-- Lane i of a token. -/
def Token.lane (t : Token) (i : Nat) : Lane := t.lanes.getD i 0

/-- The tokens that stand where a producing context's tokens go: at the region's port, or at its own end. -/
def Queue.outTokens (k : Queue) : List Token := if k.ends = 0 then k.regQ else k.ctxQ

/-- The tokens at the context's end: the oldest 32 of an inbound queue, those past the port's 32 of an outbound one. -/
def Queue.ctxTokens (k : Queue) : List Token :=
  if k.ends != 0 then k.ctxQ else if k.inward then k.ctxQ.take 32 else if k.port then k.regQ.drop 32 else k.regQ

/-- The tokens at the region's end: those that a QPOP port may take, or that a pushing port holds behind a context's full
end. -/
def Queue.portTokens (k : Queue) : List Token :=
  if k.ends != 0 then k.regQ else if k.inward then k.ctxQ.drop 32 else if k.port then k.regQ.take 32 else []

/-- Free places for a producing context. A queue whose consumer is sealed never fills (R384). -/
def Queue.room (k : Queue) : Nat := if k.cut then 64 else (if k.ends = 0 && k.port then 64 else 32) - k.outTokens.length

/-- A token enters from the context's side in fc `now`; towards a sealed end it is discarded (R384). -/
def Queue.enter (k : Queue) (now : Nat) (t : Token) : Queue :=
  let t := { t with arr := now }
  if k.cut then k else if k.ends = 0 then { k with regQ := k.regQ ++ [t] } else { k with ctxQ := k.ctxQ ++ [t] }

/-- A token enters and is counted: CNT of an OUT binding counts tokens entered (Table 6.1). -/
def End.enter (e : End) (now : Nat) (t : Token) : End :=
  ((if e.1.dir = .out then { e.1 with cnt := (e.1.cnt + 1) % 2 ^ 32 } else e.1), e.2.enter now t)

/-- One lane joins the assembly; the 16th makes a DATA token (R150). The caller has seen to the room. -/
def End.lane (e : End) (now : Nat) (eng : Bool) (v : Lane) : End :=
  let asm := e.1.asm ++ [v]
  let byEng := e.1.asmEng || eng
  if asm.length = 16 then
    End.enter ({ e.1 with asm := [], asmEng := false }, e.2) now (Token.mk' .data asm byEng)
  else ({ e.1 with asm := asm, asmEng := byEng }, e.2)

/-- Lanes join the assembly in order. -/
def End.lanes (e : End) (now : Nat) (eng : Bool) (vs : List Lane) : End := vs.foldl (fun e v => End.lane e now eng v) e

/-- Places that appending n lanes takes. -/
def End.laneNeed (e : End) (n : Nat) : Nat := (e.1.asm.length + n) / 16

/-- QFLUSHT's effect: a partial assembly enters with zero lanes (R151). -/
def End.flush (e : End) (now : Nat) : End :=
  if e.1.asm.isEmpty then e
  else End.enter ({ e.1 with asm := [], asmEng := false }, e.2) now
        (Token.mk' .data (e.1.asm ++ List.replicate (16 - e.1.asm.length) 0) e.1.asmEng)

/-- Places that a flush takes. -/
def End.flushNeed (e : End) : Nat := if e.1.asm.isEmpty then 0 else 1

/-- What a pop that needs a head meets (R152). -/
inductive Popped
  | wait
  | err (e : End)
  | eos (e : End)
  | tok (e : End) (t : Token)
deriving DecidableEq, Repr

/-- Takes the head (R152): DATA and CSV clear END and count, EOS sets END and counts, EEOS sets ERR. -/
def End.popHead (e : End) : Popped :=
  if e.1.err then .err e
  else
    match e.2.ctxQ with
    | [] => .wait
    | t :: ts =>
      -- the EEOS that a sealed port still owes enters the place freed (R383)
      let owed := e.2.cut && e.2.inward && e.2.ends == 0
      let k := if owed then { e.2 with ctxQ := ts ++ [Token.eeos], cut := false } else { e.2 with ctxQ := ts }
      let cnt := (e.1.cnt + 1) % 2 ^ 32
      match t.kind with
      | .eeos => .err ({ e.1 with err := true }, k)
      | .eos => .eos ({ e.1 with cnt := cnt, endf := true }, k)
      | _ => .tok ({ e.1 with cnt := cnt, endf := false, cur := some t, lp := 0 }, k) t

/-- The next lane of CUR; the 16th releases it. -/
def End.takeLane (e : End) : Lane × End :=
  match e.1.cur with
  | none => (0, e)
  | some t =>
    let b := if e.1.lp = 15 then { e.1 with lp := 0, cur := none } else { e.1 with lp := e.1.lp + 1 }
    (t.lane e.1.lp, (b, e.2))

/-- The n next lanes of CUR. -/
def End.takeLanes (e : End) : Nat → List Lane × End
  | 0 => ([], e)
  | n + 1 =>
    let (v, e1) := End.takeLane e
    let (vs, e2) := End.takeLanes e1 n
    (v :: vs, e2)

/-- QSTAT (Table 6.3). OCC counts the tokens at the context's end (log 13). -/
def End.stat (e : End) : Word :=
  let b := e.1
  let code := match b.dir with | .out => 0 | .inn => 1 | .loc => 2
  let hk := if b.dir = .out then 0
            else match e.2.ctxQ with
                 | [] => 0
                 | t :: _ => match t.kind with | .data => 0 | .eos => 1 | .eeos => 2 | .csv => 3
  let lp := if b.dir = .out then b.asm.length else b.lp
  let olp := if b.dir = .loc then b.asm.length else 0
  wordOf (2 ^ 63 + code * 2 ^ 61 + b2n b.boq * 2 ^ 60 + b2n b.ch * 2 ^ 59 + b2n b.endf * 2 ^ 58 + b2n b.err * 2 ^ 57
    + hk * 2 ^ 55 + lp * 2 ^ 51 + e.2.ctxTokens.length * 2 ^ 45 + olp * 2 ^ 41 + b.cnt)

/-! ## Checks and waits -/

/-- What a word wants of a binding (Table 6.2). -/
inductive Want | produce | consume | bqpush | bqpop
deriving DecidableEq, Repr

/-- R148. -/
def Binding.admits (b : Binding) : Want → Bool
  | .produce => !b.boq && (b.dir == .out || b.dir == .loc)
  | .consume => !b.boq && (b.dir == .inn || b.dir == .loc)
  | .bqpush => b.boq && b.dir == .out
  | .bqpop => b.boq && b.dir == .inn

/-- The end that q names, when its binding admits the use. -/
def Ctx.boundFor (c : Ctx) (q : Nat) (w : Want) : Option End :=
  match c.endOf q with
  | some e => if e.1.admits w then some e else none
  | none => none

/-- SQ of a shape record. -/
def sqOf (record : List Nat) : Nat := bitsOf (record.getD 3 0) 44 4

/-- A producer issued earlier has still to append to q (R154): a push in flight or an index-engine command. -/
def producerBusy (s : State) (c : CtxId) (q : Nat) : Bool :=
  (s.ctx c).pushes.any (fun p => p.q == q)
    || (s.core (coreOf c)).ix.any (fun m => m.owner == c && m.kind != 2 && m.q == q)

/-- ROWW of a shape record. -/
def rowWords (record : List Nat) : Nat := bitsOf (record.getD 3 0) 24 12 + 1

/-- An index-engine command has popped all that it will pop (R154): a GATHQ that has ended, or holds its last index; a SCAT that
holds its last row. -/
def IxCmd.popsOver (m : IxCmd) : Bool :=
  if m.kind = 1 then m.found || m.err.isSome || (m.cnt != 0 && decide (m.cnt ≤ m.pos + m.popped.length))
  else decide (m.rows.length ≤ m.pos + 1) && decide (rowWords m.record ≤ m.wpos + m.popped.length)

/-- A consumer issued earlier has still to pop from q (R154). -/
def consumerBusy (s : State) (c : CtxId) (q : Nat) : Bool :=
  (s.core (coreOf c)).ix.any (fun m => m.owner == c && (m.kind == 1 || m.kind == 2) && sqOf m.record == q && !m.popsOver)

/-- TMO has passed in the wait the context is in (R153). -/
def timedOut (s : State) (c : CtxId) (tmo : Nat) : Bool :=
  match (s.ctx c).wait with
  | some ⟨.qFull _ _, t⟩ => tmo != 0 && decide (tmo * 1024 ≤ s.now - t)
  | some ⟨.qEmpty _, t⟩ => tmo != 0 && decide (tmo * 1024 ≤ s.now - t)
  | some ⟨.queueBehind _ _, t⟩ => tmo != 0 && decide (tmo * 1024 ≤ s.now - t)
  | _ => false

/-- Waits at a queue's end, or traps QTIMEO when its time has passed (R153). A word of the queue that stands behind an
earlier producer or consumer waits in the same way (log 105). -/
def queueWait (s : State) (q : Nat) (e : End) (w : Wait) : State :=
  if timedOut s s.cur e.1.tmo then trap s 0x22 q else waitFor s w

/-- A word of `n` bytes that produces into q: `need` places, then `act` (R148, R150, R154). A token enters after the stores that
a fence ordered before it have performed (R355). -/
def produce (s : State) (n q : Nat) (w : Want) (bad : End → Bool) (need : End → Nat) (act : End → End) : State :=
  match s.me.boundFor q w with
  | none => trap s 0x13 q
  | some e =>
    if producerBusy s s.cur q then queueWait s q e (.queueBehind q true)
    else if bad e then trap s 0x13 q
    else if e.2.room < need e then queueWait s q e (.qFull q (need e))
    else
      let put (s : State) : State := retire (s.modMe (fun c => c.putEnd q (act e))) n
      if need e = 0 then put s else settle s (fun b => decide (b.epoch < s.me.epoch)) put

/-- Popping a token whose lanes an engine read from memory acquires the writes they were read from (R155). The model
drops every SI copy of the core, which an acquire may do (log 14). -/
def acquireToken (s : State) (t : Token) : State := if t.eng then acquire s else s

/-- A pop of a head: `eos` and `tok` say what the word does then. EEOS, or ERR already set, traps QERR (R152). -/
def popToken (s : State) (q : Nat) (e : End) (eos : State → State) (tok : State → End → Token → State) : State :=
  match End.popHead e with
  | .wait => queueWait s q e (.qEmpty q)
  | .err e' => trap (s.modMe (fun c => c.putEnd q e')) 0x20 q
  | .eos e' => eos (s.modMe (fun c => c.putEnd q e'))
  | .tok e' t => tok (acquireToken (s.modMe (fun c => c.putEnd q e')) t) e' t

/-- A word that consumes from q (R148, R154). -/
def consume (s : State) (q : Nat) (w : Want) (body : End → State) : State :=
  match s.me.boundFor q w with
  | none => trap s 0x13 q
  | some e => if consumerBusy s s.cur q then queueWait s q e (.queueBehind q false) else body e

/-! ## QPUT, QFLUSHT, QPOP, QSTAT, BQPUSH, BQPOP -/

/-- The low and high lane of a doubleword. -/
def lanesOf (v : Word) : List Lane := [BitVec.ofNat 32 v.toNat, BitVec.ofNat 32 (v.toNat / 2 ^ 32)]

/-- Two lanes as a doubleword, the first low. -/
def lanePair (a b : Lane) : Word := wordOf (a.toNat + b.toNat * 2 ^ 32)

/-- QPUT.W of n bytes. -/
def qputWord (s : State) (n q : Nat) (v : Word) : State :=
  produce s n q .produce (fun _ => false) (fun e => End.laneNeed e 1)
    (fun e => End.lanes e s.fc false [BitVec.ofNat 32 v.toNat])

/-- QPUT.W (R150). -/
def execQputW (p : Pred) (q : BitVec 4) (x : BitVec 5) (s : State) : Host.Outcome State Fault Refusal :=
  .next (word s p (fun s => qputWord s 4 q.toNat (s.x x)))

/-- QPUT.D (R150): an odd LP traps BOUNDS. -/
def execQputD (p : Pred) (q : BitVec 4) (x : BitVec 5) (s : State) : Host.Outcome State Fault Refusal :=
  .next (word s p (fun s => produce s 4 q.toNat .produce (fun e => e.1.asm.length % 2 == 1)
    (fun e => End.laneNeed e 2) (fun e => End.lanes e s.fc false (lanesOf (s.x x)))))

/-- The 16 lanes of x[X]..x[X+7]. -/
def laneGroup (s : State) (x : Nat) : List Lane := (List.range 8).flatMap (fun i => lanesOf (s.me.getX (x + i)))

/-- QPUT.T (R150): flushes, then enters one DATA token. -/
def execQputT (p : Pred) (q : BitVec 4) (x : BitVec 5) (s : State) : Host.Outcome State Fault Refusal :=
  .next (word s p (fun s => produce s 4 q.toNat .produce (fun _ => false) (fun e => End.flushNeed e + 1)
    (fun e => End.enter (End.flush e s.fc) s.fc (Token.mk' .data (laneGroup s x.toNat) false))))

/-- Flushes, then enters an end token. -/
def qputEnd (s : State) (q : Nat) (t : Token) : State :=
  produce s 4 q .produce (fun _ => false) (fun e => End.flushNeed e + 1) (fun e => End.enter (End.flush e s.fc) s.fc t)

/-- QPUT.EOS (R150). -/
def execQputEos (p : Pred) (q : BitVec 4) (s : State) : Host.Outcome State Fault Refusal :=
  .next (word s p (fun s => qputEnd s q.toNat Token.eos))

/-- QPUT.EEOS (R150). -/
def execQputEeos (p : Pred) (q : BitVec 4) (s : State) : Host.Outcome State Fault Refusal :=
  .next (word s p (fun s => qputEnd s q.toNat Token.eeos))

/-- QPUTS: as QPUT.W (R63, R150). -/
def execQputs (q : BitVec 4) (a : BitVec 5) (s : State) : Host.Outcome State Fault Refusal :=
  .next (word16 s (fun s => qputWord s 2 q.toNat (s.x a)))

/-- QFLUSHT (R151). -/
def execQflusht (p : Pred) (q : BitVec 4) (s : State) : Host.Outcome State Fault Refusal :=
  .next (word s p (fun s => produce s 4 q.toNat .produce (fun _ => false) End.flushNeed (fun e => End.flush e s.fc)))

/-- Takes n lanes of CUR into xd and completes a word of `bytes` bytes. The latency of a pop is not stated: 1
(log 15). -/
def popLanes (s : State) (bytes q x n : Nat) (e : End) : State :=
  let (vs, e') := End.takeLanes e n
  finish (s.modMe (fun c => c.putEnd q e')) bytes 1 (.x x (lanePair (vs.getD 0 0) (vs.getD 1 0)))

/-- QPOP.W and QPOP.D of `bytes` bytes and n lanes (R152). -/
def qpopWord (s : State) (bytes q x n : Nat) : State :=
  consume s q .consume (fun e =>
    if e.1.lp % n != 0 then trap s 0x13 q
    else if e.1.cur.isSome then popLanes s bytes q x n e
    else popToken s q e (fun s => finish s bytes 1 (.x x 0)) (fun s e _ => popLanes s bytes q x n e))

/-- QPOP.W (R152). -/
def execQpopW (p : Pred) (x : BitVec 5) (q : BitVec 4) (s : State) : Host.Outcome State Fault Refusal :=
  .next (word s p (fun s => qpopWord s 4 q.toNat x.toNat 1))

/-- QPOP.D (R152). -/
def execQpopD (p : Pred) (x : BitVec 5) (q : BitVec 4) (s : State) : Host.Outcome State Fault Refusal :=
  .next (word s p (fun s => qpopWord s 4 q.toNat x.toNat 2))

/-- QPOPS: as QPOP.W (R63, R152). -/
def execQpops (d : BitVec 5) (q : BitVec 4) (s : State) : Host.Outcome State Fault Refusal :=
  .next (word16 s (fun s => qpopWord s 2 q.toNat d.toNat 1))

/-- Writes the eight registers of QPOP.T. -/
def Ctx.putGroup (c : Ctx) (x : Nat) (f : Nat → Word) : Ctx :=
  (List.range 8).foldl (fun c i => c.put 1 (.x (x + i) (f i))) c

/-- QPOP.T (R152). -/
def execQpopT (p : Pred) (x : BitVec 5) (q : BitVec 4) (s : State) : Host.Outcome State Fault Refusal :=
  .next (word s p (fun s => consume s q.toNat .consume (fun e =>
    if e.1.cur.isSome then trap s 0x13 q.toNat
    else popToken s q.toNat e (fun s => retire (s.modMe (fun c => c.putGroup x.toNat (fun _ => 0))) 4)
      (fun s e t => retire (s.modMe (fun c => (c.putEnd q.toNat ({ e.1 with cur := none }, e.2)).putGroup x.toNat
        (fun i => lanePair (t.lane (2 * i)) (t.lane (2 * i + 1))))) 4))))

/-- QPOP.SKIP (R152): drops the rest of CUR, never takes a head. -/
def execQpopSkip (p : Pred) (x : BitVec 5) (q : BitVec 4) (s : State) : Host.Outcome State Fault Refusal :=
  .next (word s p (fun s => consume s q.toNat .consume (fun e =>
    finish (s.modMe (fun c => c.putEnd q.toNat ({ e.1 with lp := 0, cur := none }, e.2))) 4 1
      (.x x.toNat (wordOf (if e.1.cur.isSome then 16 - e.1.lp else 0))))))

/-- QSTAT (R149): 0 on an unbound q. -/
def execQstat (p : Pred) (x : BitVec 5) (q : BitVec 4) (s : State) : Host.Outcome State Fault Refusal :=
  .next (word s p (fun s => finish s 4 1 (.x x.toNat
    (match s.me.endOf q.toNat with | some e => End.stat e | none => 0))))

/-- BQPUSH (R156). -/
def execBqpush (p : Pred) (q : BitVec 4) (x : BitVec 5) (s : State) : Host.Outcome State Fault Refusal :=
  .next (word s p (fun s => produce s 4 q.toNat .bqpush (fun _ => false) (fun _ => 1)
    (fun e => End.enter e s.fc (Token.mk' .data (BitVec.ofNat 32 (s.x x).toNat :: List.replicate 15 0) false))))

/-- Pops one outcome (R156): `body` gets lane 0, or `none` for EOS. -/
def popOutcome (s : State) (q : Nat) (body : State → Option Lane → State) : State :=
  consume s q .bqpop (fun e =>
    popToken s q e (fun s => body s none)
      (fun s e t => body (s.modMe (fun c => c.putEnd q ({ e.1 with cur := none }, e.2))) (some (t.lane 0))))

/-- BQPOP (R156). -/
def execBqpop (p : Pred) (x : BitVec 5) (q : BitVec 4) (s : State) : Host.Outcome State Fault Refusal :=
  .next (word s p (fun s => popOutcome s q.toNat (fun s v =>
    finish s 4 1 (.x x.toNat (match v with | some l => wordOf l.toNat | none => 0)))))

end Sys2Proof.Machine
end

