-- ==== Sys2Proof/Machine/Control.lean ====
section
/-! DEFINITION. Block headers, IMX, transfers, traps and their return, and the words with no effect of their own
(R64 to R67, R71, R100 to R102, R108 to R110, R115). -/

namespace Sys2Proof.Machine

/-! ## Blocks -/

/-- The body checks of R65: a long word past the last parcel, a word of MAJ 0, or IMX as the last word. `afterImx`
says that the last word met was IMX. -/
def bodyBad : Bool → List Nat → Bool
  | afterImx, [] => afterImx
  | _, p :: ps =>
    if !isLong p then bodyBad false ps
    else if bitsOf p 1 5 = 0 then true
    else
      match ps with
      | [] => true
      | _ :: ps' => bodyBad (bitsOf p 1 5 == 10) ps'

/-- The parcels of a block's body from its bytes. -/
def parcelsOf : List Byte → List Nat
  | a :: b :: bs => (a.toNat + 256 * b.toNat) :: parcelsOf bs
  | _ => []

/-- The block at `pc` whose whole code is `code` begins the iteration it is entered in. A change of M lands every earlier result
first (R93). The loop buffer takes the code of a block that fits as its first iteration fetches it, and at once when L = 1
pins it (R67). -/
def Ctx.enterBlock (c : Ctx) (rep len : Nat) (l e m : Bool) (code : List Byte) : Ctx :=
  let pc := c.blk.pc
  let fits := decide (len ≤ 62)
  { (if m = c.blk.m then c else c.landAll) with
    blk := { pc := pc + 4, hdr := pc, rep := rep, len := len, l := l, e := e, m := m, iter := c.blk.iter, entering := false
             ft := false, buf := [],
             pin := (if fits && l then some (pc, code) else c.blk.pin), word := [] } }

/-- A header: legal only where execution enters a block; its body is fetched whole and checked before any word of it
runs (R65, R111). Entering takes no issue step. -/
def enterHeader (s : State) (rep : BitVec 12) (len : BitVec 10) (l e m : Bool) : State :=
  let c := s.me
  let n := len.toNat
  let bad (s : State) : State := trap s 0x01 ((encode (.hdr rep len l e m)).getD 0)
  if !c.blk.entering || n == 0 then bad s
  else
    match c.blk.pin with
    | some (a, code) =>
      if a = c.blk.pc then s.modMe (fun c => c.enterBlock rep.toNat n l e m code) else fetched s n bad
    | none => fetched s n bad
where
  /-- The body comes from memory. -/
  fetched (s : State) (n : Nat) (bad : State → State) : State :=
    match codeWait s s.cur (s.me.blk.pc + 4) n with
    | some w => waitFor s w
    | none =>
    match fetchParcels s s.cur (s.me.blk.pc + 4) n with
    | (s', .error (code, va)) => trapEntry s' s'.cur code va false true
    | (s', .ok ps) =>
      if bodyBad false ps then bad s'
      else s'.modMe (fun c => c.enterBlock rep.toNat n l e m
        (leBytes 4 ((encode (.hdr rep len l e m)).getD 0) ++ parcelBytes ps))

/-- HDR (R64, R65). -/
def execHdr (rep : BitVec 12) (len : BitVec 10) (l e m : Bool) (s : State) : Host.Outcome State Fault Refusal :=
  .next (enterHeader s rep len l e m)

/-- BADOP at the running word, or at the first IMX before it (R71, R77). EVA holds the first 32 bits of the word
that EPC names. -/
def badop (s : State) (w : Nat) : State :=
  match s.me.imx with
  | m :: _ => trap s 0x01 (21 + 64 * m.toNat)
  | [] => trap s 0x01 w

/-- IMX: its payload joins the prefixes of the instruction; a third prefix, or one with no word after it in the body,
is BADOP at the first (R71). A prefix takes no step of its own. -/
def execImx (payload : BitVec 26) (s : State) : Host.Outcome State Fault Refusal :=
  .next (
    let c := s.me
    if c.imx.length = 2 || decide (c.blk.hdr + 4 + 2 * c.blk.len ≤ c.blk.pc + 4) then
      badop s (21 + 64 * payload.toNat)
    else s.modMe (fun c => { c with imx := c.imx ++ [payload], blk := { c.blk with pc := c.blk.pc + 4 } }))

/-- A word that is no instruction (R77, R86). -/
def execBadop (w : Lane) (s : State) : Host.Outcome State Fault Refusal := .next (badop s w.toNat)

/-- HINT: no effect that a program can see (R63). -/
def execHint (_c : BitVec 11) (s : State) : Host.Outcome State Fault Refusal := .next (word16 s (fun s => retire s 2))

/-! ## Transfers -/

/-- The word's own address plus 2 × SignExt(DISP), modulo 2^64. -/
def branchTarget (s : State) {k : Nat} (disp : BitVec k) : Nat :=
  (wordOf s.me.wordPc + BitVec.ofInt 64 (2 * disp.toInt)).toNat

/-- BR (R101). -/
def execBr (p : Pred) (disp : BitVec 22) (s : State) : Host.Outcome State Fault Refusal :=
  .next (word s p (fun s => transfer s (branchTarget s disp) false))

/-- CALL (R101). -/
def execCall (p : Pred) (disp : BitVec 22) (s : State) : Host.Outcome State Fault Refusal :=
  .next (word s p (fun s => transfer s (branchTarget s disp) true))

/-- JR (R101). -/
def execJr (p : Pred) (a : BitVec 5) (s : State) : Host.Outcome State Fault Refusal :=
  .next (word s p (fun s => transfer s (s.x a).toNat false))

/-- CALLR (R101): D and B are not used. -/
def execCallr (p : Pred) (_d a _b : BitVec 5) (s : State) : Host.Outcome State Fault Refusal :=
  .next (word s p (fun s => transfer s (s.x a).toNat true))

/-- BRQ and BRQ.N (R102): the binding, then the target, then the pop. -/
def branchQueue (s : State) (q : BitVec 4) (disp : BitVec 17) (neg : Bool) : State :=
  match s.me.boundFor q.toNat .bqpop with
  | none => trap s 0x13 q.toNat
  | some _ =>
    let tgt := branchTarget s disp
    targetChecked s tgt (fun s' =>
      popOutcome s' q.toNat (fun s v =>
        match v with
        | some l => if l.getLsbD 0 != neg then s.modMe (fun c => (c.goTo tgt false).tickStep) else retire s 4
        | none => retire s 4))

/-- BRQ (R102). -/
def execBrq (p : Pred) (q : BitVec 4) (disp : BitVec 17) (s : State) : Host.Outcome State Fault Refusal :=
  .next (word s p (fun s => branchQueue s q disp false))

/-- BRQ.N (R102). -/
def execBrqN (p : Pred) (q : BitVec 4) (disp : BitVec 17) (s : State) : Host.Outcome State Fault Refusal :=
  .next (word s p (fun s => branchQueue s q disp true))

/-! ## Traps -/

/-- TRAP #n: EVA = n, SKIP = 1 (R109). -/
def execTrap (p : Pred) (n : BitVec 10) (s : State) : Host.Outcome State Fault Refusal :=
  .next (word s p (fun s => trapEntry s s.cur 0x08 n.toNat true false))

/-- BKPT (R109). -/
def execBkpt (p : Pred) (s : State) : Host.Outcome State Fault Refusal :=
  .next (word s p (fun s => trap s 0x29 0))

/-- The waits in which a TIMER trap is taken (Table 11.7). -/
def Wait.takesTimer : Wait → Bool
  | .qFull _ _ => true
  | .qEmpty _ => true
  | .behind _ _ => true
  | .queueBehind _ _ => true
  | .tagBusy _ => true
  | .copyFull => true
  | .engineFull => true
  | .spOrder _ _ => true
  | .bopenFull => true
  | .bstConflict _ _ _ => true
  | .mqFull _ => true
  | .barrierFull _ => true
  | .sendFull _ _ _ => true
  | .ownership _ _ => true
  | _ => false

/-- The context stands between two instructions, or in a wait that a trap between steps may interrupt. -/
def Ctx.between (c : Ctx) : Bool :=
  c.run && !c.stopped && !c.ended && !c.desched && c.held.isNone
    && (match c.wait with | some w => w.kind.takesTimer | none => c.imx.isEmpty)

/-- A TIMER trap is due (R109). -/
def timerDue (s : State) (c : CtxId) : Bool :=
  let x := s.ctx c
  x.between && x.sys.ie && decide (x.sys.timecmp.toNat ≤ s.now)

/-- The TIMER trap of a context (R109); nothing when none is due. -/
def execTimerTrap (c : CtxId) (s : State) : Host.Outcome State Fault Refusal :=
  .next (if timerDue s c then trapEntry s c 0x48 0 false false else s)

/-- YIELD makes the context the one of its priority that last issued (R115, R251). -/
def execYield (p : Pred) (s : State) : Host.Outcome State Fault Refusal :=
  .next (word s p (fun s =>
    retire (s.modCore s.myCore (fun k => { k with lastIss := SMap.set k.lastIss s.me.sys.pri (s.cur % 16) })) 4))

end Sys2Proof.Machine
end

