-- ==== Sys2Proof/Machine/Versions.lean ====
section
/-! DEFINITION. Versions of bundled lines: companion entries, retention slots, the digest, the waits on PREPARED
lines, and the version that a load in a read group takes (R188, R189, R359 to R363, R367). -/

namespace Sys2Proof.Machine

/-- The version states of R359. -/
def verFree : Nat := 0
/-- PRIOR. -/
def verPrior : Nat := 2
/-- PENDING. -/
def verPending : Nat := 3
/-- PREPARED. -/
def verPrepared : Nat := 4

/-- The least key from `n` upwards that a sorted map does not list. -/
def lowestFree {α : Type} : SMap α → Nat → Nat
  | [], n => n
  | (k, _) :: m, n => if k = n then lowestFree m (n + 1) else if k < n then lowestFree m n else n

/-- An empty retention slot. -/
def Slot.empty : Slot := ⟨0, 0, 0, 0, 0, [], []⟩

/-- A retention slot of a die. -/
def Die.slot (d : Die) (n : Nat) : Slot := SMap.getD d.slots n Slot.empty

/-- The slots in use. -/
def Die.usedSlots (d : Die) : SMap Slot := d.slots.filter (fun e => e.2.state != verFree)

/-- The number and companion entry of a line, if its home holds one (R360). -/
def State.companion (s : State) (line : Nat) : Option (Nat × Companion) :=
  (s.die (homeOf line)).comp.find? (fun e => e.2.line == line)

/-- The pending slot of a line: slot number and slot. -/
def State.pending (s : State) (line : Nat) : Option (Nat × Slot) :=
  match s.companion line with
  | some (_, e) => e.pnd.map (fun n => (n, (s.die (homeOf line)).slot n))
  | none => none

/-- The line of a GA has a PREPARED version: a read of it waits (R367). -/
def prepared (s : State) (g : Nat) : Bool :=
  match s.pending (lineOf g) with
  | some (_, e) => e.state == verPrepared
  | none => false

/-- The three bits of a line in a digest, as a number of 64 bits (R363). -/
def bloom (line : Nat) : Nat :=
  let c (i : Nat) := bitsOf line (6 * i) 6
  let h0 := c 0 ^^^ c 3 ^^^ c 6
  let h1 := c 1 ^^^ c 4 ^^^ c 7 ^^^ 0x15
  let h2 := c 2 ^^^ c 5 ^^^ c 8 ^^^ 0x2A
  (2 ^ h0) ||| (2 ^ h1) ||| (2 ^ h2)

/-- A line is in a digest (R363). -/
def inDigest (line d : Nat) : Bool := d &&& bloom line == bloom line

/-- A version that a load may return: its stamp, its digest, and its data, or `none` for the line's home memory. -/
structure Version where
  stamp : Nat
  digest : Nat
  data : Option (List Byte)
deriving DecidableEq, Repr

/-- The current version; a line never committed has stamp 0 and an empty digest (R188). -/
def State.current (s : State) (line : Nat) : Version :=
  match s.companion line with
  | some (_, e) => ⟨e.cstamp, e.cdigest, none⟩
  | none => ⟨0, 0, none⟩

/-- The prior version, if one is retained. -/
def State.prior (s : State) (line : Nat) : Option Version :=
  match s.companion line with
  | some (_, e) => e.prv.map (fun n => let v := (s.die (homeOf line)).slot n; ⟨v.stamp, v.digest, some v.data⟩)
  | none => none

/-- Enter of R189. -/
def ReadGroup.enter (g : ReadGroup) (line stamp : Nat) : ReadGroup :=
  if 64 ≤ g.lines.length then { g with ov := true } else { g with lines := g.lines ++ [(line, stamp)] }

/-- A version fits a group: no line of the group lies in its digest with a lower stamp (R189). -/
def ReadGroup.fits (g : ReadGroup) (v : Version) : Bool :=
  g.lines.all (fun y => !(inDigest y.1 v.digest && decide (y.2 < v.stamp)))

/-- GroupLoad of R189: the group afterwards, and the version to return. -/
def ReadGroup.load (g : ReadGroup) (s : State) (line : Nat) : ReadGroup × Version :=
  let cur := s.current line
  let prv := s.prior line
  match g.lines.find? (fun y => y.1 == line) with
  | some (_, sx) =>
    if cur.stamp = sx then (g, cur)
    else
      match prv with
      | some v => if v.stamp = sx then (g, v) else ({ g with fr := true }, cur)
      | none => ({ g with fr := true }, cur)
  | none =>
    if g.fits cur then (g.enter line cur.stamp, cur)
    else
      match prv with
      | some v =>
        if g.fits v then ({ g with vf := Nat.min (g.vf + 1) 255 }.enter line v.stamp, v)
        else ({ g with fr := true }.enter line cur.stamp, cur)
      | none => ({ g with fr := true }.enter line cur.stamp, cur)

/-- A read by a device agent of a GA must wait: its region belongs to a host, or its line is PREPARED. -/
def engineWaits (s : State) (g : Nat) : Bool := procOwned s g || prepared s g

/-- Why an access for a job cannot perform now (R284, R367): its region belongs to a host, or, where it writes or takes write
permission, that of its dirty bit does; or its line is PREPARED. -/
def accessWait (s : State) (asid : Nat) (takes : Bool) (g : Nat) : Option Wait :=
  match heldBy s asid takes g with
  | some w => some w
  | none => if prepared s g then some (.prepared (lineOf g)) else none

/-- Why a read for a job under a request type cannot perform now: an OWN read may be granted write permission (R372, R390). -/
def readWait (s : State) (asid : Nat) (rt : Rt) (nt : Bool) (g : Nat) : Option Wait := accessWait s asid (effRt rt nt == .own) g

/-- A write by a device agent for a job must wait. -/
def writeWaits (s : State) (asid g : Nat) : Bool := (accessWait s asid true g).isSome

end Sys2Proof.Machine
end

