-- ==== Sys2Proof/Machine/Streams.lean ====
section
/-! DEFINITION. Loads of the running context, streams and fibres and their unit (R157 to R161, R285). -/

namespace Sys2Proof.Machine

/-! ## A load by the running context -/

/-- Why a read that takes no permission cannot perform now (R284, R367). -/
def loadWait (s : State) (g : Nat) : Option Wait := accessWait s 0 false g

/-- The annotation that counts: STRONG accesses are acquires and releases, UNORD ones are plain (R343). -/
def ordAcquires (h : Handle) (ord : Ord) : Bool :=
  h.bnd || h.ord == 0 || (h.ord == 1 && (ord == .acq || ord == .acqrel))

/-- The release side of an access's annotation (R343). -/
def ordReleases (h : Handle) (ord : Ord) : Bool := h.ord == 0 || (h.ord == 1 && (ord == .rel || ord == .acqrel))

/-- A load of `n` bytes at a checked GA through a handle: a STRONG load follows the context's STRONG stores (R351); the
context's own buffered stores are seen first (R350); an acquire drops the core's SI copies before the read (R348). -/
def loadAt (s : State) (h : Handle) (rt : Rt) (ord : Ord) (g n : Nat) : State × Nat :=
  let c := s.cur
  let s := if h.ord == 0 then drainWhile s c (fun b => b.strong) else s
  let s := if ordAcquires h ord then acquire s else s
  let r := performRead s s.myCore s.me.sys.asid rt h.nt g n
  (r.1, leNat (overlay (r.1.ctx c).sbuf g r.2))

/-- A load that waits with its request made keeps its handle: it completes though the handle is shot meanwhile (R126). -/
def loadHold (s : State) (h : Handle) (w : Wait) : State := (waitFor s w).modMe (fun c => { c with inLoad := some h })

/-- The handle that a load goes through. -/
def Ctx.loadHandle (c : Ctx) (hn : Nat) : Handle := c.loading.getD (c.getH hn)

/-- A read by an engine of core `k` acts as an acquire when its page is STRONG, or BND (R188, R343, R344). -/
def engineAcquires (s : State) (k : CoreId) (h : Handle) : State := if h.ord == 0 || h.bnd then acquireCore s k else s

/-- A checked read of `n` bytes for a word of the running context that is no LD: the waits, FENCED and MEMUE, then the
value. None of them is the aligned 8-byte access that space 7 takes (R30). -/
def wordRead (s : State) (h : Handle) (rt : Rt) (g n : Nat) (body : State → Nat → State) : State :=
  let denied := if gaSpace h.gbase = 7 then some ((agentDenied s g n).getD (0x51, g)) else none
  match denied, readWait s s.me.sys.asid rt h.nt g with
  | some e, _ => trap s e.1 e.2
  | none, some w => loadHold s h w
  | none, none =>
    match readOut s (pkgOf s.myDie) (.load s.me.sys.pl) g n with
    | .error code => trap s code g
    | .ok _ => let r := loadAt s h rt .plain g n; body r.1 r.2

/-! ## Records -/

/-- BASE of a stream or shape record, i64. -/
def recBase (r : List Nat) : Int := signed 64 (r.getD 0 0)
/-- The x registers X..X+3 as numbers. -/
def quadOf (s : State) (x : Nat) : List Nat := (List.range 4).map (fun i => (s.me.getX (x + i)).toNat)
/-- SZ of a stream record, in bytes. -/
def streamBytes (r : List Nat) : Nat := 2 ^ bitsOf (r.getD 3 0) 4 2
/-- T of a stream record. -/
def streamTotal (r : List Nat) : Nat := bitsOf (r.getD 2 0) 32 32 * bitsOf (r.getD 2 0) 0 32
/-- The offset of element i of a stream. -/
def streamOff (r : List Nat) (i : Nat) : Int :=
  let n0 := bitsOf (r.getD 2 0) 0 32
  recBase r + (i / n0 : Nat) * signed 32 (bitsOf (r.getD 1 0) 32 32) + (i % n0 : Nat) * signed 32 (bitsOf (r.getD 1 0) 0 32)
/-- RT of a stream record. -/
def streamRt (r : List Nat) : Rt := rtOf (bitsOf (r.getD 3 0) 10 2)
/-- The lanes of a stream element: D fills two, B and H are sign-extended when SX = 1 (R158). -/
def streamLanes (r : List Nat) (v : Nat) : List Lane :=
  let n := streamBytes r
  if n = 8 then lanesOf (wordOf v)
  else if bitOf (r.getD 3 0) 9 && n < 4 then [BitVec.ofInt 32 (signed (8 * n) v)]
  else [BitVec.ofNat 32 v]

/-- VSZ of a fibre record, in bytes. -/
def fibreBytes (r : List Nat) : Nat := 2 ^ (bitsOf (r.getD 3 0) 14 2 + 1)
/-- The offset of value i of a fibre. -/
def fibreOff (r : List Nat) (i : Nat) : Int := signed 64 (r.getD 2 0) + (i * fibreBytes r : Nat)
/-- The offset of coordinate i of a fibre. -/
def fibreCrdOff (r : List Nat) (i : Nat) : Int := signed 64 (r.getD 1 0) + (4 * i : Nat)
/-- RT of a fibre record. -/
def fibreRt (r : List Nat) : Rt := rtOf (bitsOf (r.getD 3 0) 12 2)
/-- The lanes of a fibre value (R161). -/
def fibreLanes (r : List Nat) (v : Nat) : List Lane :=
  if fibreBytes r = 8 then lanesOf (wordOf v) else [BitVec.ofNat 32 v]

/-- Whether `n` bytes at a signed offset lie in the handle's page. -/
def Handle.spans (h : Handle) (off : Int) (n : Nat) : Bool :=
  decide ((h.pbase : Int) ≤ h.anchor + off) && decide ((h.anchor : Int) + off + n ≤ h.pbase + pageBytes h.psize)

/-- The virtual address at a signed offset. -/
def Handle.vaAt (h : Handle) (off : Int) : Nat := ((h.anchor : Int) + off).toNat

/-! ## Hotness -/

/-- Counts one element delivered from a window of a core's hotness table (R285). -/
def hotCount (s : State) (k : CoreId) (asid va elem starve : Nat) : State :=
  let win := va / 2 ^ 21
  let bump (w : HotWin) : HotWin := { w with elem := satAdd 32 w.elem elem, starve := satAdd 32 w.starve starve }
  s.modCore k (fun x =>
    match x.hot.find? (fun e => e.2.win == win && e.2.asid == asid) with
    | some (i, w) => { x with hot := SMap.set x.hot i (bump w) }
    | none =>
      if x.hot.length < 64 then { x with hot := SMap.set x.hot (lowestFree x.hot 0) (bump ⟨win, asid, 0, 0⟩) }
      else
        let least := x.hot.foldl (fun m e => match m with
          | some (i, v) => if e.2.elem < v then some (e.1, e.2.elem) else some (i, v)
          | none => some (e.1, e.2.elem)) none
        match least with
        | some (i, _) => { x with hot := SMap.set x.hot i (bump ⟨win, asid, 0, 0⟩), hctl := (x.hctl + 1) % 2 ^ 32 }
        | none => x)

/-! ## Streams -/

/-- Checks 1 to 4 of SOPEN (R157). -/
def sopenCheck (s : State) (x : Nat) (r : List Nat) : Except Cause Unit :=
  let w3 := r.getD 3 0
  let hn := bitsOf w3 0 4
  let h := s.me.getH hn
  let n := streamBytes r
  let base := r.getD 0 0
  let str0 := bitsOf (r.getD 1 0) 0 32
  let str1 := bitsOf (r.getD 1 0) 32 32
  if bitsOf w3 12 52 != 0 || bitsOf w3 6 3 != 0 then .error (0x13, x)
  else if !h.v then .error (0x12, hn)
  else if base % n != 0 then .error (0x14, base)
  else if str0 % n != 0 then .error (0x14, unsig 64 (signed 32 str0))
  else if str1 % n != 0 then .error (0x14, unsig 64 (signed 32 str1))
  else if streamTotal r = 0 then .ok ()
  else
    let d0 : Int := ((bitsOf (r.getD 2 0) 0 32 : Nat) - 1 : Int) * signed 32 str0
    let d1 : Int := ((bitsOf (r.getD 2 0) 32 32 : Nat) - 1 : Int) * signed 32 str1
    let lo := recBase r + min 0 d0 + min 0 d1
    let hi := recBase r + max 0 d0 + max 0 d1
    if ((h.anchor : Int) + lo) % n != 0 then .error (0x14, base)
    else if !h.spans lo n || !h.spans hi n then .error (0x13, base)
    else .ok ()

/-- SOPEN (R157). -/
def execSopen (p : Pred) (sr : BitVec 3) (x : BitVec 5) (s : State) : Host.Outcome State Fault Refusal :=
  .next (word s p (fun s =>
    let r := quadOf s x.toNat
    match sopenCheck s x.toNat r with
    | .error (code, eva) => trap s code eva
    | .ok _ =>
      let t : Stream := ⟨r, s.me.getH (bitsOf (r.getD 3 0) 0 4), 0, none, s.me.pushSeq⟩
      retire (s.modMe (fun c => { c with s := SMap.set c.s sr.toNat t, pushSeq := c.pushSeq + 1 })) 4))

/-- A word on an open stream: closed is BOUNDS, a recorded error traps and is cleared (R158, R159). -/
def onStream (s : State) (sr : BitVec 3) (body : State → Stream → State) : State :=
  match SMap.find s.me.s sr.toNat with
  | none => trap s 0x13 sr.toNat
  | some t =>
    match t.err with
    | some (code, ga) => trap (s.modMe (fun c => { c with s := SMap.set c.s sr.toNat { t with err := none } })) code ga
    | none => body s t

/-- SPUSH and SADV also trap HINV when the handle copy was cleared (R157). -/
def onLiveStream (s : State) (sr : BitVec 3) (body : State → Stream → State) : State :=
  onStream s sr (fun s t => if t.hcopy.v then body s t else trap s 0x12 (bitsOf (t.record.getD 3 0) 0 4))

/-- The queue of a push in flight of the stream or fibre. One push of each is in flight at a time, as the image of a
task holds one (Table 16.7, log 16). -/
def ownPush (c : Ctx) (fibre : Bool) (i : Nat) : Option Nat :=
  (c.pushes.find? (fun p => p.fibre == fibre && p.idx == i)).map (fun p => p.q)

/-- Issues a push of k elements from `first` (R155, R158): the earlier stores of the context perform first. -/
def issuePush (s : State) (fibre : Bool) (i : Nat) (record : List Nat) (h : Handle) (first k q no : Nat)
    (setPos : Ctx → Ctx) : State :=
  release s (fun s => retire (s.modMe (fun c =>
    let c := setPos c
    if k = 0 then c
    else { c with pushes := c.pushes ++ [⟨fibre, i, record, h, first, k, q, false, c.pushSeq, no, c.sys.asid⟩]
                  pushSeq := c.pushSeq + 1 })) 4)

/-- The order of SPUSH's and FPUSH's checks: binding, the register's own (closed, a recorded error, the handle's copy), the count,
then the waits (R148, R158). DESIGN CHOICE (log 130): R158 orders none of them but the binding check, and the model puts the count
last. -/
def pushWord (s : State) (fibre : Bool) (i q count : Nat) (issue : State → State) : State :=
  if 65536 < count then trap s 0x13 count
  else
    match ownPush s.me fibre i with
    | some q' => waitFor s (.behind q' true)
    | none => if producerBusy s s.cur q then waitFor s (.behind q true) else issue s

/-- SPUSH (R158). -/
def execSpush (p : Pred) (sr : BitVec 3) (q : BitVec 4) (x : BitVec 5) (s : State) : Host.Outcome State Fault Refusal :=
  .next (word s p (fun s =>
    match s.me.boundFor q.toNat .produce with
    | none => trap s 0x13 q.toNat
    | some _ =>
      onLiveStream s sr (fun s t =>
        pushWord s false sr.toNat q.toNat (s.x x).toNat (fun s =>
          let k := min (s.x x).toNat (streamTotal t.record - t.pos)
          issuePush s false sr.toNat t.record t.hcopy t.pos k q.toNat t.no
            (fun c => { c with s := SMap.set c.s sr.toNat { t with pos := t.pos + k } })))))

/-- SADV (R158). -/
def execSadv (p : Pred) (sr : BitVec 3) (x : BitVec 5) (s : State) : Host.Outcome State Fault Refusal :=
  .next (word s p (fun s => onLiveStream s sr (fun s t =>
    let pos := min (t.pos + (s.x x).toNat) (streamTotal t.record)
    retire (s.modMe (fun c => { c with s := SMap.set c.s sr.toNat { t with pos := pos } })) 4)))

/-- STEND (R158, R159): true for a closed stream. -/
def execStend (p : Pred) (pd : BitVec 3) (sr : BitVec 3) (s : State) : Host.Outcome State Fault Refusal :=
  .next (word s p (fun s =>
    if (SMap.find s.me.s sr.toNat).isNone then finish s 4 1 (.p pd.toNat true)
    else onStream s sr (fun s t => finish s 4 1 (.p pd.toNat (t.pos == streamTotal t.record)))))

/-- SCLOSE (R158, R159): no fault on a closed stream. -/
def execSclose (p : Pred) (sr : BitVec 3) (s : State) : Host.Outcome State Fault Refusal :=
  .next (word s p (fun s =>
    if (SMap.find s.me.s sr.toNat).isNone then retire s 4
    else onStream s sr (fun s _ => retire (s.modMe (fun c => { c with s := SMap.erase c.s sr.toNat })) 4)))

/-! ## Fibres -/

/-- The range checks of FOPEN on a nonempty segment: coordinates through CH, then values through VH (R160). A range
is one access of its length, aligned to its elements; EVA is the range's offset (log 17). -/
def fopenRanges (s : State) (r : List Nat) (b e : Nat) : Except Cause Unit :=
  let w3 := r.getD 3 0
  let ch := bitsOf w3 4 4
  let vh := bitsOf w3 8 4
  let range (hn : Nat) (off : Int) (el n : Nat) : Except Cause Unit :=
    let h := s.me.getH hn
    if !h.v then .error (0x12, hn)
    else if ((h.anchor : Int) + off) % el != 0 then .error (0x14, unsig 64 off)
    else if !h.spans off n then .error (0x13, unsig 64 off)
    else .ok ()
  if e ≤ b then .ok ()
  else
    match range ch (fibreCrdOff r b) 4 (4 * (e - b)) with
    | .error x => .error x
    | .ok _ => range vh (fibreOff r b) (fibreBytes r) (fibreBytes r * (e - b))

/-- FOPEN (R160); f is written at step t + 8. -/
def execFopen (p : Pred) (fr : BitVec 3) (x : BitVec 5) (s : State) : Host.Outcome State Fault Refusal :=
  .next (word s p (fun s =>
    let r := quadOf s x.toNat
    let w3 := r.getD 3 0
    let i := bitsOf w3 16 32
    let ph := bitsOf w3 0 4
    let h := s.me.loadHandle ph
    if bitsOf w3 48 16 != 0 || bitsOf w3 14 2 == 3 || i == 2 ^ 32 - 1 then trap s 0x13 x.toNat
    else
      let off := wordOf (r.getD 0 0 + 4 * i)
      match accessAt h ph off 4, accessAt h ph (off + 4) 4 with
      | .error (code, eva), _ => trap s code eva
      | .ok g0, second =>
        wordRead s h (fibreRt r) g0 4 (fun s b =>
          match second with
          | .error (code, eva) => trap s code eva
          | .ok g1 =>
            wordRead s h (fibreRt r) g1 4 (fun s e =>
              if e < b then trap s 0x13 i
              else
                match fopenRanges s r b e with
                | .error (code, eva) => trap s code eva
                | .ok _ =>
                  finish (s.modMe (fun c => { c with pushSeq := c.pushSeq + 1 })) 4 8
                    (.f fr.toNat ⟨r, h, s.me.getH (bitsOf w3 4 4), s.me.getH (bitsOf w3 8 4), b, e, b, b, none, s.me.pushSeq⟩)))))

/-- A word on an open fibre, as `onStream` (R161). -/
def onFibre (s : State) (fr : BitVec 3) (body : State → Fibre → State) : State :=
  match SMap.find s.me.f fr.toNat with
  | none => trap s 0x13 fr.toNat
  | some t =>
    match t.err with
    | some (code, ga) => trap (s.modMe (fun c => { c with f := SMap.set c.f fr.toNat { t with err := none } })) code ga
    | none => body s t

/-- FPUSH (R161): it checks the copy of VH. -/
def execFpush (p : Pred) (fr : BitVec 3) (q : BitVec 4) (x : BitVec 5) (s : State) : Host.Outcome State Fault Refusal :=
  .next (word s p (fun s =>
    match s.me.boundFor q.toNat .produce with
    | none => trap s 0x13 q.toNat
    | some _ =>
      onFibre s fr (fun s t =>
        if !t.vh.v then trap s 0x12 (bitsOf (t.record.getD 3 0) 8 4)
        else
          pushWord s true fr.toNat q.toNat (s.x x).toNat (fun s =>
            let k := min (s.x x).toNat (t.fin - t.vpos)
            issuePush s true fr.toNat t.record t.vh t.vpos k q.toNat t.no
              (fun c => { c with f := SMap.set c.f fr.toNat { t with vpos := t.vpos + k } })))))

/-- FADV (R161): it checks the copies of VH and then CH. -/
def execFadv (p : Pred) (fr : BitVec 3) (x : BitVec 5) (s : State) : Host.Outcome State Fault Refusal :=
  .next (word s p (fun s => onFibre s fr (fun s t =>
    if !t.vh.v then trap s 0x12 (bitsOf (t.record.getD 3 0) 8 4)
    else if !t.ch.v then trap s 0x12 (bitsOf (t.record.getD 3 0) 4 4)
    else
      let n := (s.x x).toNat
      let t := { t with vpos := min (t.vpos + n) t.fin, cpos := min (t.cpos + n) t.fin }
      retire (s.modMe (fun c => { c with f := SMap.set c.f fr.toNat t })) 4)))

/-- FTEND (R161): true for a closed fibre. -/
def execFtend (p : Pred) (sel : CursorSel) (pd : BitVec 3) (fr : BitVec 3) (s : State) :
    Host.Outcome State Fault Refusal :=
  .next (word s p (fun s =>
    if (SMap.find s.me.f fr.toNat).isNone then finish s 4 1 (.p pd.toNat true)
    else onFibre s fr (fun s t =>
      let v := t.vpos == t.fin
      let c := t.cpos == t.fin
      finish s 4 1 (.p pd.toNat (match sel with | .v => v | .c => c | .vc => v && c)))))

/-- FCLOSE (R161). -/
def execFclose (p : Pred) (fr : BitVec 3) (s : State) : Host.Outcome State Fault Refusal :=
  .next (word s p (fun s =>
    if (SMap.find s.me.f fr.toNat).isNone then retire s 4
    else onFibre s fr (fun s _ => retire (s.modMe (fun c => { c with f := SMap.erase c.f fr.toNat })) 4)))

/-! ## The unit -/

/-- Offset, size, request type and lanes of a push's next element. -/
def Push.element (p : Push) : Int × Nat × Rt :=
  if p.fibre then (fibreOff p.record p.next, fibreBytes p.record, fibreRt p.record)
  else (streamOff p.record p.next, streamBytes p.record, streamRt p.record)

/-- The lanes of a value that a push read. -/
def Push.lanes (p : Push) (v : Nat) : List Lane := if p.fibre then fibreLanes p.record v else streamLanes p.record v

/-- Records the first error of a push in the stream or fibre it came from, if that open of the register still stands (R159). -/
def Ctx.pushError (c : Ctx) (p : Push) (code ga : Nat) : Ctx :=
  if p.fibre then
    match SMap.find c.f p.idx with
    | some t => if t.no = p.no && t.err.isNone then { c with f := SMap.set c.f p.idx { t with err := some (code, ga) } } else c
    | none => c
  else
    match SMap.find c.s p.idx with
    | some t => if t.no = p.no && t.err.isNone then { c with s := SMap.set c.s p.idx { t with err := some (code, ga) } } else c
    | none => c

/-- Replaces or drops the i-th push of a context. -/
def Ctx.setPush (c : Ctx) (i : Nat) (p : Option Push) : Ctx :=
  { c with pushes := match p with | some q => listSet c.pushes i q | none => listDrop c.pushes i }

/-- An errored push enters EEOS, after the lanes of its earlier elements, when there is room (R159). -/
def pushEnds (s : State) (c : CtxId) (i : Nat) (p : Push) (e : End) : State :=
  if e.2.room < End.flushNeed e + 1 then s.modCtx c (fun x => x.setPush i (some { p with dead := true }))
  else s.modCtx c (fun x => (x.putEnd p.q (End.enter (End.flush e s.fc) s.fc Token.eeos)).setPush i none)

/-- The unit performs one element of the oldest push of a stream or fibre: one read and its lanes (R158, R161). It
does nothing while the queue is full or the read must wait. -/
def pushStep (s : State) (c : CtxId) (fibre : Bool) (idx : Nat) : State :=
  let x := s.ctx c
  match x.pushes.findIdx? (fun p => p.fibre == fibre && p.idx == idx) with
  | none => s
  | some i =>
    match x.pushes[i]? with
    | none => s
    | some p =>
      match x.endOf p.q with
      | none => s.modCtx c (fun x => x.setPush i none)
      | some e =>
        if frozen s c then s
        else if p.dead then pushEnds s c i p e
        else if !p.hcopy.v then
          -- only a push of a resumed task, whose saved handle copy was shot down (R126, R319)
          pushEnds (s.modCtx c (fun x => x.pushError p 0x12 (bitsOf (p.record.getD 3 0) (if p.fibre then 8 else 0) 4))) c i p e
        else
          let (off, n, rt) := p.element
          let va := p.hcopy.vaAt off
          let g := p.hcopy.ga va
          if (readWait s p.asid rt p.hcopy.nt g).isSome || decide (e.2.room < End.laneNeed e (if n = 8 then 2 else 1)) then s
          else
            match readOut s (pkgOf (dieOf c)) .engine g n with
            | .error code => pushEnds (s.modCtx c (fun x => x.pushError p code g)) c i p e
            | .ok _ =>
              let r := performRead (engineAcquires s (coreOf c) p.hcopy) (coreOf c) p.asid rt p.hcopy.nt g n
              let s := hotCount r.1 (coreOf c) p.asid va 1 0
              s.modCtx c (fun x =>
                (x.putEnd p.q (End.lanes e s.fc true (p.lanes (leNat r.2)))).setPush i
                  (if p.remaining ≤ 1 then none else some { p with next := p.next + 1, remaining := p.remaining - 1 }))

/-- A push that has advanced counts as an engine command that moved (R314). -/
def pushMoved (s s' : State) (c : CtxId) : State :=
  if (s.ctx c).pushes = (s'.ctx c).pushes then s' else noteAdvance s' c

/-- STREAM_READ (R158, R159). -/
def execStreamRead (c : CtxId) (sr : BitVec 3) (s : State) : Host.Outcome State Fault Refusal :=
  .next (pushMoved s (pushStep s c false sr.toNat) c)

/-- FIBRE_READ (R161). -/
def execFibreRead (c : CtxId) (fr : BitVec 3) (s : State) : Host.Outcome State Fault Refusal :=
  .next (pushMoved s (pushStep s c true fr.toNat) c)

end Sys2Proof.Machine
end

