-- ==== Sys2Proof/Machine/Copies.lean ====
section
/-! DEFINITION. Tags and their waits, and the copy engine (R140 to R144, R146). -/

namespace Sys2Proof.Machine

/-! ## Tags -/

/-- TB[t] of a core. -/
def Core.tagBusy (k : Core) (t : Nat) : Bool := k.tb.getLsbD t

/-- Sets TB[t] and records its owner; an error that nothing has observed goes with the old command (R141). -/
def Core.takeTag (k : Core) (t : Nat) (c : CtxId) : Core :=
  { k with tb := k.tb ||| wordOf (2 ^ t), tags := SMap.set k.tags t ⟨c, none⟩ }

/-- Clears TB[t] and records the error of its command. -/
def Core.clearTag (k : Core) (t : Nat) (err : Option (Nat × Nat)) : Core :=
  { k with tb := k.tb &&& ~~~(wordOf (2 ^ t))
           tags := SMap.set k.tags t { SMap.getD k.tags t ⟨0, none⟩ with err := err } }

/-- Some clear tag of a set that holds an error, lowest first. -/
def Core.errorIn (k : Core) (m : Word) : Option (Nat × Nat × Nat) :=
  (List.range 64).findSome? (fun t =>
    if m.getLsbD t then
      match SMap.find k.tags t with
      | some ⟨_, some (code, ga)⟩ => some (t, code, ga)
      | _ => none
    else none)

/-- A wait that observes the tags of `obs` and writes `v`: an acquire of their commands' writes; the lowest errored tag
traps its cause and is cleared (R143). -/
def observe (s : State) (x : Nat) (obs v : Word) : State :=
  match (s.core s.myCore).errorIn obs with
  | some (t, code, ga) => trap (s.modCore s.myCore (fun k => k.clearTag t none)) code ga
  | none => finish (if obs = 0 then s else acquire s) 4 1 (.x x v)

/-- WTANY (R143). -/
def execWtany (p : Pred) (x y : BitVec 5) (s : State) : Host.Outcome State Fault Refusal :=
  .next (word s p (fun s =>
    let m := s.x y
    let r := m &&& ~~~(s.core s.myCore).tb
    if m != 0 && r == 0 then waitFor s (.anyTag m.toNat) else observe s x.toNat r r))

/-- WTALL (R143). -/
def execWtall (p : Pred) (x y : BitVec 5) (s : State) : Host.Outcome State Fault Refusal :=
  .next (word s p (fun s =>
    let m := s.x y
    if m &&& (s.core s.myCore).tb != 0 then waitFor s (.allTags m.toNat) else observe s x.toNat m m))

/-- FFR (R143): it observes the one tag that it returns. -/
def execFfr (p : Pred) (x y : BitVec 5) (s : State) : Host.Outcome State Fault Refusal :=
  .next (word s p (fun s =>
    let free := s.x y &&& ~~~(s.core s.myCore).tb
    match (List.range 64).find? (fun t => free.getLsbD t) with
    | some t => observe s x.toNat (wordOf (2 ^ t)) (wordOf t)
    | none => finish s 4 1 (.x x.toNat 64)))

/-! ## CPY -/

/-- The first row that leaves [lo, hi), rows of `n` bytes standing at v, v + stride, … -/
def firstBadRow (v stride : Int) (n : Nat) (rows : Nat) (lo hi : Int) : Option Nat :=
  if v < lo || hi < v + n then some 0
  else if stride = 0 then none
  else
    let i := (if 0 < stride then (hi - n - v) / stride else (v - lo) / (-stride)).toNat + 1
    if i < rows then some i else none

/-- The cause of the first row of one side that R121 refuses, with the row's number and, as EVA, its offset (R141). -/
def copySideBad (h : Handle) (off stride : Int) (n rows : Nat) (write : Bool) : Option (Nat × Cause) :=
  if !h.v then some (0, 0x12, unsig 64 off)
  else
    let va0 := (h.anchor : Int) + off
    match firstBadRow va0 stride n rows h.pbase (h.pbase + pageBytes h.psize) with
    | some 0 => some (0, 0x13, unsig 64 off)
    | bad =>
      if write && !h.w then some (0, 0x11, unsig 64 off)
      else if write && h.bnd then some (0, 0x38, unsig 64 off)
      else bad.map (fun i => (i, 0x13, unsig 64 (off + i * stride)))

/-- A copy descriptor's fields (Table 5.5). -/
structure CopyDesc where
  soff : Nat
  doff : Nat
  rows : Nat
  len : Nat
  dstr : Int
  sstr : Int
  dga : Bool
  sga : Bool
  dh : Nat
  sh : Nat
deriving DecidableEq, Repr

/-- Reads a descriptor. -/
def copyDesc (d : List Nat) : CopyDesc :=
  let w3 := d.getD 3 0
  { soff := d.getD 0 0, doff := d.getD 1 0, rows := bitsOf (d.getD 2 0) 32 32 + 1, len := bitsOf (d.getD 2 0) 0 32
    dstr := signed 24 (bitsOf w3 40 24), sstr := signed 24 (bitsOf w3 16 24), dga := bitOf w3 9, sga := bitOf w3 8
    dh := bitsOf w3 4 4, sh := bitsOf w3 0 4 }

/-- The GA of row i of a side: through its handle, or from a GA operand. No rule says what a row below GA 0 names: the model
takes it to be GA 0 (log 109). -/
def CopySide.ga (a : CopySide) (i : Nat) : Nat :=
  let step := signed 24 a.stride * (i : Int)
  match a.h with
  | some h => h.ga (h.vaAt (signed 64 a.off + step))
  | none => ((gaOf a.off : Int) + step).toNat

/-- Check 4 of R141 on a side of GAs: the GA of the first row that Table 1.8 does not allow. Rows rise or fall by less than the
gap above the extent of any space, so the first row past the extent of row 0's space comes before any in another. -/
def copyGaBad (s : State) (acc : Acc) (a : CopySide) (rows len : Nat) : Option Nat :=
  let g := a.ga 0
  if a.h.isSome || len == 0 then none
  else if fenced s (pkgOf s.myDie) acc g len then some g
  else (firstBadRow (gaOff g) (signed 24 a.stride) len rows 0 (spaceExtent (s.die (gaDie g)) (gaSpace g))).map a.ga

/-- The lowest GA of a side and the bytes from there to its highest (R142). -/
def sideRange (a : CopySide) (rows len : Nat) : Nat × Nat :=
  let g0 := a.ga 0
  let g1 := a.ga (rows - 1)
  (min g0 g1, max g0 g1 + len - min g0 g1)

/-- Two ranges of (start, length) share a byte. -/
def rangesMeet (a b : Nat × Nat) : Bool := decide (a.1 < b.1 + b.2) && decide (b.1 < a.1 + a.2) && a.2 != 0 && b.2 != 0

/-- A range with whether it is written. -/
abbrev SpRange := Nat × Nat × Bool

/-- Two commands' scratchpad ranges conflict: they share a byte in scratchpad and one writes (R142). -/
def spConflict (a b : List SpRange) : Bool :=
  a.any (fun x => b.any (fun y => gaSpace x.1 == 2 && (x.2.2 || y.2.2) && rangesMeet (x.1, x.2.1) (y.1, y.2.1)))

/-- The ranges of a copy. -/
def Copy.ranges (c : Copy) : List SpRange :=
  let a := sideRange c.src c.rows c.len
  let b := sideRange c.dst c.rows c.len
  [(a.1, a.2, false), (b.1, b.2, true)]

/-- ROWW of a shape record, in bytes. -/
def rowBytes (r : List Nat) : Nat := 4 * (bitsOf (r.getD 3 0) 24 12 + 1)
/-- STRIDE of a shape record. -/
def rowStride (r : List Nat) : Nat := bitsOf (r.getD 1 0) 32 32
/-- EXTENT of a shape record. -/
def rowExtent (r : List Nat) : Nat := bitsOf (r.getD 1 0) 0 32
/-- The bytes of an element of NZSCAN. -/
def scanBytes (r : List Nat) : Nat := 2 ^ bitsOf (r.getD 3 0) 38 2

/-- The ranges of an index-engine command: its rows, all rows that GATHQ may reach, the elements that NZSCAN scans. -/
def IxCmd.ranges (c : IxCmd) : List SpRange :=
  let base := c.dh.ga (c.dh.vaAt (signed 64 (c.record.getD 0 0)))
  if c.kind = 1 then [(base, (rowExtent c.record - 1) * rowStride c.record + rowBytes c.record, false)]
  else if c.kind = 4 then [(base, c.cnt * scanBytes c.record, false)]
  else c.rows.filterMap (fun r => match r with | .row g _ _ => some (g, rowBytes c.record, c.kind == 2) | _ => none)

/-- The range that an MLOADB reads: NBLK blocks of 64 bytes in each of 128 columns. -/
def SaCmd.ranges (c : SaCmd) : List SpRange :=
  if bitsOf c.w 0 4 = 1 then [(bitsOf c.w 64 56, (bitsOf c.w 48 8 + 1) * 8192, false)] else []

/-- The ranges of the commands that a context issued before command number `seq` of its core: copies, index-engine
commands and matrix commands (R142). -/
def earlierRanges (s : State) (c : CtxId) (seq : Nat) : List SpRange :=
  let k := s.core (coreOf c)
  let sas := match (s.ctx c).task with
             | some t => (match t.region with | some r => r.sas | none => [])
             | none => []
  (k.copies.filter (fun x => x.owner == c && decide (x.seq < seq))).flatMap Copy.ranges
    ++ (k.ix.filter (fun x => x.owner == c && decide (x.seq < seq))).flatMap IxCmd.ranges
    ++ sas.flatMap (fun a => (a.queue.filter (fun x => decide (x.seq < seq))).flatMap SaCmd.ranges)

/-- The range-overlap scoreboard holds a command of a context back (R142). -/
def spBlocked (s : State) (c : CtxId) (seq : Nat) (r : List SpRange) : Bool := spConflict (earlierRanges s c seq) r

/-- The copy that a checked descriptor asks for. -/
def newCopy (s : State) (tag : Nat) (strided : Bool) (desc : List Nat) : Copy :=
  let d := copyDesc desc
  { tag := tag, owner := s.cur, asid := s.me.sys.asid, desc := desc, strided := strided
    src := ⟨if d.sga then none else some (s.me.getH d.sh), d.soff, unsig 24 d.sstr⟩
    dst := ⟨if d.dga then none else some (s.me.getH d.dh), d.doff, unsig 24 d.dstr⟩
    rows := d.rows, len := d.len, row := 0, byte := 0, snap := none, isStart := true, err := none, seq := 0 }

/-- Checks 3 and 4 of R141. A row is checked as a read, then as a write; the first failing row decides. -/
def copyCheck (s : State) (d : CopyDesc) (c : Copy) : Except Cause Unit :=
  let a := if d.sga then none else copySideBad (s.me.getH d.sh) (signed 64 d.soff) d.sstr d.len d.rows false
  let b := if d.dga then none else copySideBad (s.me.getH d.dh) (signed 64 d.doff) d.dstr d.len d.rows true
  let pick : Option Cause :=
    match a, b with
    | some (i, x), some (j, y) => some (if i ≤ j then x else y)
    | some (_, x), none => some x
    | none, some (_, y) => some y
    | none, none => none
  match pick with
  | some x => .error x
  | none =>
    match copyGaBad s (.copyRead s.me.sys.pl) c.src c.rows c.len, copyGaBad s (.copyWrite s.me.sys.pl) c.dst c.rows c.len with
    | some g, _ => .error (0x51, g)
    | none, some g => .error (0x51, g)
    | none, none => .ok ()

/-- CPY and CPY.S (R140, R141). Issuing releases the context's earlier accesses to the engine (R144); a copy of no
bytes completes at once. -/
def copyWord (s : State) (i : Instr) (strided : Bool) (tag x : Nat) : State :=
  let desc := quadOf s x
  let d := copyDesc desc
  let w3 := desc.getD 3 0
  if bitsOf w3 10 6 != 0 || (!strided && (d.rows != 1 || bitsOf w3 16 48 != 0)) || (d.dga && d.dh != 0)
      || (d.sga && d.sh != 0) then trap s 0x13 x
  else if (d.sga || d.dga) && !s.me.sys.pl then trapWord s 0x03 i
  else
    let c := newCopy s tag strided desc
    match copyCheck s d c with
    | .error (code, eva) => trap s code eva
    | .ok _ =>
      let k := s.core s.myCore
      if k.tagBusy tag then waitFor s (.tagBusy tag)
      else if 32 ≤ k.copies.length then waitFor s .copyFull
      else
        release s (fun s => retire (s.modCore s.myCore (fun k =>
          let k := k.takeTag tag s.cur
          if d.len = 0 then k.clearTag tag none
          else { k with copies := k.copies ++ [{ c with seq := k.ixSeq }], ixSeq := k.ixSeq + 1 })) 4)

/-- CPY (R140). -/
def execCpy (p : Pred) (tag : BitVec 6) (x : BitVec 5) (s : State) : Host.Outcome State Fault Refusal :=
  .next (word s p (fun s => copyWord s (.cpy p tag x) false tag.toNat x.toNat))

/-- CPY.S (R140). -/
def execCpyS (p : Pred) (tag : BitVec 6) (x : BitVec 5) (s : State) : Host.Outcome State Fault Refusal :=
  .next (word s p (fun s => copyWord s (.cpyS p tag x) true tag.toNat x.toNat))

/-! ## The engine -/

/-- A command of an engine stands still: one of its matches has had two further write requests and is not latched yet (R146),
or is latched and is the next thing that its context takes: no more than two have performed when the trap is entered (R382). -/
def enginePaused (s : State) (k : CoreId) (cmd : Nat) : Bool :=
  s.hits.any (fun h => h.engine == some (k, cmd) && decide (2 ≤ h.skid))
    || s.ctxs.any (fun e => e.2.watchNext && e.2.wengine.any (fun w => w.2 == (k, cmd)))

/-- Counts a further write request of a command against the matches it has made (R146). -/
def countSkid (s : State) (k : CoreId) (cmd : Nat) : State :=
  { s with hits := s.hits.map (fun h => if h.engine == some (k, cmd) then { h with skid := h.skid + 1 } else h) }

/-- A write request of an engine's command: FENCED, MEMUE, or performed (R142). -/
def engineStore (s : State) (k : CoreId) (cmd : Nat) (asid : Nat) (nt : Bool) (acc : Acc) (g : Nat) (bs : List Byte) :
    State × Option (Nat × Nat) :=
  if fenced s (pkgOf (dieOfCore k)) acc g bs.length then (s, some (0x51, g))
  else if hasUe s g bs.length then (s, some (0x50, g))
  else (engineWrite (countSkid s k cmd) k cmd asid nt g bs, none)

/-- A coherent read of a range by core `k`, before its bytes are taken: every line is recalled. -/
def recallRange (s : State) (k : CoreId) (g n : Nat) : State :=
  (List.range ((g + n - 1) / 128 + 1 - g / 128)).foldl (fun s i => coherentRead s k ((g / 128 + i) * 128) 1) s

/-- The source bytes of a copy, row by row, as they stand once every pending delta on them has merged. -/
def copySnap (s : State) (k : CoreId) (c : Copy) : State × List Byte :=
  let s := (List.range c.rows).foldl (fun s i => recallRange s k (c.src.ga i) c.len) s
  (s, (List.range c.rows).flatMap (fun i => s.bytesAt (c.src.ga i) c.len))

/-- The bytes of the next request: up to the end of the row and of the destination's 128-byte line (log 19). -/
def Copy.chunk (c : Copy) : Nat := min (c.len - c.byte) (128 - (c.dst.ga c.row + c.byte) % 128)

/-- Whether a side's pages are untracked. -/
def CopySide.nt (a : CopySide) : Bool := match a.h with | some h => h.nt | none => false

/-- Records the first error. -/
def firstErr (a b : Option (Nat × Nat)) : Option (Nat × Nat) := match a with | some x => some x | none => b

/-- Performs the next request of a copy (R142): reads coherently, writes as a WT store; a request that fails writes
nothing and the rest go on. -/
def copyRequest (s : State) (k : CoreId) (c : Copy) : State × Copy :=
  let n := c.chunk
  let sg := c.src.ga c.row + c.byte
  let dg := c.dst.ga c.row + c.byte
  let (s, got) := engineRead' s sg n
  let data := match c.snap with | some l => ((l.drop (c.row * c.len + c.byte)).take n) | none => got.2
  let (s, err) :=
    match got.1 with
    | some e => (s, some e)
    | none => engineStore s k (c.seq + 1) c.asid c.dst.nt (.copyWrite true) dg data
  let last := decide (c.len ≤ c.byte + n)
  (s, { c with err := firstErr c.err err, row := if last then c.row + 1 else c.row,
               byte := if last then 0 else c.byte + n })
where
  /-- A coherent read that may touch two lines. -/
  engineRead' (s : State) (g n : Nat) : State × Option (Nat × Nat) × List Byte :=
    if fenced s (pkgOf (dieOfCore k)) (.copyRead true) g n then (s, some (0x51, g), [])
    else
      let s := coherentRead s k g n
      if hasUe s g n then (s, some (0x50, g), []) else (s, none, s.bytesAt g n)

/-- Source and destination of a copy overlap: it completes in a drain, where any other stops (R314). -/
def Copy.overlaps (c : Copy) : Bool := rangesMeet (sideRange c.src c.rows c.len) (sideRange c.dst c.rows c.len)

/-- COPY_REQUEST: one request of the copy under a tag (R142). It does nothing while the copy is paused or frozen,
an earlier command of the context conflicts in scratchpad, or the region or line makes it wait. -/
def copyStep (s : State) (k : CoreId) (tag : Nat) : State :=
  match (s.core k).copies.findIdx? (fun c => c.tag == tag) with
  | none => s
  | some i =>
    match (s.core k).copies[i]? with
    | none => s
    | some c =>
      if frozen s c.owner || (draining s c.owner && !c.overlaps) || enginePaused s k (c.seq + 1) || spBlocked s c.owner c.seq c.ranges
          || engineWaits s (c.src.ga c.row + c.byte) || writeWaits s c.asid (c.dst.ga c.row + c.byte) then s
      else
        let (s, c) :=
          if c.isStart && c.overlaps then
            let r := copySnap s k c
            (r.1, { c with isStart := false, snap := some r.2 })
          else (s, { c with isStart := false })
        let (s, c) := copyRequest s k c
        (noteAdvance s c.owner).modCore k (fun x =>
          if c.row < c.rows then { x with copies := listSet x.copies i c }
          else { x with copies := listDrop x.copies i }.clearTag tag c.err)

/-- COPY_REQUEST (R142). -/
def execCopyRequest (k : CoreId) (tag : BitVec 6) (s : State) : Host.Outcome State Fault Refusal :=
  .next (copyStep s k tag.toNat)

end Sys2Proof.Machine
end

