-- ==== Sys2Proof/Machine/CounterCache.lean ====
section
/-! DEFINITION. The counter cache of a core (R119, R401): increments of BBH and TRCNT, eviction, time-out and flush. -/

namespace Sys2Proof.Machine

/-- 64 µs in cc (R401). -/
def ccLimit : Nat := 128000
/-- Entries of a counter cache (R119). -/
def ccSize : Nat := 256

/-- An entry's delta reaches memory as an atomic ADD.D at the home (R401). A write that completes FENCED or MEMUE, or
outside spaces 0 to 2, is discarded and recorded. -/
def ccWrite (s : State) (k : CoreId) (e : CcEntry) : State :=
  if e.delta = 0 then s
  else if fenced s (pkgOf (dieOfCore k)) .engine e.ga 8 || hasUe s e.ga 8 then
    s.modCore k (fun c => { c with ccerrga := e.ga, cclost := satAdd 64 c.cclost e.delta })
  else
    let s := coherentRead s k e.ga 8
    engineWrite s k 0 e.asid false e.ga (leBytes 8 (s.peek e.ga 8 + e.delta))

/-- What the write of an entry reads and writes. -/
def ccGas (s : State) (e : CcEntry) : List Nat := if e.delta = 0 then [] else e.ga :: dirtyGas s e.asid e.ga

/-- The write of an entry waits for the owner of its region, or of its dirty bitmap (R284). -/
def ccHeld (s : State) (e : CcEntry) : Option Wait := firstOwned s (ccGas s e)

/-- Writes entry i; its delta is then 0. One that a host's region holds up stays owed (R284). -/
def ccWriteAt (s : State) (k : CoreId) (i : Nat) : State :=
  match (s.core k).cc[i]? with
  | some e =>
    if (ccHeld s e).isSome then s.modCore k (fun c => { c with cc := listSet c.cc i { e with owed := true } })
    else (ccWrite s k e).modCore k (fun c => { c with cc := listSet c.cc i { e with delta := 0, owed := false } })
  | none => s

/-- The entry least recently incremented. -/
def ccOldest (l : List CcEntry) : Option CcEntry :=
  l.foldl (fun m e =>
    match m with
    | some o => if e.used < o.used then some e else some o
    | none => some e) none

/-- What an increment writes first: a full entry of its counter, or the entry that it would evict. -/
def ccAhead (s : State) (k : CoreId) (ga : Nat) : List Nat :=
  let c := s.core k
  match c.cc.find? (fun e => e.ga == ga) with
  | some e => if 2 ^ 32 - 1 ≤ e.delta then ccGas s e else []
  | none => if c.cc.length < ccSize then [] else (match ccOldest c.cc with | some e => ccGas s e | none => [])

/-- The wait of an increment (R284). -/
def ccWait (s : State) (k : CoreId) (ga : Nat) : Option Wait := firstOwned s (ccAhead s k ga)

/-- Adds 1 to the counter at a GA through the cache of core `k` (R119, R401). -/
def ccCount (s : State) (k : CoreId) (asid ga : Nat) : State :=
  let c := s.core k
  match c.cc.findIdx? (fun e => e.ga == ga) with
  | some i =>
    match c.cc[i]? with
    | some e =>
      let e' := { e with delta := e.delta + 1, first := if e.delta = 0 then s.now else e.first, used := c.ccSeq, asid := asid, owed := e.owed }
      let s := s.modCore k (fun c => { c with cc := listSet c.cc i e', ccSeq := c.ccSeq + 1 })
      if e'.delta = 2 ^ 32 - 1 then ccWriteAt s k i else s
    | none => s
  | none =>
    let s :=
      if c.cc.length < ccSize then s
      else
        match ccOldest c.cc with
        | some o => (ccWrite s k o).modCore k (fun c => { c with cc := c.cc.filter (fun e => e.ga != o.ga) })
        | none => s
    s.modCore k (fun c => { c with cc := c.cc ++ [⟨ga, 1, s.now, c.ccSeq, asid, false⟩], ccSeq := c.ccSeq + 1 })

/-- Writes every entry of a core: a store to CCFLUSH (R401). -/
def ccFlush (s : State) (k : CoreId) : State :=
  (List.range (s.core k).cc.length).foldl (fun s i => ccWriteAt s k i) s

/-- Whether an entry of the core still holds a delta: what a load of CCFLUSH waits on. -/
def ccPending (s : State) (k : CoreId) : Bool := (s.core k).cc.any (fun e => e.delta != 0)

/-- The entry's write is due: it has been pending for 64 µs, or an earlier one was held up (R401). -/
def ccDue (s : State) (e : CcEntry) : Bool := e.delta != 0 && (e.owed || decide (ccLimit ≤ s.now - e.first))

/-- Entry i writes its delta once that is due. -/
def ccExpireAt (s : State) (k : CoreId) (i : Nat) : State :=
  match (s.core k).cc[i]? with
  | some e => if ccDue s e then ccWriteAt s k i else s
  | none => s

/-- COUNTER_CACHE_TIMEOUT (R401). -/
def execCounterCacheTimeout (k : CoreId) (i : Nat) (s : State) : Host.Outcome State Fault Refusal := .next (ccExpireAt s k i)

/-- Every entry of a core whose time has come writes: the passing of time alone brings it about. -/
def ccExpire (s : State) (k : CoreId) : State :=
  (List.range (s.core k).cc.length).foldl (fun s i => ccExpireAt s k i) s

/-- A store to CCFLUSH of a core's agent flushes its entries (R401). -/
def execCcflush (k : CoreId) (s : State) : Host.Outcome State Fault Refusal := .next (ccFlush s k)

/-- BBH #n (R119): adds 1 to the counter at BBHBASE + 8n, raises no fault, and is a no operation when BBHBASE is 0. It waits where
an entry that must be written first lies in a region that a host owns (R284). -/
def execBbh (p : Pred) (n : BitVec 8) (s : State) : Host.Outcome State Fault Refusal :=
  .next (word s p (fun s =>
    let base := s.me.sys.bbhbase.toNat
    let ga := gaOf (base + 8 * n.toNat)
    if base = 0 then retire s 4
    else
      match ccWait s s.myCore ga with
      | some w => waitFor s w
      | none => retire (ccCount s s.myCore s.me.sys.asid ga) 4))

end Sys2Proof.Machine
end

