-- ==== Sys2Proof/Machine/F32.lean ====
section
/-! DEFINITION. Exact arithmetic rounded once: binary32, binary16 and bfloat16 values, the four rounding modes, and the
special functions (R204, R209, R210, R214). A finite value is a sign, a magnitude and a power of two. -/

namespace Sys2Proof.Machine

/-- RM of Table 3.20. -/
inductive Rm | rne | rtz | rup | rdn
deriving DecidableEq, Repr

/-- RM from its two bits. -/
def rmOf : Nat → Rm | 0 => .rne | 1 => .rtz | 2 => .rup | _ => .rdn

/-- A binary format: fraction bits and exponent bits. -/
structure FpFmt where
  frac : Nat
  expo : Nat
deriving DecidableEq, Repr

/-- binary32. -/
def fmt32 : FpFmt := ⟨23, 8⟩
/-- binary16. -/
def fmt16 : FpFmt := ⟨10, 5⟩
/-- bfloat16: the upper half of a binary32 (R49). -/
def fmtBf : FpFmt := ⟨7, 8⟩

/-- The exponent bias. -/
def FpFmt.bias (f : FpFmt) : Nat := 2 ^ (f.expo - 1) - 1
/-- The pattern of an infinity. -/
def FpFmt.inf (f : FpFmt) (neg : Bool) : Nat := b2n neg * 2 ^ (f.frac + f.expo) + (2 ^ f.expo - 1) * 2 ^ f.frac
/-- The largest finite pattern. -/
def FpFmt.largest (f : FpFmt) (neg : Bool) : Nat := f.inf neg - 1
/-- A zero. -/
def FpFmt.zero (f : FpFmt) (neg : Bool) : Nat := b2n neg * 2 ^ (f.frac + f.expo)

/-- Every NaN result of the fabric (R204). -/
def f32Nan : Nat := 0x7FC00000

/-- A decoded pattern: NaN, an infinity, or the finite value (−1)^neg × mag × 2^exp. -/
inductive Fp
  | nan
  | inf (neg : Bool)
  | fin (neg : Bool) (mag : Nat) (exp : Int)
deriving DecidableEq, Repr

/-- Decodes a pattern. -/
def FpFmt.decode (f : FpFmt) (a : Nat) : Fp :=
  let s := bitOf a (f.frac + f.expo)
  let e := bitsOf a f.frac f.expo
  let m := bitsOf a 0 f.frac
  if e = 2 ^ f.expo - 1 then (if m = 0 then .inf s else .nan)
  else if e = 0 then .fin s m (1 - (f.bias : Int) - f.frac)
  else .fin s (m + 2 ^ f.frac) ((e : Int) - f.bias - f.frac)

/-- mag / 2^shift rounded to an integer; `sticky` is a positive amount below every bit of mag. -/
def roundShift (rm : Rm) (neg : Bool) (mag shift : Nat) (sticky : Bool) : Nat :=
  let q := mag / 2 ^ shift
  let r := mag % 2 ^ shift
  let inexact := r != 0 || sticky
  let up := match rm with
    | .rne => decide (2 ^ shift < 2 * r) || (2 * r == 2 ^ shift && (sticky || q % 2 == 1))
    | .rtz => false
    | .rup => inexact && !neg
    | .rdn => inexact && neg
  q + b2n up

/-- Overflow goes to infinity or to the largest magnitude, by the mode (R204). -/
def FpFmt.overflow (f : FpFmt) (rm : Rm) (neg : Bool) : Nat :=
  match rm with
  | .rne => f.inf neg
  | .rtz => f.largest neg
  | .rup => if neg then f.largest neg else f.inf neg
  | .rdn => if neg then f.inf neg else f.largest neg

/-- The pattern of (mag × 2^exp, plus a sticky amount), rounded once with subnormals kept (R204). A sticky amount alone
is a positive value below the smallest subnormal. -/
def FpFmt.round (f : FpFmt) (rm : Rm) (neg : Bool) (mag : Nat) (exp : Int) (sticky : Bool) : Nat :=
  if mag = 0 && !sticky then f.zero neg
  else
    let emin : Int := 1 - (f.bias : Int)
    let (mag, exp, sticky) : Nat × Int × Bool := if mag = 0 then (1, emin - (f.frac : Int) - 64, false) else (mag, exp, sticky)
    let lsb : Int := max (exp + ((Nat.log2 mag : Nat) : Int)) emin - (f.frac : Int)
    let q := if lsb ≤ exp then roundShift rm neg (mag * 2 ^ (exp - lsb).toNat) 0 sticky
             else roundShift rm neg mag (lsb - exp).toNat sticky
    let (q, lsb) : Nat × Int := if 2 ^ (f.frac + 1) ≤ q then (q / 2, lsb + 1) else (q, lsb)
    let top : Int := lsb + (f.frac : Int)
    if (f.bias : Int) < top then f.overflow rm neg
    else if 2 ^ f.frac ≤ q then f.zero neg + ((top + f.bias).toNat * 2 ^ f.frac + (q - 2 ^ f.frac))
    else f.zero neg + q

/-- A signed integer times 2^exp, rounded; `z` says whether an exact zero is negative. -/
def FpFmt.roundInt (f : FpFmt) (rm : Rm) (v : Int) (exp : Int) (z : Bool) : Nat :=
  if v = 0 then f.zero z else f.round rm (decide (v < 0)) v.natAbs exp false

/-- mag × 2^exp with its sign, over 2^e for an e at most exp. -/
def scaleTo (neg : Bool) (mag : Nat) (exp e : Int) : Int :=
  let m : Int := ((mag * 2 ^ (exp - e).toNat : Nat) : Int)
  if neg then -m else m

/-- The exact sum of two finite values, rounded once. Zeros of one sign keep it; any other exact zero is +0, or −0 under
RDN (IEEE 754). -/
def addFin (rm : Rm) (sa : Bool) (ma : Nat) (ea : Int) (sb : Bool) (mb : Nat) (eb : Int) : Nat :=
  let e := min ea eb
  let z := if ma = 0 && mb = 0 && sa == sb then sa else rm == .rdn
  fmt32.roundInt rm (scaleTo sa ma ea e + scaleTo sb mb eb e) e z

/-- a + b (R204). -/
def fAdd (rm : Rm) (a b : Nat) : Nat :=
  match fmt32.decode a, fmt32.decode b with
  | .nan, _ => f32Nan
  | _, .nan => f32Nan
  | .inf s, .inf t => if s = t then fmt32.inf s else f32Nan
  | .inf s, _ => fmt32.inf s
  | _, .inf s => fmt32.inf s
  | .fin sa ma ea, .fin sb mb eb => addFin rm sa ma ea sb mb eb

/-- Whether a pattern is a NaN. -/
def fIsNan (a : Nat) : Bool := decide (0x7F800000 < a % 2 ^ 31)
/-- −a; a NaN is canonical. -/
def fNeg (a : Nat) : Nat := if fIsNan a then f32Nan else if bitOf a 31 then a - 2 ^ 31 else a + 2 ^ 31
/-- |a|; a NaN is canonical. -/
def fAbs (a : Nat) : Nat := if fIsNan a then f32Nan else a % 2 ^ 31
/-- a − b. -/
def fSub (rm : Rm) (a b : Nat) : Nat := fAdd rm a (fNeg b)

/-- a × b. -/
def fMul (rm : Rm) (a b : Nat) : Nat :=
  match fmt32.decode a, fmt32.decode b with
  | .nan, _ => f32Nan
  | _, .nan => f32Nan
  | .inf s, .inf t => fmt32.inf (s != t)
  | .inf s, .fin t m _ => if m = 0 then f32Nan else fmt32.inf (s != t)
  | .fin s m _, .inf t => if m = 0 then f32Nan else fmt32.inf (s != t)
  | .fin sa ma ea, .fin sb mb eb => fmt32.round rm (sa != sb) (ma * mb) (ea + eb) false

/-- a × b + c, rounded once. -/
def fFma (rm : Rm) (a b c : Nat) : Nat :=
  match fmt32.decode a, fmt32.decode b, fmt32.decode c with
  | .nan, _, _ => f32Nan
  | _, .nan, _ => f32Nan
  | _, _, .nan => f32Nan
  | .fin sa ma ea, .fin sb mb eb, .fin sc mc ec => addFin rm (sa != sb) (ma * mb) (ea + eb) sc mc ec
  | .fin _ _ _, .fin _ _ _, .inf s => fmt32.inf s
  | x, y, z =>
    -- a product with an infinity
    let sgn : Fp → Bool := fun v => match v with | .inf s => s | .fin s _ _ => s | .nan => false
    let zero : Fp → Bool := fun v => match v with | .fin _ m _ => m == 0 | _ => false
    let s := sgn x != sgn y
    if zero x || zero y then f32Nan
    else
      match z with
      | .inf t => if s = t then fmt32.inf s else f32Nan
      | _ => fmt32.inf s

/-- A pattern's place in the order −∞ … −0, +0 … +∞. -/
def fOrder (a : Nat) : Int := if bitOf a 31 then -((a % 2 ^ 31 : Nat) : Int) - 1 else (a : Int)
/-- MIN: −0 is less than +0. -/
def fMin (a b : Nat) : Nat := if fIsNan a || fIsNan b then f32Nan else if fOrder a ≤ fOrder b then a else b
/-- MAX. -/
def fMax (a b : Nat) : Nat := if fIsNan a || fIsNan b then f32Nan else if fOrder b ≤ fOrder a then a else b
/-- A number's place in the order of values: ±0 are equal. -/
def fValue (a : Nat) : Int := if bitOf a 31 then -((a % 2 ^ 31 : Nat) : Int) else (a : Int)

/-- |a − b|, exact, then rounded once. -/
def fAbsDiff (rm : Rm) (a b : Nat) : Nat :=
  match fmt32.decode a, fmt32.decode b with
  | .nan, _ => f32Nan
  | _, .nan => f32Nan
  | .inf s, .inf t => if s = t then f32Nan else fmt32.inf false
  | .inf _, _ => fmt32.inf false
  | _, .inf _ => fmt32.inf false
  | .fin sa ma ea, .fin sb mb eb =>
    let e := min ea eb
    fmt32.round rm false (scaleTo sa ma ea e - scaleTo sb mb eb e).natAbs e false

/-- k of Table 8.6. -/
def fClass (a : Nat) : Nat :=
  match fmt32.decode a with
  | .nan => 8
  | .inf s => if s then 0 else 7
  | .fin s m _ =>
    if m = 0 then (if s then 3 else 4)
    else if bitsOf a 23 8 = 0 then (if s then 2 else 5)
    else if s then 1 else 6

/-- The magnitude mag × 2^exp rounded to an integer. -/
def toIntMag (rm : Rm) (neg : Bool) (mag : Nat) (exp : Int) : Nat :=
  if 0 ≤ exp then mag * 2 ^ exp.toNat else roundShift rm neg mag (-exp).toNat false

/-- RINT: ±0 and ±∞ are kept, and so is the sign of a zero result. -/
def fRint (rm : Rm) (a : Nat) : Nat :=
  match fmt32.decode a with
  | .nan => f32Nan
  | .inf _ => a
  | .fin s m e => if m = 0 || 0 ≤ e then a else fmt32.round rm s (toIntMag rm s m e) 0 false

/-- An integer to F32 (R209). -/
def fFromInt (rm : Rm) (v : Int) : Nat := fmt32.roundInt rm v 0 false

/-- Clamps to a range. -/
def clampInt (lo hi v : Int) : Int := if v < lo then lo else if hi < v then hi else v

/-- v × 2^scale rounded to an integer and saturated; a NaN gives 0 (R209, R210). -/
def fToInt (rm : Rm) (lo hi : Int) (scale : Int) (a : Nat) : Int :=
  match fmt32.decode a with
  | .nan => 0
  | .inf s => if s then lo else hi
  | .fin s m e =>
    let q : Int := ((toIntMag rm s m (e + scale) : Nat) : Int)
    clampInt lo hi (if s then -q else q)

/-- Encodes an F32 lane in a half format; a NaN is 0x7FC0 or 0x7E00 (R51, R210). -/
def toHalf (f : FpFmt) (rm : Rm) (a : Nat) : Nat :=
  match fmt32.decode a with
  | .nan => if f.frac = 7 then 0x7FC0 else 0x7E00
  | .inf s => f.inf s
  | .fin s m e => f.round rm s m e false

/-- Expands a half format exactly (R50, R210). -/
def fromHalf (f : FpFmt) (a : Nat) : Nat :=
  match f.decode a with
  | .nan => f32Nan
  | .inf s => fmt32.inf s
  | .fin s m e => fmt32.round .rne s m e false

/-! ## Special functions (R214)

2^a and 1/(1 + e^−a) are irrational but where said. They are computed to 512 places, with an error below 2^−480, and
rounded with a sticky amount. No binary32 input brings a result within 2^−400 of a rounding boundary without lying on
it, so this is the correctly rounded result (log 23). -/

/-- The fixed-point places of the computation. -/
def encBits : Nat := 512

/-- ⌊√v⌋, bit by bit from bit `n`. -/
def isqrtFrom (v : Nat) : Nat → Nat → Nat
  | 0, r => r
  | n + 1, r => isqrtFrom v n (if (r + 2 ^ n) * (r + 2 ^ n) ≤ v then r + 2 ^ n else r)

/-- ⌊√v⌋. -/
def isqrt (v : Nat) : Nat := isqrtFrom v (Nat.log2 v / 2 + 1) 0

/-- Terms of ln 2 = Σ 1/(k 2^k), each rounded down; k runs down from `n`. -/
def ln2Sum : Nat → Nat
  | 0 => 0
  | n + 1 => ln2Sum n + 2 ^ encBits / ((n + 1) * 2 ^ (n + 1))

/-- ln 2. -/
def ln2Fixed : Nat := ln2Sum 560

/-- Σ tⁱ/i! from term `i`: `term` is the term before. -/
def expSum (t : Nat) : Nat → Nat → Nat → Nat → Nat
  | 0, _, _, acc => acc
  | fuel + 1, i, term, acc =>
    let next := term * t / (2 ^ encBits * i)
    expSum t fuel (i + 1) next (acc + next)

/-- e^t for t below 1. -/
def expFixed (t : Nat) : Nat := expSum t 110 1 (2 ^ encBits) (2 ^ encBits)

/-- Squares `n` times. -/
def squareFixed : Nat → Nat → Nat
  | 0, e => e
  | n + 1, e => squareFixed n (e * e / 2 ^ encBits)

/-- Rounds an irrational positive value just above v, times 2^scale. -/
def roundFixed (rm : Rm) (v : Nat) (scale : Int) : Nat := fmt32.round rm false v (scale - (encBits : Int)) true

/-- A positive value below every bit, rounded. -/
def roundTiny (rm : Rm) : Nat := fmt32.round rm false 0 0 true

/-- EXP2 (Table 8.9). -/
def fExp2 (rm : Rm) (a : Nat) : Nat :=
  match fmt32.decode a with
  | .nan => f32Nan
  | .inf s => if s then 0 else 0x7F800000
  | .fin s m e =>
    if m = 0 then 0x3F800000
    else
      -- a as a multiple of 2^−512; |a| below 2^9 is exact
      let v := scaleTo s m (min e 512) (-512)
      if 9 ≤ e + ((Nat.log2 m : Nat) : Int) || 128 * 2 ^ encBits ≤ v then (if s then roundTiny rm else fmt32.overflow rm false)
      else if v < -(160 * 2 ^ encBits) then roundTiny rm
      else
        let k : Int := v / (2 ^ encBits : Nat)
        let f := (v % (2 ^ encBits : Nat)).toNat
        if f = 0 then fmt32.round rm false 1 k false
        else roundFixed rm (expFixed (f * ln2Fixed / 2 ^ encBits)) k

/-- RCP (Table 8.9). -/
def fRcp (rm : Rm) (a : Nat) : Nat :=
  match fmt32.decode a with
  | .nan => f32Nan
  | .inf s => fmt32.zero s
  | .fin s m e =>
    if m = 0 then fmt32.inf s
    else
      let k := 80 + Nat.log2 m
      fmt32.round rm s (2 ^ k / m) (-(k : Int) - e) (2 ^ k % m != 0)

/-- RSQ (Table 8.9). -/
def fRsq (rm : Rm) (a : Nat) : Nat :=
  match fmt32.decode a with
  | .nan => f32Nan
  | .inf s => if s then f32Nan else 0
  | .fin s m e =>
    if m = 0 then fmt32.inf s
    else if s then f32Nan
    else
      let (m, e) := if e % 2 = 0 then (m, e) else (2 * m, e - 1)
      let k := 80 + Nat.log2 m
      let q := isqrt (2 ^ (2 * k) / m)
      fmt32.round rm false q (-(k : Int) - e / 2) (q * q * m != 2 ^ (2 * k))

/-- SIG (Table 8.9). Past |a| = 120 the result lies beyond half the smallest subnormal of 0, or of the last place of 1. -/
def fSig (rm : Rm) (a : Nat) : Nat :=
  match fmt32.decode a with
  | .nan => f32Nan
  | .inf s => if s then 0 else 0x3F800000
  | .fin s m e =>
    if m = 0 then 0x3F000000
    else if 120 * 2 ^ encBits < (scaleTo false m (min e 512) (-512)) then
      if s then roundTiny rm else fmt32.round rm false (2 ^ encBits - 1) (-(encBits : Int)) true
    else
      let ey := squareFixed 7 (expFixed ((scaleTo false m e (-512)).toNat / 128))
      let one := 2 ^ encBits
      roundFixed rm (one * (if s then one else ey) / (one + ey)) 0

end Sys2Proof.Machine
end

