-- ==== Sys2Proof/Machine/Formats.lean ====
section
/-! DEFINITION. Self-describing blocks (R38 to R45), tapered formats (R46 to R48), element decode and encode (R49 to
R51, R211 to R213), the internal formats W20 and W21 (R52, R53), and carry-save quads (R55 to R59). -/

namespace Sys2Proof.Machine

/-! ## Elements -/

/-- A decoded element: NaR (a NaN included), an infinity, or (−1)^neg × mag × 2^exp. -/
abbrev Elem := Fp

/-- +0. -/
def Elem.zero : Elem := .fin false 0 0

/-- Length of the run of bits equal to `b` from bit i−1 downwards. -/
def runLen (p : Nat) (b : Bool) : Nat → Nat
  | 0 => 0
  | i + 1 => if bitOf p i == b then 1 + runLen p b i else 0

/-- TDecode of R46. -/
def tDecode (n es p : Nat) : Elem :=
  let p := p % 2 ^ n
  if p = 0 then .zero
  else if p = 2 ^ (n - 1) then .nan
  else
    let s := bitOf p (n - 1)
    let p := if s then 2 ^ n - p else p
    let b := bitOf p (n - 2)
    let k := runLen p b (n - 1)
    let reg : Int := if b then (k : Int) - 1 else -(k : Int)
    let rem := n - 2 - k
    let rest := p % 2 ^ rem
    let fw := rem - es
    let e := if es ≤ rem then rest / 2 ^ fw else rest * 2 ^ (es - rem)
    .fin s (2 ^ fw + (if es ≤ rem then rest % 2 ^ fw else 0)) (reg * 2 ^ es + (e : Int) - (fw : Int))

/-- The magnitude pattern of mag × 2^exp by R48, for a nonzero mag. -/
def tMagnitude (n es mag : Nat) (exp : Int) : Nat :=
  let fw := Nat.log2 mag
  let lead := exp + (fw : Int)
  let top : Int := (((n - 2) * 2 ^ es : Nat) : Int)
  if top ≤ lead then 2 ^ (n - 1) - 1
  else if lead < -top then 1
  else
    let reg := lead / (2 ^ es : Nat)
    let e := (lead % (2 ^ es : Nat)).toNat
    let (bits, len) : Nat × Nat :=
      if 0 ≤ reg then ((2 ^ (reg.toNat + 1) - 1) * 2, reg.toNat + 2) else (1, (-reg).toNat + 1)
    -- the unbounded string: regime, exponent bits, fraction bits
    let str := (bits * 2 ^ es + e) * 2 ^ fw + (mag - 2 ^ fw)
    let len := len + es + fw
    if len ≤ n - 1 then str * 2 ^ (n - 1 - len)
    else
      let sh := len - (n - 1)
      let l := str / 2 ^ sh
      let g := bitOf str (sh - 1)
      let st := str % 2 ^ (sh - 1) != 0
      if g && (st || l % 2 == 1) then l + 1 else l

/-- R48 on a decoded value. -/
def tEncode (n es : Nat) (v : Elem) : Nat :=
  match v with
  | .nan => 2 ^ (n - 1)
  | .inf _ => 2 ^ (n - 1)
  | .fin s m e =>
    if m = 0 then 0
    else
      let p := tMagnitude n es m e
      if s then 2 ^ n - p else p

/-- Multiplies an element by 2^k. -/
def Elem.scale (v : Elem) (k : Int) : Elem :=
  match v with
  | .fin s m e => .fin s m (e + k)
  | x => x

/-! ## Blocks -/

/-- A row of Table 2.2: logical and stored elements, element bits, whether scaled, microscales used. -/
structure BlkFmt where
  logical : Nat
  stored : Nat
  bits : Nat
  scaled : Bool
  micro : Nat
deriving DecidableEq, Repr

/-- The valid format codes of Table 2.2. -/
def blkFmt : Nat → Option BlkFmt
  | 1 => some ⟨48, 48, 8, true, 3⟩
  | 2 => some ⟨64, 64, 6, true, 4⟩
  | 3 => some ⟨96, 48, 8, true, 3⟩
  | 4 => some ⟨96, 48, 6, true, 3⟩
  | 5 => some ⟨24, 24, 16, false, 0⟩
  | 6 => some ⟨24, 24, 16, false, 0⟩
  | 7 => some ⟨12, 12, 32, false, 0⟩
  | 8 => some ⟨48, 48, 8, true, 3⟩
  | _ => none

/-- The logical count of a format code. -/
def blkLogical (fmt : Nat) : Nat := match blkFmt fmt with | some f => f.logical | none => 0

/-- Tokens per block (Table 8.8). -/
def blkTokens (fmt : Nat) : Nat := (blkLogical fmt + 15) / 16

/-- A 2:4 format. -/
def blk24 (fmt : Nat) : Bool := fmt == 3 || fmt == 4

/-- The bytes lo to lo + n − 1 of a block as a number. -/
def blkField (b : List Byte) (lo n : Nat) : Nat := leNat ((b.drop lo).take n)

/-- Stored element i (R43). -/
def blkStored (b : List Byte) (f : BlkFmt) (i : Nat) : Nat := bitsOf (blkField b 4 48) (f.bits * i) f.bits

/-- The microscale that serves stored element i (R39). -/
def blkMicro (b : List Byte) (i : Nat) : Int := signed 4 (bitsOf (blkField b 2 2) (4 * (i / 16)) 4)

/-- The value of a stored element (R39, R46, R49). -/
def blkValue (fmt : Nat) (b : List Byte) (f : BlkFmt) (i : Nat) : Elem :=
  let p := blkStored b f i
  let k : Int := (blkField b 1 1 : Int) - 127 + blkMicro b i
  match fmt with
  | 1 | 3 => Elem.scale (tDecode 8 1 p) k
  | 2 | 4 => Elem.scale (tDecode 6 0 p) k
  | 5 => fmtBf.decode p
  | 6 => fmt16.decode p
  | 7 => fmt32.decode p
  | _ => let v := signed 8 p; .fin (decide (v < 0)) v.natAbs k

/-- The position of stored element j within its group (R44). -/
def blkPos (b : List Byte) (j : Nat) : Nat := bitsOf (blkField b 52 12) (2 * j) 2

/-- A group names one position twice (R45). -/
def blkMalformed (fmt : Nat) (b : List Byte) : Bool :=
  blk24 fmt && (List.range 24).any (fun g => blkPos b (2 * g) == blkPos b (2 * g + 1))

/-- The logical elements that R44 lays out. -/
def blkElems (fmt : Nat) (b : List Byte) (f : BlkFmt) : List Elem :=
  if blk24 fmt then
    (List.range 96).map (fun l =>
      let g := l / 4
      if blkPos b (2 * g) = l % 4 then blkValue fmt b f (2 * g)
      else if blkPos b (2 * g + 1) = l % 4 then blkValue fmt b f (2 * g + 1)
      else .zero)
  else (List.range f.stored).map (blkValue fmt b f)

/-- A block met by a consumer that expects format `fmt`: its elements and whether it is malformed. A block of another
valid format decodes as poisoned (R212, R235). One of another 2:4 format that is malformed too, and which R45 would make zeros,
is taken to be poisoned, and is not counted (log 116). -/
def blkDecode (fmt : Nat) (b : List Byte) : List Elem × Bool :=
  match blkFmt fmt with
  | none => ([], false)
  | some f =>
    let code := blkField b 0 1
    if code = 0 then (List.replicate f.logical .zero, false)
    else if code ≠ fmt || (f.scaled && blkField b 1 1 == 255) then (List.replicate f.logical .nan, false)
    else if blkMalformed fmt b then (List.replicate f.logical .zero, true)
    else (blkElems fmt b f, false)

/-- An element as an F32 lane (R50). -/
def Elem.lane (v : Elem) : Lane :=
  BitVec.ofNat 32 (match v with
    | .nan => f32Nan
    | .inf s => fmt32.inf s
    | .fin s m e => fmt32.round .rne s m e false)

/-- The 64 bytes of a token's lanes (R211). -/
def laneBytes (ls : List Lane) : List Byte := ls.flatMap (fun l => leBytes 4 l.toNat)

/-- Sixteen lanes of 64 bytes. -/
def bytesLanes (bs : List Byte) : List Lane := (List.range 16).map (fun i => BitVec.ofNat 32 (blkField bs (4 * i) 4))

/-- CVT.SDB decode of one block (R212): the N tokens' lanes and whether the block is malformed. `bg` is CONST32 when
BGK is set. -/
def sdbDecode (fmt : Nat) (b : List Byte) (bg : Option Lane) : List (List Lane) × Bool :=
  let n := blkLogical fmt
  let (els, bad) := blkDecode fmt b
  let lanes := match bg with
    | some k => if blkField b 0 1 = 0 then List.replicate n k else els.map Elem.lane
    | none => els.map Elem.lane
  ((List.range (blkTokens fmt)).map (fun t => (List.range 16).map (fun i => lanes.getD (16 * t + i) 0)), bad)

/-! ## Encode (R51, R213) -/

/-- A lane is finite. -/
def laneFinite (a : Nat) : Bool := bitsOf a 23 8 != 255

/-- The largest magnitude pattern among the finite lanes. -/
def maxMag (vs : List Nat) : Nat := vs.foldl (fun m a => if laneFinite a then Nat.max m (a % 2 ^ 31) else m) 0

/-- ⌊log2⌋ of a nonzero finite magnitude pattern. -/
def leadOf (a : Nat) : Int :=
  match fmt32.decode a with
  | .fin _ m e => e + ((Nat.log2 m : Nat) : Int)
  | _ => 0

/-- The two lanes of a group of four that are kept, in ascending position: the largest magnitudes, a NaN largest of
all, ties to the lower index. -/
def keepTwo (g : List Nat) : List (Nat × Nat) :=
  let key (i : Nat) : Nat := let a := g.getD i 0 % 2 ^ 31; if 0x7F800000 < a then 0x7F800001 else a
  let beaten (i : Nat) : Nat :=
    ((List.range 4).filter (fun j => decide (key i < key j) || (key i == key j && decide (j < i)))).length
  ((List.range 4).filter (fun i => decide (beaten i < 2))).map (fun i => (i, g.getD i 0))

/-- v × 2^−k as an I8 pattern (R51); an infinity saturates. A NaN lane, for which R51 gives no byte, is written as 0; the
payload of a block written with X = 255 is scaled by the X that R213 chooses from the finite lanes (log 118). -/
def i8Encode (a : Nat) (k : Int) : Nat :=
  match fmt32.decode a with
  | .fin s m e =>
    let q : Int := ((toIntMag .rne s m (e - k) : Nat) : Int)
    unsig 8 (clampInt (-128) 127 (if s then -q else q))
  | .inf s => unsig 8 (if s then -128 else 127)
  | .nan => 0

/-- CVT.SDB encode (R213): the block for the gathered lanes, zero lanes added. -/
def sdbEncode (fmt : Nat) (lanes : List Lane) : List Byte :=
  match blkFmt fmt with
  | none => []
  | some f =>
    let v := (List.range f.logical).map (fun i => (lanes.getD i 0).toNat)
    if !f.scaled then
      let raw := v.map (fun a =>
        if fmt = 7 then (if fIsNan a then f32Nan else a) else toHalf (if fmt = 5 then fmtBf else fmt16) .rne a)
      leBytes 4 fmt ++ (raw.flatMap (fun r => leBytes (f.bits / 8) r)) ++ leBytes 12 0
    else
      let kept := (List.range 24).map (fun g => keepTwo ((v.drop (4 * g)).take 4))
      let stored := if blk24 fmt then kept.flatten.map (fun e => e.2) else v
      let side := if blk24 fmt then (kept.flatten.map (fun e => e.1)).foldr (fun p n => p + 4 * n) 0 else 0
      let off : Int := if fmt = 8 then 6 else 0
      let big := maxMag v
      let x : Int := if big = 0 then 127 else clampInt 0 254 (leadOf big - off + 127)
      let micro (j : Nat) : Int :=
        let m := maxMag ((stored.drop (16 * j)).take 16)
        if m = 0 then 0 else clampInt (-8) 0 (leadOf m - off - (x - 127))
      let ms := (List.range f.micro).map micro
      let elem (i : Nat) : Nat :=
        let a := stored.getD i 0
        let k := x - 127 + ms.getD (i / 16) 0
        if fmt = 8 then i8Encode a k
        else if fmt = 1 || fmt = 3 then tEncode 8 1 (Elem.scale (fmt32.decode a) (-k))
        else tEncode 6 0 (Elem.scale (fmt32.decode a) (-k))
      let raw := ((List.range f.stored).map elem).foldr (fun e n => e + 2 ^ f.bits * n) 0
      let msc := ms.foldr (fun m n => unsig 4 m + 16 * n) 0
      let bad := fmt == 8 && v.any (fun a => !laneFinite a)
      leBytes 1 fmt ++ leBytes 1 (if bad then 255 else x.toNat) ++ leBytes 2 msc ++ leBytes 48 raw ++ leBytes 12 side

/-! ## W20 and W21 (R52, R53) -/

/-- The pattern of an operand element with `w` fraction bits: 9 for W20, 10 for W21. Every operand is exact (R53); a
NaN or infinity is NaR. -/
def wEncode (w : Nat) (v : Elem) : Nat :=
  match v with
  | .fin s m e =>
    if m = 0 then b2n s * 2 ^ (w + 10)
    else
      let l := Nat.log2 m
      b2n s * 2 ^ (w + 10) + (e + (l : Int) + 511).toNat * 2 ^ w + (m - 2 ^ l) * 2 ^ w / 2 ^ l
  | _ => 1023 * 2 ^ w

/-- Its reading: none is NaR, else sign, magnitude and power of two. -/
def wDecode (w a : Nat) : Elem :=
  let e := bitsOf a w 10
  if e = 0 then .zero
  else if e = 1023 then .nan
  else .fin (bitOf a (w + 10)) (2 ^ w + bitsOf a 0 w) ((e : Int) - 511 - w)

/-- The fraction width of the internal format that a block format decodes to (R52). -/
def wWidth (fmt : Nat) : Nat := if fmt = 5 || fmt = 6 then 10 else 9

/-- An addend of an accumulation step: NaR, or v × 2^e. -/
abbrev Addend := Option (Int × Int)

/-- The exact product of two operands (R54). -/
def elemMul (a b : Elem) : Addend :=
  match a, b with
  | .fin sa ma ea, .fin sb mb eb =>
    if ma = 0 || mb = 0 then some (0, 0)
    else some ((if sa != sb then -((ma * mb : Nat) : Int) else ((ma * mb : Nat) : Int)), ea + eb)
  | _, _ => none

/-! ## Quads (R55 to R59) -/

/-- V_i. -/
def Quad.val (q : Quad) (i : Nat) : Int := q.v.getD i 0

/-- Sets a flag bit. -/
def setBit16 (b : BitVec 16) (i : Nat) : BitVec 16 := b ||| BitVec.ofNat 16 (2 ^ i)

/-- Rebase of R57. -/
def Quad.rebase (q : Quad) (newE : Int) : Quad :=
  if 32767 < newE then { q with ovf := true }
  else
    let d : Int := ((2 ^ (newE - q.e).toNat : Nat) : Int)
    let lost := (List.range 16).filter (fun i => q.val i % d != 0)
    { q with stky := lost.foldl setBit16 q.stky, v := (List.range 16).map (fun i => q.val i / d), e := newE }

/-- Lead(v): ⌊log2 |v|⌋ of a nonzero v × 2^e. -/
def leadInt (v e : Int) : Int := e + ((Nat.log2 v.natAbs : Nat) : Int)

/-- The addend aligned to exponent `qe`: ⌊a / 2^qe⌋ and whether bits were lost. -/
def alignAddend (a : Int × Int) (qe : Int) : Int × Bool :=
  if qe ≤ a.2 then (a.1 * ((2 ^ (a.2 - qe).toNat : Nat) : Int), false)
  else
    let d : Int := ((2 ^ (qe - a.2).toNat : Nat) : Int)
    (a.1 / d, a.1 % d != 0)

/-- AccStep of R57. -/
def Quad.acc (q : Quad) (as' : List Addend) : Quad :=
  let nar := (List.range 16).filter (fun i => (as'.getD i (some (0, 0))).isNone)
  let q := { q with narf := nar.foldl setBit16 q.narf }
  if q.ovf then q
  else
    let live := (List.range 16).filterMap (fun i =>
      match as'.getD i (some (0, 0)) with
      | some a => if a.1 = 0 then none else some (i, a)
      | none => none)
    match live with
    | [] => q
    | first :: _ =>
      let emax := live.foldl (fun m l => max m (leadInt l.2.1 l.2.2)) (leadInt first.2.1 first.2.2)
      let q := if !q.set then { q with e := emax - 30, set := true }
               else if 30 < emax - q.e then q.rebase (emax - 30) else q
      let q := live.foldl (fun q l =>
        let (t, lost) := alignAddend l.2 q.e
        { q with v := (List.range 16).map (fun i => if i = l.1 then q.val i + t else q.val i)
                 stky := if lost then setBit16 q.stky l.1 else q.stky }) q
      if (List.range 16).any (fun i => decide (2 ^ 46 ≤ (q.val i).natAbs)) then q.rebase (q.e + 16) else q

/-- A reduction of two quads, `a` first (R58). -/
def Quad.reduce (a b : Quad) : Quad :=
  let r := a.acc ((List.range 16).map (fun i => some (if b.set then b.val i else 0, b.e)))
  { r with stky := r.stky ||| b.stky, narf := r.narf ||| b.narf, pois := r.pois ||| b.pois, ovf := r.ovf || b.ovf }

/-- Norm(q, i) of R59. Under a sticky amount a negative value is nearer to 0: 64 places below it are kept. -/
def Quad.norm (q : Quad) (i : Nat) : Lane :=
  let v := q.val i
  BitVec.ofNat 32 (
    if q.pois.getLsbD i || q.narf.getLsbD i then f32Nan
    else if !q.set || v = 0 then 0
    else if q.ovf then fmt32.inf (decide (v < 0))
    else
      let neg := decide (v < 0)
      let r :=
        if q.stky.getLsbD i && neg then fmt32.round .rne neg (v.natAbs * 2 ^ 64 - 1) (q.e - 64) true
        else fmt32.round .rne neg v.natAbs q.e (q.stky.getLsbD i)
      if r = 0x80000000 then 0 else r)

/-- The lanes of the four beats of a quad, with C_i = 0 (R55, R56). -/
def Quad.beats (q : Quad) : List (List Lane) :=
  let hdr := [BitVec.ofNat 32 (unsig 16 q.e + 2 ^ 16 * q.stky.toNat),
              BitVec.ofNat 32 (q.narf.toNat + 2 ^ 16 * q.pois.toNat),
              BitVec.ofNat 32 (b2n q.set + 2 * b2n q.ovf)]
  let body := leBytes 192 ((List.range 16).foldr (fun i n => unsig 48 (q.val i) + 2 ^ 96 * n) 0)
  (hdr ++ List.replicate 13 0) :: (List.range 3).map (fun k => bytesLanes ((body.drop (64 * k)).take 64))

/-- The quad that four beats carry; V_i = (S_i + C_i) mod 2^48 as an i48 (R56). -/
def csvQuad (beats : List (List Lane)) : Quad :=
  let h (i : Nat) : Nat := ((beats.getD 0 []).getD i 0).toNat
  let body := leNat ((beats.drop 1).flatMap laneBytes)
  { set := bitOf (h 2) 0, ovf := bitOf (h 2) 1, e := signed 16 (h 0), stky := BitVec.ofNat 16 (h 0 / 2 ^ 16)
    narf := BitVec.ofNat 16 (h 1), pois := BitVec.ofNat 16 (h 1 / 2 ^ 16)
    v := (List.range 16).map (fun i => signed 48 (bitsOf body (96 * i) 48 + bitsOf body (96 * i + 48) 48)) }

end Sys2Proof.Machine
end

