-- ==== Sys2Proof/Machine/FabricOps.lean ====
section
/-! DEFINITION. Configuration words (Table 3.20) and what the computing operators make of the lanes of their inputs
(R204 to R210, R214). -/

namespace Sys2Proof.Machine

/-! ## Fields of a configuration word -/

/-- OP. -/
def cfgOp (w : Nat) : Nat := bitsOf w 0 8
/-- LT: 0 F32, 1 I32, 2 N32, 3 CSV, 4 BITS. -/
def cfgLt (w : Nat) : Nat := bitsOf w 8 3
/-- RM. -/
def cfgRm (w : Nat) : Rm := rmOf (bitsOf w 11 2)
/-- SAT. -/
def cfgSat (w : Nat) : Bool := bitOf w 13
/-- MOD. -/
def cfgMod (w : Nat) : Nat := bitsOf w 14 2
/-- SELA, SELB, SELC, GUARD as inputs 0 to 3. -/
def cfgSel (w i : Nat) : Nat := if i = 3 then bitsOf w 36 4 else bitsOf w (16 + 4 * i) 4
/-- ROUTE. -/
def cfgRoute (w : Nat) : Nat := bitsOf w 28 8
/-- IT. -/
def cfgIt (w : Nat) : Bool := bitOf w 40
/-- ITK. -/
def cfgItk (w : Nat) : Nat := bitsOf w 41 2
/-- TRC. -/
def cfgTrc (w : Nat) : Bool := bitOf w 43
/-- CONST32. -/
def cfgConst (w : Nat) : Lane := BitVec.ofNat 32 (bitsOf w 48 32)
/-- AUX. -/
def cfgAux (w : Nat) : Nat := bitsOf w 80 32
/-- RHO. -/
def cfgRho (w : Nat) : Nat := bitsOf w 112 8
/-- The reserved bits of a configuration word. -/
def cfgReserved (w : Nat) : Nat := bitsOf w 120 8 + bitsOf w 44 4

/-! ## One lane -/

/-- A lane as the number that LT names. -/
def laneVal (lt a : Nat) : Int := if lt = 1 then signed 32 a else ((a % 2 ^ 32 : Nat) : Int)

/-- The range of LT, or of a target type. -/
def typeRange (lt : Nat) : Int × Int := if lt = 1 then (-(2 ^ 31), 2 ^ 31 - 1) else (0, 2 ^ 32 - 1)

/-- An integer result (R205): clamped under SAT, else reduced. -/
def intLane (w : Nat) (v : Int) : Nat :=
  unsig 32 (if cfgSat w then clampInt (typeRange (cfgLt w)).1 (typeRange (cfgLt w)).2 v else v)

/-- The truth value of a compare. -/
def truth (b : Bool) : Nat := if b then 0xFFFFFFFF else 0

/-- Leading zeros of a 32-bit pattern. -/
def clz32 (a : Nat) : Nat := if a = 0 then 32 else 31 - Nat.log2 a
/-- Ones of a 32-bit pattern. -/
def popc32 (a : Nat) : Nat := ((List.range 32).filter (bitOf a)).length

/-- Lane results of F32 operators: the operators of Table 8.5 that take F32, and R214. -/
def floatLane (w a b c : Nat) : Nat :=
  let rm := cfgRm w
  let number := !(fIsNan a || fIsNan b)
  match cfgOp w with
  | 0x01 => fAdd rm a b
  | 0x02 => fSub rm a b
  | 0x03 => fMul rm a b
  | 0x04 => fFma rm a b c
  | 0x05 => fFma rm a b (fNeg c)
  | 0x06 => fNeg a
  | 0x07 => fAbs a
  | 0x08 => fMin a b
  | 0x09 => fMax a b
  | 0x12 => truth (number && fValue a == fValue b)
  | 0x13 => truth (!(number && fValue a == fValue b))
  | 0x14 => truth (number && decide (fValue a < fValue b))
  | 0x15 => truth (number && decide (fValue a ≤ fValue b))
  | 0x16 => 2 ^ fClass a
  | 0x17 => fMin (fMax a b) c
  | 0x20 => if c ≠ 0 then fAdd rm a b else if fIsNan a then f32Nan else a
  | 0x23 => fRint rm a
  | 0x27 => fAbsDiff rm a b
  | 0x50 => fExp2 rm a
  | 0x51 => fRcp rm a
  | 0x52 => fRsq rm a
  | 0x53 => fSig rm a
  | _ => a

/-- Lane results of the integer types (Table 8.5, R205). -/
def integerLane (w a b c : Nat) : Nat :=
  let lt := cfgLt w
  let x := laneVal lt a
  let y := laneVal lt b
  let z := laneVal lt c
  match cfgOp w with
  | 0x01 => intLane w (x + y)
  | 0x02 => intLane w (x - y)
  | 0x03 => intLane w (x * y)
  | 0x04 => intLane w (x * y + z)
  | 0x05 => intLane w (x * y - z)
  | 0x06 => intLane w (-x)
  | 0x07 => intLane w (if x < 0 then -x else x)
  | 0x08 => if x ≤ y then a else b
  | 0x09 => if y ≤ x then a else b
  | 0x11 => unsig 32 (x * y / 2 ^ 32)
  | 0x12 => truth (x == y)
  | 0x13 => truth (x != y)
  | 0x14 => truth (decide (x < y))
  | 0x15 => truth (decide (x ≤ y))
  | 0x17 => if z < (if x ≤ y then y else x) then c else if x ≤ y then b else a
  | 0x20 => if c ≠ 0 then intLane w (x + y) else a
  | 0x27 => intLane w (if x < y then y - x else x - y)
  | _ => a

/-- Lane results of the operators on bit patterns (Table 8.5). -/
def bitsLane (w a b : Nat) : Nat :=
  match cfgOp w with
  | 0x0A => a &&& b
  | 0x0B => a ||| b
  | 0x0C => a ^^^ b
  | 0x0D => 2 ^ 32 - 1 - a
  | 0x0E => a * 2 ^ (b % 32) % 2 ^ 32
  | 0x0F => a / 2 ^ (b % 32)
  | 0x10 => unsig 32 (signed 32 a / 2 ^ (b % 32))
  | 0x21 => popc32 a
  | 0x22 => clz32 a
  | 0x24 => a % 2 ^ 31 + b / 2 ^ 31 * 2 ^ 31
  | _ => a

/-- CVT (R209): MOD names the target. -/
def cvtLane (w a : Nat) : Nat :=
  let lt := cfgLt w
  let dst := cfgMod w
  let r := typeRange dst
  if lt = 0 then
    if dst = 0 then (if fIsNan a then f32Nan else a) else unsig 32 (fToInt (cfgRm w) r.1 r.2 0 a)
  else if dst = 0 then fFromInt (cfgRm w) (laneVal lt a)
  else unsig 32 (clampInt r.1 r.2 (laneVal lt a))

/-! ## A token's lanes -/

/-- One step of a reduction or scan: 0 sum, 1 max, 2 min, rounded or reduced (R207). -/
def reduceStep (w kind a b : Nat) : Nat :=
  let lt := cfgLt w
  if lt = 0 then
    match kind with
    | 0 => fAdd (cfgRm w) a b
    | 1 => fMax a b
    | _ => fMin a b
  else
    let x := laneVal lt a
    let y := laneVal lt b
    match kind with
    | 0 => unsig 32 (x + y)
    | 1 => if y ≤ x then a else b
    | _ => if x ≤ y then a else b

/-- Joins the halves of a list lane by lane: the levels of the tree of R207. -/
def reduceLevel (w kind n : Nat) (v : List Nat) : List Nat :=
  (List.range n).map (fun i => reduceStep w kind (v.getD i 0) (v.getD (i + n) 0))

/-- The tree of R207: 16 lanes to 8, 4, 2, 1. -/
def reduceTree (w kind : Nat) (v : List Nat) : Nat :=
  (reduceLevel w kind 1 (reduceLevel w kind 2 (reduceLevel w kind 4 (reduceLevel w kind 8 v)))).getD 0 0

/-- s_i of RSCAN: the running value, then the lanes left. DESIGN CHOICE (log 144): s_0 is lane 0 bit for bit, a NaN of F32 too,
as R207's `s_0 = Lane(a, 0)` says, where R204 would have the canonical NaN. -/
def rscanFrom (w : Nat) : Nat → List Nat → List Nat
  | s, [] => [s]
  | s, a :: l => s :: rscanFrom w (reduceStep w (cfgMod w) s a) l

/-- The lane that SHUF's lane i takes. -/
def shufIndex (w i : Nat) : Nat :=
  match cfgMod w with
  | 0 => if i < 8 then bitsOf (cfgConst w).toNat (4 * i) 4 else bitsOf (cfgAux w) (4 * i - 32) 4
  | 1 => 15 - i
  | 2 => i ^^^ 1
  | _ => 4 * (i % 4) + i / 4

/-- h(t, j) of R208, for n bits. -/
def packField (w n a : Nat) : Nat :=
  if cfgSat w then
    let lo : Int := if cfgLt w = 1 then -((2 ^ (n - 1) : Nat) : Int) else 0
    let hi : Int := if cfgLt w = 1 then ((2 ^ (n - 1) : Nat) : Int) - 1 else ((2 ^ n : Nat) : Int) - 1
    unsig n (clampInt lo hi (laneVal (cfgLt w) a))
  else a % 2 ^ n

/-- Packs two fields a lane, `f` making 16 bits of a lane (R208, MOD 0). -/
def pack2 (f : Nat → Nat) (t : List Nat) : List Nat :=
  (List.range 8).map (fun i => f (t.getD (2 * i) 0) + 2 ^ 16 * f (t.getD (2 * i + 1) 0))

/-- Packs four fields a lane, `f` making 8 bits of a lane (R208, MOD 1). -/
def pack4 (f : Nat → Nat) (t : List Nat) : List Nat :=
  (List.range 4).map (fun i => (List.range 4).foldl (fun n j => n + 2 ^ (8 * j) * f (t.getD (4 * i + j) 0)) 0)

/-- Half (i mod 2) of lane 8H + i div 2. -/
def unpack2 (h : Nat) (t : List Nat) : List Nat :=
  (List.range 16).map (fun i => bitsOf (t.getD (8 * h + i / 2) 0) (16 * (i % 2)) 16)

/-- Byte (i mod 4) of lane 4H + i div 4. -/
def unpack4 (h : Nat) (t : List Nat) : List Nat :=
  (List.range 16).map (fun i => bitsOf (t.getD (4 * h + i / 4) 0) (8 * (i % 4)) 8)

/-- UNPK extends n bits: signs for I32, zeros for N32 and BITS (R208). -/
def unpackExt (w n a : Nat) : Nat := if cfgLt w = 1 then unsig 32 (signed n a) else a

/-- S of CVT.I8 (R210). -/
def i8Shift (w : Nat) : Int := signed 8 (cfgAux w)

/-- CVT.BF16, CVT.FP16 and CVT.I8 (R210). -/
def narrowLanes (w : Nat) (a b c : List Nat) : List Nat :=
  let rm := cfgRm w
  let f := if cfgOp w = 0x41 then fmtBf else fmt16
  if cfgOp w = 0x43 then
    if cfgMod w = 0 then
      let enc (x : Nat) : Nat := unsig 8 (fToInt rm (-128) 127 (i8Shift w) x)
      pack4 enc a ++ pack4 enc b ++ pack4 enc c ++ List.replicate 4 0
    else (unpack4 (bitsOf (cfgAux w) 8 2) a).map (fun x => fmt32.roundInt rm (signed 8 x) (i8Shift w) false)
  else if cfgMod w = 0 then pack2 (toHalf f rm) a ++ pack2 (toHalf f rm) b
  else (unpack2 (bitsOf (cfgAux w) 8 1) a).map (fromHalf f)

/-- What a computing operator emits for the lanes of inputs A, B and C. -/
def computeLanes (w : Nat) (a b c : List Nat) : List Nat :=
  let op := cfgOp w
  let lanewise (f : Nat → Nat → Nat → Nat) : List Nat :=
    (List.range 16).map (fun i => f (a.getD i 0) (b.getD i 0) (c.getD i 0))
  if op = 0x18 then List.replicate 16 (a.getD (cfgAux w % 16) 0)
  else if op = 0x19 || op = 0x1A || op = 0x1B then List.replicate 16 (reduceTree w (op - 0x19) a)
  else if op = 0x1C then (List.range 16).map (fun i => a.getD (shufIndex w i) 0)
  else if op = 0x1D then (List.range 16).map (fun i => a.getD ((i + cfgAux w % 16) % 16) 0)
  else if op = 0x1E then
    if cfgMod w = 0 then pack2 (packField w 16) a ++ pack2 (packField w 16) b
    else pack4 (packField w 8) a ++ pack4 (packField w 8) b ++ pack4 (packField w 8) c ++ List.replicate 4 0
  else if op = 0x1F then
    if cfgMod w = 0 then (unpack2 (cfgAux w % 2) a).map (unpackExt w 16)
    else (unpack4 (cfgAux w % 4) a).map (unpackExt w 8)
  else if op = 0x25 then (List.range 16).map (fun i => (a.getD 0 0 + i) % 2 ^ 32)
  else if op = 0x26 then rscanFrom w (a.getD 0 0) (a.drop 1)
  else if op = 0x40 then lanewise (fun x _ _ => cvtLane w x)
  else if 0x41 ≤ op && op ≤ 0x43 then narrowLanes w a b c
  else if (0x0A ≤ op && op ≤ 0x10) || op = 0x21 || op = 0x22 || op = 0x24 then lanewise (fun x y _ => bitsLane w x y)
  else if cfgLt w = 0 then lanewise (floatLane w)
  else lanewise (integerLane w)

/-- The operators of R206 to R210 and R214, ADD on quads apart. -/
def computes (op : Nat) : Bool := decide (1 ≤ op && op ≤ 0x27) || decide (0x40 ≤ op && op ≤ 0x43) || decide (0x50 ≤ op && op ≤ 0x53)

end Sys2Proof.Machine
end

