-- ==== Sys2Proof/Machine/Region.lean ====
section
/-! DEFINITION. Region images: their layout and the checks of the loader (R80 to R85, R193, R194, R201, R205, R209,
R211, R219, R222 to R227, R298), the site kinds of a die (R17, R18), and a region as the placer leaves it (R229, R260).
Sites are numbered W × row + col. -/

namespace Sys2Proof.Machine

/-! ## Sites of a die -/

/-- Site kinds (Table 1.3). -/
inductive SiteKind | fe | qp | sa | bf
deriving DecidableEq, Repr

/-- The pattern of Table 1.2. -/
def siteKind (col row : Nat) : SiteKind :=
  let c := col % 8
  let r := row % 8
  if (c = 0 && r % 2 = 0) || (c = 7 && r % 2 = 1) then .qp
  else if (c = 3 && r = 2) || (c = 4 && r = 5) then .sa
  else if (c = 3 && r = 0) || (c = 1 && r = 4) || (c = 6 && r = 3) || (c = 4 && r = 7) then .bf
  else .fe

/-- The neighbour in direction d of R82 order, as (column, row) over one. -/
def neighbour (col row d : Nat) : Option (Nat × Nat) :=
  let dc : Int := match d with | 1 => 1 | 2 => 1 | 3 => 1 | 5 => -1 | 6 => -1 | 7 => -1 | _ => 0
  let dr : Int := match d with | 0 => -1 | 1 => -1 | 7 => -1 | 3 => 1 | 4 => 1 | 5 => 1 | _ => 0
  let c := (col : Int) + dc
  let r := (row : Int) + dr
  if c < 0 || r < 0 then none else some (c.toNat, r.toNat)

/-- The port positions of SA0 and SA1 within a parcel (R19). -/
def saPort (sa1 : Bool) (p : Nat) : Nat × Nat := if sa1 then (7, 3 + 2 * p) else (0, 2 * p)

/-! ## The image -/

/-- A region image: extents, CFGVER, MEOS, the words of the occupied sites, the route table as written. -/
structure RegionImage where
  w : Nat
  h : Nat
  cfgver : Nat
  meos : Bool
  sites : SMap Nat
  routes : List (Nat × Nat × Nat)
deriving DecidableEq, Repr

/-- Bytes of the occupancy bitmap (R81). -/
def bitmapBytes (w h : Nat) : Nat := ((w * h + 7) / 8 + 15) / 16 * 16

/-- Bytes of the image whose header stands at the head of a list (R80, R81). -/
def imageBytes (b : List Byte) : Nat :=
  64 + bitmapBytes (blkField b 0 1) (blkField b 1 1) + 16 * blkField b 8 2 + 8 * blkField b 10 2

/-- The set bits of an image's occupancy bitmap, ascending (R81). -/
def bitmapSites (b : List Byte) : List Nat :=
  let n := blkField b 0 1 * blkField b 1 1
  (List.range n).filter (fun i => bitOf (blkField b 64 (bitmapBytes (blkField b 0 1) (blkField b 1 1))) i)

/-- An image as its bytes stand, with no check made: what the admission test of R253 and the placer look at (R260). -/
def rawImage (b : List Byte) : RegionImage :=
  let words := 64 + bitmapBytes (blkField b 0 1) (blkField b 1 1)
  let rts := words + 16 * blkField b 8 2
  { w := blkField b 0 1, h := blkField b 1 1, cfgver := blkField b 4 4, meos := bitOf (blkField b 12 4) 0
    sites := (bitmapSites b).zip ((List.range (blkField b 8 2)).map (fun i => blkField b (words + 16 * i) 16))
    routes := (List.range (blkField b 10 2)).map (fun i =>
      (blkField b (rts + 8 * i) 1, blkField b (rts + 8 * i + 1) 1, blkField b (rts + 8 * i + 2) 1)) }

/-- The layout of R80, R81 and R83; `none` where it is CFGBAD. DEDUCED (log 119): a nonzero bit or byte of the padding
that R81 gives the occupancy bitmap is CFGBAD as a reserved one is, though R85 does not name it. -/
def parseImage (b : List Byte) : Option RegionImage :=
  let w := blkField b 0 1
  let h := blkField b 1 1
  let nel := blkField b 8 2
  let nrt := blkField b 10 2
  let pad := bitmapBytes w h
  let rts := 64 + pad + 16 * nel
  if w = 0 || decide (48 < w) || h = 0 || decide (32 < h) || blkField b 2 2 != 1 || blkField b 12 4 / 2 != 0
      || blkField b 16 48 != 0 || decide (256 < nrt) || blkField b 64 pad / 2 ^ (w * h) != 0
      || (bitmapSites b).length != nel || nel = 0
      || (List.range nrt).any (fun i => blkField b (rts + 8 * i + 3) 5 != 0) then none
  else some (rawImage b)

/-! ## Checks on one word -/

/-- What an operator's row asks: site kind, lane types (bits), MOD values (bits), required inputs and optional inputs
(bits of A, B, C), AUX bits used, whether SAT is admitted with an integer type, sink. -/
structure OpRow where
  site : SiteKind
  lts : Nat
  mods : Nat
  req : Nat
  opt : Nat
  aux : Nat
  sat : Bool
  sink : Bool
deriving DecidableEq, Repr

/-- Lane types F32 I32 N32. -/
def ltNum : Nat := 7
/-- I32 N32 BITS. -/
def ltLog : Nat := 2 + 4 + 16
/-- All but CSV. -/
def ltNoCsv : Nat := 1 + 2 + 4 + 16
/-- Every lane type. -/
def ltAny : Nat := 31

/-- The rows of Tables 3.23, 8.5, 8.7, 8.10, 8.11 and of R208 to R228; MOD decides some inputs and AUX bits. -/
def opRow (w : Nat) : Option OpRow :=
  let fe (lts req : Nat) (sat : Bool) : Option OpRow := some ⟨.fe, lts, 1, req, 0, 0, sat, false⟩
  let ctl (lts req opt : Nat) : Option OpRow := some ⟨.fe, lts, 3, req, opt, 0, false, false⟩
  let enc := cfgMod w = 0
  match cfgOp w with
  | 0x01 => fe (ltNum + 8) 3 true
  | 0x02 => fe ltNum 3 true
  | 0x03 => fe ltNum 3 true
  | 0x04 => fe ltNum 7 true
  | 0x05 => fe ltNum 7 true
  | 0x06 => fe ltNum 1 true
  | 0x07 => fe ltNum 1 true
  | 0x08 => fe ltNum 3 false
  | 0x09 => fe ltNum 3 false
  | 0x0A => fe ltLog 3 false
  | 0x0B => fe ltLog 3 false
  | 0x0C => fe ltLog 3 false
  | 0x0D => fe ltLog 1 false
  | 0x0E => fe ltLog 3 false
  | 0x0F => fe ltLog 3 false
  | 0x10 => fe ltLog 3 false
  | 0x11 => fe 6 3 false
  | 0x12 => fe ltNum 3 false
  | 0x13 => fe ltNum 3 false
  | 0x14 => fe ltNum 3 false
  | 0x15 => fe ltNum 3 false
  | 0x16 => fe 1 1 false
  | 0x17 => fe ltNum 7 false
  | 0x18 => some ⟨.fe, ltNoCsv, 1, 1, 0, 15, false, false⟩
  | 0x19 => fe ltNum 1 false
  | 0x1A => fe ltNum 1 false
  | 0x1B => fe ltNum 1 false
  | 0x1C => some ⟨.fe, ltNoCsv, 15, 1, 0, if enc then 2 ^ 32 - 1 else 0, false, false⟩
  | 0x1D => some ⟨.fe, ltNoCsv, 1, 1, 0, 15, false, false⟩
  | 0x1E => some ⟨.fe, ltLog, 3, if enc then 3 else 7, 0, 0, true, false⟩
  | 0x1F => some ⟨.fe, ltLog, 3, 1, 0, if enc then 1 else 3, false, false⟩
  | 0x20 => fe ltNum 7 true
  | 0x21 => fe ltLog 1 false
  | 0x22 => fe ltLog 1 false
  | 0x23 => fe 1 1 false
  | 0x24 => fe 17 3 false
  | 0x25 => fe 6 1 false
  | 0x26 => some ⟨.fe, ltNum, 7, 1, 0, 0, false, false⟩
  | 0x27 => fe ltNum 3 true
  | 0x40 => some ⟨.fe, ltNum, 7, 1, 0, 0, false, false⟩
  | 0x41 => some ⟨.fe, 1, 3, if enc then 3 else 1, 0, if enc then 0 else 256, false, false⟩
  | 0x42 => some ⟨.fe, 1, 3, if enc then 3 else 1, 0, if enc then 0 else 256, false, false⟩
  | 0x43 => some ⟨.fe, 1, 3, if enc then 7 else 1, 0, if enc then 255 else 1023, false, false⟩
  | 0x48 => some ⟨.fe, 1, 3, 1, 0, if enc then 511 else 255, false, false⟩
  | 0x50 => fe 1 1 false
  | 0x51 => fe 1 1 false
  | 0x52 => fe 1 1 false
  | 0x53 => fe 1 1 false
  | 0x60 => ctl ltNoCsv 7 0
  | 0x61 => some ⟨.fe, ltAny, 3, 3, 0, 255, false, false⟩
  | 0x62 => ctl ltAny 7 0
  | 0x63 => ctl ltAny 5 2
  | 0x64 => ctl ltAny 3 0
  | 0x65 => some ⟨.fe, 4, 1, 0, 3, 65535, false, false⟩
  | 0x66 => ctl ltAny 3 0
  | 0x67 => some ⟨.fe, ltAny, 1, 1, 0, 0, false, true⟩
  | 0x68 => ctl ltAny 3 0
  | 0x69 => ctl ltNoCsv 3 0
  | 0x6A => some ⟨.fe, ltAny, 1, 0, 1, 0, false, false⟩
  | 0x80 => some ⟨.qp, ltAny, 1, 0, 0, 63, false, false⟩
  | 0x81 => some ⟨.qp, ltAny, 3, 1, 0, 63, false, true⟩
  | 0x82 => some ⟨.qp, ltAny, 3, 1, 0, 63, false, true⟩
  | 0x83 => some ⟨.qp, ltAny, 1, 1, 0, 63, false, false⟩
  | 0x90 => some ⟨.bf, ltAny, 1, 1, 0, 63, false, false⟩
  | 0x91 => some ⟨.bf, ltAny, 1, 1, 0, 7, false, false⟩
  | 0xA0 => some ⟨.sa, ltAny, 1, 0, 0, 65535, false, false⟩
  | 0xA1 => some ⟨.fe, 16, 1, 1, 0, 255, false, true⟩
  | 0xA2 => some ⟨.fe, 8, 3, 0, 0, 63, false, false⟩
  | 0xA3 => some ⟨.fe, 8, 1, 1, 0, 0, false, false⟩
  | 0xC0 => some ⟨.fe, ltAny, 3, 1, 0, 255, false, true⟩
  | 0xC1 => some ⟨.fe, ltAny, 3, 1, 0, 255, false, true⟩
  | _ => none

/-- Whether RM may name a rounding mode: on F32 lanes of an operator that rounds, and on CVT between F32 and an integer
type (R201, R204, R205, R209, R210, R214). DEDUCED (log 120): a mode of such an operator that does not round admits RM
too, since R201 speaks of fields an operator leaves unused. -/
def usesRm (w : Nat) : Bool :=
  let op := cfgOp w
  if cfgLt w = 0 then
    (1 ≤ op && op ≤ 5) || op = 0x19 || op = 0x20 || op = 0x23 || op = 0x26 || op = 0x27
      || (0x40 ≤ op && op ≤ 0x43) || (0x50 ≤ op && op ≤ 0x53)
  else op = 0x40 && cfgMod w = 0

/-- The guard is admitted (R85, R223). -/
def guardOp (op : Nat) : Bool := op = 0x81 || op = 0x82 || op = 0xC0 || op = 0xC1

/-- SABLK's formats (R225). -/
def saFormatsOk (aux : Nat) : Bool :=
  let a := bitsOf aux 0 8
  let b := bitsOf aux 8 8
  [1, 2, 3, 4, 5, 6, 8].contains a && [1, 2, 5, 6, 8].contains b && ((a = 5 || a = 6) == (b = 5 || b = 6))

/-- The field checks of R85 on one word. -/
def wordOk (w : Nat) : Bool :=
  if cfgOp w = 0 then
    -- an empty site uses no field but CONST32 (R201)
    bitsOf w 8 40 == 0 && bitsOf w 80 48 == 0
  else
    match opRow w with
    | none => false
    | some row =>
      let op := cfgOp w
      let aux := cfgAux w
      let alt := if op = 0x61 then aux % 256 else 0
      cfgReserved w == 0
        && bitOf row.lts (cfgLt w) && bitOf row.mods (cfgMod w)
        && (List.range 4).all (fun i => decide (cfgSel w i ≤ 10))
        && (List.range 3).all (fun i =>
              if cfgSel w i = 0 then !bitOf row.req i else bitOf row.req i || bitOf row.opt i)
        && cfgItk w == 0 && (!cfgIt w || cfgRoute w != 0 || alt != 0)
        && (cfgSel w 3 == 0 || (guardOp op && decide (cfgSel w 3 ≤ 8)))
        && (!cfgSat w || (row.sat && (cfgLt w == 1 || cfgLt w == 2)))
        && (usesRm w || bitsOf w 11 2 == 0)
        && (if row.sink || op = 0xA0 then cfgRoute w == 0
            else if op = 0x61 then cfgRoute w != 0 || alt != 0 else cfgRoute w != 0)
        && ((cfgRho w != 0) == (op == 0x91))
        && aux &&& row.aux == aux
        && (match op with
            | 0x48 => decide (1 ≤ aux % 256) && decide (aux % 256 ≤ 8)
            | 0x65 => aux % 256 != 0 && cfgSel w 0 != 9 && cfgSel w 0 != 10
            | 0xA0 => saFormatsOk aux
            | 0xA1 => bitsOf aux 6 2 != 3
            | _ => true)

/-! ## Links -/

/-- Where a site's word comes from: a region's or an image's. -/
abbrev WordAt := Nat → Option Nat

/-- The column and row of a site number. -/
def siteCol (w i : Nat) : Nat := i % w
/-- The row of a site number. -/
def siteRow (w i : Nat) : Nat := i / w

/-- The directions of a site's output links: the ROUTE mask, and STEER's second set (R192, R216). -/
def outMask (cfg : Nat) : Nat := cfgRoute cfg ||| (if cfgOp cfg = 0x61 then cfgAux cfg % 256 else 0)

/-- The link that selector d (1 to 8) of site i names: of a ROUTE site whose far copy arrives there from that
direction (R224), else of the neighbour, whose route mask must reach back (R192). `far` lists the ROUTE sites with the
site they reach. -/
def linkFor (w h : Nat) (at' : WordAt) (far : List (Nat × Nat)) (i d : Nat) : Option Nat :=
  let back := far.find? (fun f => f.2 == i && (match at' f.1 with | some c => cfgAux c % 8 == d - 1 | none => false))
  match back with
  | some f => some (9 * f.1 + 8)
  | none =>
    match neighbour (siteCol w i) (siteRow w i) (d - 1) with
    | none => none
    | some (c, r) =>
      if w ≤ c || h ≤ r then none
      else
        match at' (w * r + c) with
        | none => none
        | some cfg => if bitOf (outMask cfg) ((d + 3) % 8) then some (9 * (w * r + c) + (d + 3) % 8) else none

/-- A ROUTE site with the site of the w × h region that its destination (c, r) names, when it lies inside. -/
def farSite (w h i c r : Nat) : Option (Nat × Nat) := if c < w && r < h then some (i, w * r + c) else none

/-- The ROUTE sites of an image placed at base (bc, br) with the sites of the region their entries name: a kind-0 entry
counts at base (0, 0), a kind-1 entry names a die site (R83, R224). -/
def RegionImage.far (m : RegionImage) (bc br : Nat) : List (Nat × Nat) :=
  m.sites.filterMap (fun e =>
    if cfgOp e.2 = 0x91 then
      (m.routes[cfgRho e.2 - 1]?).bind (fun r =>
        if r.2.2 = 0 then farSite m.w m.h e.1 r.1 r.2.1
        else if bc ≤ r.1 && br ≤ r.2.1 then farSite m.w m.h e.1 (r.1 - bc) (r.2.1 - br) else none)
    else none)

/-! ## The graph (R194) -/

/-- Sites left after those with no edge from a remaining site are taken away, round by round. -/
def peelGraph (edges : List (Nat × Nat)) : Nat → List Nat → List Nat
  | 0, ns => ns
  | fuel + 1, ns =>
    let held := edges.filter (fun e => ns.contains e.1)
    let rest := ns.filter (fun n => held.any (fun e => e.2 == n))
    if rest.length = ns.length then ns else peelGraph edges fuel rest

/-- The edges that hold no initial token: links and SELF registers without IT, b of CARRY left out (R194). -/
def RegionImage.edges (m : RegionImage) (far : List (Nat × Nat)) : List (Nat × Nat) :=
  let at' := SMap.find m.sites
  m.sites.flatMap (fun e => (List.range 4).filterMap (fun x =>
    let sel := cfgSel e.2 x
    if sel = 0 || sel = 9 || (cfgOp e.2 = 0x63 && x = 1) then none
    else if sel = 10 then (if cfgIt e.2 then none else some (e.1, e.1))
    else
      match linkFor m.w m.h at' far e.1 sel with
      | none => none
      | some l => if cfgIt ((at' (l / 9)).getD 0) then none else some (l / 9, e.1)))

/-! ## Checks on the whole image -/

/-- The SA sites of an image in order: the position in this list is the region-local index (R225). -/
def RegionImage.saSites (m : RegionImage) : List (Nat × Nat) := m.sites.filter (fun e => cfgOp e.2 == 0xA0)

/-- Two sites lie in one parcel of the image at base (0, 0). -/
def sameParcel (w i j : Nat) : Bool :=
  siteCol w i / 8 == siteCol w j / 8 && siteRow w i / 8 == siteRow w j / 8

/-- The checks of SAFEED and SAREAD (R226, R298). -/
def RegionImage.saOk (m : RegionImage) (e : Nat × Nat) : Bool :=
  let op := cfgOp e.2
  if op != 0xA1 && op != 0xA2 then true
  else
    match m.saSites[cfgAux e.2 % 64]? with
    | none => false
    | some sa =>
      sameParcel m.w e.1 sa.1
        && (if op = 0xA2 then
              ((m.sites.filter (fun f => cfgOp f.2 == 0xA2 && cfgAux f.2 % 64 == cfgAux e.2 % 64)).length == 1)
            else
              let d := cfgSel e.2 0
              let port := saPort (siteRow m.w sa.1 % 8 == 5) (bitsOf (cfgAux e.2) 6 2)
              decide (1 ≤ d) && decide (d ≤ 8)
                && (match neighbour (siteCol m.w e.1) (siteRow m.w e.1) (d - 1) with
                    | some (c, r) => c % 8 == port.1 && r % 8 == port.2 && sameParcel m.w (m.w * r + c) sa.1
                    | none => false))

/-- The checks of R85 on an image at base (bc, br), but for the queue bindings of R222. The base matters only to fixed
route entries: the reach and cycle tests count their links where they arrive there (log 79). -/
def RegionImage.ok (m : RegionImage) (bc br : Nat) : Bool :=
  let at' := SMap.find m.sites
  let far := m.far bc br
  m.routes.all (fun r => decide (r.2.2 ≤ 1) && (r.2.2 == 1 || (decide (r.1 < m.w) && decide (r.2.1 < m.h))))
    && m.sites.all (fun e =>
      wordOk e.2 && decide (cfgRho e.2 ≤ m.routes.length)
        && (match opRow e.2 with
            | some row => cfgOp e.2 == 0 || row.site == siteKind (siteCol m.w e.1) (siteRow m.w e.1)
            | none => true)
        && (List.range 4).all (fun x =>
              let sel := cfgSel e.2 x
              sel = 0 || decide (9 ≤ sel) || (linkFor m.w m.h at' far e.1 sel).isSome)
        && m.saOk e)
    && (peelGraph (m.edges far) m.sites.length (m.sites.map (fun e => e.1))).isEmpty

/-- Port operators name entries of the right end, direction and kind (R222, R256). `ent e` is (ENDS, DIR IN, BOQ) of
queue-table entry e; with ENDS 3 DIR is the region's own (R255). -/
def RegionImage.portsOk (m : RegionImage) (ent : Nat → Option (Nat × Bool × Bool)) : Bool :=
  m.sites.all (fun e =>
    let op := cfgOp e.2
    if op < 0x80 || 0x83 < op then true
    else
      match ent (cfgAux e.2 % 64) with
      | none => false
      | some (ends, inward, boq) =>
        let pops := op = 0x80 || op = 0x83
        (ends == 0 || ends == 3) && boq == (op == 0x82)
          && (if ends = 0 then inward == !pops else inward == pops))

/-! ## Placement -/

/-- The image fits at a base: site kinds and kind-1 entries (R260), within the die. -/
def RegionImage.fits (m : RegionImage) (bc br : Nat) : Bool :=
  decide (bc + m.w ≤ 48) && decide (br + m.h ≤ 32)
    && m.sites.all (fun e =>
        let c := siteCol m.w e.1
        let r := siteRow m.w e.1
        cfgOp e.2 == 0 || siteKind c r == siteKind (c + bc) (r + br))
    && m.routes.all (fun r => r.2.2 != 1 || (decide (bc ≤ r.1) && decide (r.1 < bc + m.w)
                                           && decide (br ≤ r.2.1) && decide (r.2.1 < br + m.h)))

/-- The initial token of a site: one DATA token of CONST32 (R193). -/
def initToken (cfg : Nat) : Token := ⟨.data, List.replicate 16 (cfgConst cfg), false, none, 0⟩

/-- Whether the site reads its SELF register. -/
def usesSelf (cfg : Nat) : Bool := (List.range 3).any (fun i => cfgSel cfg i == 10)

/-- A site as the placer leaves it: a CTR with SELA NONE stands at the start of its activation (R219), and SELF holds
its initial token under IT. -/
def Site.place (cfg : Nat) : Site :=
  let alone := cfgOp cfg = 0x65 && cfgSel cfg 0 = 0
  { cfg := cfg, sub := if alone then 1 else 0, fsp := cfgOp cfg == 0x65, k := 0, n := if alone then (cfgConst cfg).toNat else 0
    self := if cfgIt cfg && usesSelf cfg then some (initToken cfg) else none, reload := false, held := [], buf := [], outq := [], beat := 0
    choice := 0, last := none, emitted := 0, sawEos := false, ue := false, fired := none, shots := 0 }

/-- An SA block as the placer leaves it (R229). -/
def Sa.place (index afmt bfmt : Nat) (reader eosAfter : Bool) : Sa :=
  { index := index, afmt := afmt, bfmt := bfmt, reader := reader, eosAfter := eosAfter, queue := [], n := 0, ablk := []
    rowK := [], load := 0, loadErr := none, quad := 0, beat := 0, eosDue := false, port0 := [], port1 := [], port2 := []
    acc := [], pair := .idle, pairSince := 0, pairN := 0, pairCancel := [], pairErr := [], firstErr := none, accUe := [] }

/-- The keys of a site's output links: its directions, and 8 for ROUTE's far copy. -/
def outKeys (i cfg : Nat) : List Nat :=
  ((List.range 8).filter (fun d => bitOf (outMask cfg) d)).map (fun d => 9 * i + d)
    ++ (if cfgOp cfg = 0x91 then [9 * i + 8] else [])

/-- The index among the die's SA blocks of a die site: two to a parcel (R17, R18). -/
def dieSaIndex (col row : Nat) : Nat := 2 * (6 * (row / 8) + col / 8) + (if row % 8 = 5 then 1 else 0)

/-- The region of an image at a base (R229, R260): no token of it has moved yet (R265). -/
def RegionImage.place (m : RegionImage) (bc br regno : Nat) : Region :=
  let reader (k : Nat) : Option (Nat × Nat) := m.sites.find? (fun f => cfgOp f.2 == 0xA2 && cfgAux f.2 % 64 == k)
  let sas := m.saSites
  { w := m.w, h := m.h, bc := bc, br := br, cfgver := m.cfgver, meos := m.meos, regno := regno
    sites := m.sites.map (fun e => (e.1, Site.place e.2))
    links := m.sites.flatMap (fun e => if cfgIt e.2 then (outKeys e.1 e.2).map (fun k => (k, [initToken e.2])) else [])
    freed := []
    routes := m.routes.map (fun r => if r.2.2 = 0 then (r.1 + bc, r.2.1 + br) else (r.1, r.2.1))
    sem := [], cb := []
    sas := (sas.zip (List.range sas.length)).map (fun x =>
      let rd := reader x.2
      Sa.place (dieSaIndex (siteCol m.w x.1.1 + bc) (siteRow m.w x.1.1 + br)) (bitsOf (cfgAux x.1.2) 0 8)
        (bitsOf (cfgAux x.1.2) 8 8) rd.isSome (match rd with | some f => cfgMod f.2 == 1 | none => false))
    mbcnt := 0, fault := 0, sealed := false, moved := none, stopped := false }

end Sys2Proof.Machine
end

