-- ==== Sys2Proof/Machine/SaOps.lean ====
section
/-! DEFINITION. The SA blocks of a region: command words (Tables 3.17 and 3.18), semaphores and completion barriers
(R229 to R231), how a command completes or is cancelled (R230, R232, R238, R241), the accumulation of one K-block
(R235), poisoning (R239) and the quads of a read (R227, R301). -/

namespace Sys2Proof.Machine

/-! ## Command words -/

/-- MOP. -/
def mcMop (w : Nat) : Nat := bitsOf w 0 4
/-- ACC as 0 or 1. -/
def mcAcc (w : Nat) : Nat := bitsOf w 4 1
/-- WEN. -/
def mcWen (w : Nat) : Bool := bitOf w 5
/-- SEN. -/
def mcSen (w : Nat) : Bool := bitOf w 6
/-- SA. -/
def mcSa (w : Nat) : Nat := bitsOf w 8 6
/-- WSEM. -/
def mcWsem (w : Nat) : Nat := bitsOf w 16 4
/-- SSEM. -/
def mcSsem (w : Nat) : Nat := bitsOf w 20 4
/-- WVAL. -/
def mcWval (w : Nat) : Nat := bitsOf w 24 16
/-- BOFF. -/
def mcBoff (w : Nat) : Nat := bitsOf w 40 8
/-- The completion barrier of an MBAR. -/
def mcBar (w : Nat) : Nat := bitsOf w 40 4
/-- ROW of an MRDDIAG. -/
def mcRow (w : Nat) : Nat := bitsOf w 40 7
/-- NBLK of an MLOADB. -/
def mcNblk (w : Nat) : Nat := bitsOf w 48 8 + 1
/-- APM. -/
def mcApm (w : Nat) : Nat := bitsOf w 48 3
/-- KB. -/
def mcKb (w : Nat) : Nat := bitsOf w 64 16
/-- Source GA. -/
def mcSource (w : Nat) : Nat := bitsOf w 64 56

/-- The reserved bits that Tables 3.17 and 3.18 mark are 0. -/
def mcReservedOk (w : Nat) : Bool :=
  bitsOf w 14 2 == 0 && bitsOf w 7 1 == 0
    && (match mcMop w with
        | 0 => bitsOf w 40 88 == 0
        | 1 => bitsOf w 56 8 == 0 && bitsOf w 120 8 == 0
        | 2 => bitsOf w 51 13 == 0 && bitsOf w 80 48 == 0
        | 3 => bitsOf w 51 13 == 0 && bitsOf w 80 48 == 0
        | 4 => bitsOf w 40 88 == 0
        | 5 => bitsOf w 44 84 == 0
        | 6 => bitsOf w 47 81 == 0
        | _ => false)

/-- The checks of R79, for a region of `n` SA blocks. -/
def mcOk (w n : Nat) : Bool :=
  mcReservedOk w && decide (mcSa w < n)
    && ((mcMop w != 2 && mcMop w != 3) || (mcKb w != 0 && mcApm w != 0))
    && (mcMop w != 1 || decide (mcBoff w + mcNblk w ≤ 256))

/-- The ports an A-port mask selects, in the order of R19. -/
def apmPorts (apm : Nat) : List Nat := (List.range 3).filter (bitOf apm)

/-! ## Parts of a region -/

/-- SA block k of a region. -/
def Region.sa (r : Region) (k : Nat) : Option Sa := r.sas[k]?
/-- Replaces SA block k. -/
def Region.setSa (r : Region) (k : Nat) (a : Sa) : Region := { r with sas := listSet r.sas k a }
/-- Changes SA block k. -/
def Region.modSa (r : Region) (k : Nat) (f : Sa → Sa) : Region :=
  match r.sa k with
  | some a => r.setSa k (f a)
  | none => r

/-- The other SA block of the same parcel, when it belongs to the region (R237). -/
def Region.partner (r : Region) (k : Nat) : Option (Nat × Sa) :=
  match r.sa k with
  | none => none
  | some a => ((List.range r.sas.length).zip r.sas).find? (fun e => e.1 != k && e.2.index / 2 == a.index / 2)

/-- COUNT and ABT of a semaphore (Table 9.1). -/
def Region.semOf (r : Region) (i : Nat) : Nat × Bool := SMap.getD r.sem i (0, false)
/-- The records of a completion barrier, oldest first (R231). -/
def Region.cbOf (r : Region) (b : Nat) : List Nat := SMap.getD r.cb b []
/-- What stands on the path to a port of an SA block. -/
def Sa.port (a : Sa) : Nat → List Token | 0 => a.port0 | 1 => a.port1 | _ => a.port2
/-- Replaces it. -/
def Sa.setPort (a : Sa) (p : Nat) (ts : List Token) : Sa :=
  match p with
  | 0 => { a with port0 := ts }
  | 1 => { a with port1 := ts }
  | _ => { a with port2 := ts }

/-- A quad of an accumulator. -/
def Sa.quadAt (a : Sa) (bank row j : Nat) : Quad := SMap.getD a.acc ((128 * bank + row) * 8 + j) Quad.zero

/-- Whether a command is ready by its semaphore (R230). -/
def Region.readyBy (r : Region) (w : Nat) : Bool :=
  !mcWen w || decide (((r.semOf (mcWsem w)).1 + 2 ^ 16 - mcWval w) % 2 ^ 16 < 2 ^ 15)

/-- Whether ABT turns a ready command away (R230). -/
def Region.abtFor (r : Region) (w : Nat) : Bool := mcWen w && (r.semOf (mcWsem w)).2

/-! ## Completion -/

/-- The signal of a completed command (R230): `bad` when it completed in ERR or CANCEL. -/
def Region.signal (r : Region) (w : Nat) (bad : Bool) : Region :=
  if mcSen w then
    let (n, abt) := r.semOf (mcSsem w)
    { r with sem := SMap.set r.sem (mcSsem w) ((n + 1) % 2 ^ 16, abt || bad) }
  else r

/-- A phase of R232: 0 OK, 1 ERR with a cause and a K-block, 2 CANCEL. -/
inductive Phase
  | ok
  | err (code kstep : Nat)
  | cancel
deriving DecidableEq, Repr

/-- The error kept for the next MBAR when the command at place `i` completes: of several commands in error the first in
queue order (R234, R238). -/
def keptErr (e : Option SaErr) (i mop : Nat) (ph : Phase) : Option SaErr :=
  let new : Option SaErr := match ph with | .err code kstep => some ⟨i, code, kstep, mop⟩ | _ => none
  match e with
  | none => new
  | some k => if i < k.ahead then (if new.isSome then new else some { k with ahead := k.ahead - 1 }) else some k

/-- The command at place `i` of SA k's queue completes: it leaves the queue, the first error is kept for the next MBAR,
and it signals. -/
def Region.complete (r : Region) (k i : Nat) (ph : Phase) : Region :=
  match r.sa k with
  | none => r
  | some a =>
    match a.queue[i]? with
    | none => r
    | some c =>
      (r.setSa k { a with queue := listDrop a.queue i, firstErr := keptErr a.firstErr i (mcMop c.w) ph }).signal c.w (ph != .ok)

/-- A completion record (Table 9.2). -/
def cbRecord (kstep mop sa code ph : Nat) : Nat := kstep * 2 ^ 32 + mop * 2 ^ 24 + sa * 2 ^ 16 + code * 2 ^ 8 + ph

/-- The record an MBAR of SA k enters (R238). -/
def mbarRecord (a : Sa) (k : Nat) (cancelled : Bool) : Nat :=
  match a.firstErr with
  | some e => cbRecord e.kstep e.mop k e.code 1
  | none => cbRecord 0 0 k 0 (if cancelled then 2 else 0)

/-- The MBAR at place `i` enters its record and completes, when its barrier has room (R238); else it stays, marked cancelled if it is
(R241). A cancelled one enters even while an earlier MBAR of its queue still stands: the errors so far are that one's, and no command
behind it has run. -/
def Region.enterRecord (r : Region) (k i : Nat) (cancelled : Bool) : Region :=
  match r.sa k with
  | none => r
  | some a =>
    match a.queue[i]? with
    | none => r
    | some c =>
      let b := mcBar c.w
      let first := (a.queue.take i).all (fun e => mcMop e.w != 5)
      if (r.cbOf b).length < 4 && (first || cancelled) then
        let rec' := if first then mbarRecord a k cancelled else cbRecord 0 0 k 0 2
        let r := { r with cb := SMap.set r.cb b (r.cbOf b ++ [rec']) }
        (r.modSa k (fun a => if first then { a with firstErr := none } else a)).complete k i (if cancelled then .cancel else .ok)
      else if cancelled then r.setSa k { a with queue := listSet a.queue i { c with cancelled := true } }
      else r

/-- R = L_A / L_B: the B blocks of a column per K-block (R235). -/
def Sa.blocksPer (a : Sa) : Nat := blkLogical a.afmt / blkLogical a.bfmt

/-- A B block of a column that a started MMUL has still to read (R234). -/
def Sa.stillReads (a : Sa) (w blk : Nat) : Bool :=
  (List.range ((mcKb w - a.n / 128) * a.blocksPer)).any (fun i => (mcBoff w + a.n / 128 * a.blocksPer + i) % 256 == blk)

/-- A later command may run beside an earlier one of the same queue: an MZERO, MMUL or MMULP of the other bank or an
MLOADB beside a started read, an MLOADB beside a started multiply that reads none of its blocks any more (R234,
R294). One that waits on the semaphore the earlier one signals does not. -/
def Sa.overlapOk (a : Sa) (e l : SaCmd) : Bool :=
  let op := mcMop e.w
  if !e.started || (mcSen e.w && mcWen l.w && mcSsem e.w == mcWsem l.w) then false
  else if op = 4 || op = 6 then
    mcMop l.w == 1 || ((mcMop l.w == 0 || mcMop l.w == 2 || mcMop l.w == 3) && mcAcc l.w != mcAcc e.w)
  else if op = 2 || op = 3 then
    mcMop l.w == 1 && (List.range (mcNblk l.w)).all (fun n => !a.stillReads e.w (mcBoff l.w + n))
  else false

/-- The command at place `i` stands at the head of its queue, or only behind commands it may overlap. -/
def Sa.mayRun (a : Sa) (i : Nat) : Bool :=
  match a.queue[i]? with
  | some l => (a.queue.take i).all (fun e => a.overlapOk e l)
  | none => false

/-- The first command of an opcode that may run: its place and the command. -/
def Sa.runnable (a : Sa) (mop : Nat) : Option (Nat × SaCmd) :=
  ((List.range a.queue.length).zip a.queue).find? (fun e => mcMop e.2.w == mop && a.mayRun e.1)

/-- A command not yet marked ready is marked when it stands where it may run and its semaphore allows it: with the fc,
and with ABT as it is at that moment (R230). -/
def Region.markReady (r : Region) (fc : Nat) (a : Sa) (i : Nat) (c : SaCmd) : SaCmd :=
  if c.started || c.cancelled || c.ready.isSome || !r.readyBy c.w || !a.mayRun i then c
  else { c with ready := some (r.abtFor c.w, fc) }

/-- Every command that became ready with the last change of the region is marked. -/
def Region.noteReady (r : Region) (fc : Nat) : Region :=
  { r with sas := r.sas.map (fun a =>
      { a with queue := ((List.range a.queue.length).zip a.queue).map (fun e => r.markReady fc a e.1 e.2) }) }

/-- The fc in which a command became ready. -/
def SaCmd.readyAt (c : SaCmd) : Nat := match c.ready with | some e => e.2 | none => 0

/-- It met ABT when it became ready (R230). -/
def SaCmd.abt (c : SaCmd) : Bool := match c.ready with | some e => e.1 | none => false

/-- A half stands ready without ABT, and its timer of 65,536 fc had expired by an fc (R237). -/
def SaCmd.expiredBy (c : SaCmd) (fc : Nat) : Bool := c.ready.isSome && !c.abt && decide (c.readyAt + 65536 ≤ fc)

/-- The second of two halves stood ready only when the timer of the first had expired (R237). -/
def pairLate (x y : SaCmd) : Bool := x.expiredBy y.readyAt || y.expiredBy x.readyAt

/-- The place of the MMULP with pair number n when it stands ready (R300), be it with ABT. -/
def Sa.pairPlace (a : Sa) (n : Nat) : Option Nat :=
  match a.queue.findIdx? (fun c => c.num == some n && !c.started && c.ready.isSome) with
  | some i => if a.mayRun i then some i else none
  | none => none

/-- The half of a pair in the other SA of the parcel when it stands ready: the SA, its place and the command. -/
def Region.otherHalf (r : Region) (k : Nat) (c : SaCmd) : Option (Nat × Nat × SaCmd) :=
  match r.partner k with
  | none => none
  | some (j, o) => (o.pairPlace (c.num.getD 0)).bind (fun p => (o.queue[p]?).map (fun q => (j, p, q)))

/-- The partner of an MMULP stood ready before the timer reached 65,536 fc: what it found there decides, not the timer. -/
def Region.pairMet (r : Region) (k : Nat) (c : SaCmd) : Bool :=
  match r.otherHalf k c with
  | some (_, _, q) => !pairLate c q
  | none => false

/-- A command is started (R234): it has begun, or is ready without ABT and, for an MMULP, has its partner ready too, or no SA that could
hold one. It begins at its SA's turn. -/
def Region.begun (r : Region) (k : Nat) (c : SaCmd) : Bool :=
  c.started || (c.ready.isSome && !c.abt
    && (mcMop c.w != 3 || (r.partner k).isNone
      || (match r.otherHalf k c with | some (_, _, q) => !q.abt && !pairLate c q | none => false)))

/-- The pair state of an SA follows its first MMULP: one cancelled behind it leaves the state as it is. -/
def Sa.pairAfter (a : Sa) (i : Nat) (p : PairState) : PairState :=
  if (a.queue.take i).any (fun c => mcMop c.w == 3) then a.pair else p

/-- The MMULP at place `i` of SA k completes without starting: in ERR PAIRTO or in CANCEL. -/
def Region.dropHalf (r : Region) (k i : Nat) (out : Bool) : Region :=
  (r.modSa k (fun a => { a with pair := a.pairAfter i (if out then .errd else .cand) })).complete k i
    (if out then .err 0x31 0 else .cancel)

/-- The MMULP at place `i` of SA k is cancelled, or met ABT, before it started: its partner completes in CANCEL too, at once if it
stands ready, else when it does (Table 14.4). When the timer of the pair had expired first, a half that stands ready completes in
ERR PAIRTO, and so does the other when it stands ready. -/
def Region.cancelPair (r : Region) (fc k i : Nat) : Region :=
  match r.sa k with
  | none => r
  | some a =>
    match a.queue[i]? with
    | none => r
    | some c =>
      let n := c.num.getD 0
      let other := r.otherHalf k c
      let out :=
        if a.pairErr.contains n then true
        else if a.pairCancel.contains n then false
        else match other with | some (_, _, q) => pairLate c q || (c.ready.isNone && q.expiredBy fc) | none => c.expiredBy fc
      let known := a.pairCancel.contains n || a.pairErr.contains n
      let r := (r.setSa k { a with pairCancel := a.pairCancel.erase n, pairErr := a.pairErr.erase n }).dropHalf
        k i (out && c.ready.isSome)
      if known then r
      else
        match other, r.partner k with
        | some (j, p, _), _ => r.dropHalf j p out
        | none, some (j, _) => r.modSa j (fun o =>
            if out then { o with pairErr := o.pairErr ++ [n] } else { o with pairCancel := o.pairCancel ++ [n] })
        | none, none => r

/-- A command that has not started completes in CANCEL (R230, R241, R383). -/
def Region.cancelAt (r : Region) (fc k i : Nat) : Region :=
  match (r.sa k).bind (fun a => a.queue[i]?) with
  | none => r
  | some c =>
    if mcMop c.w = 5 then r.enterRecord k i true
    else if mcMop c.w = 3 then r.cancelPair fc k i
    else r.complete k i .cancel

/-- Cancels every unstarted command of SA k's queue that `f` selects, in queue order, from place `i` on (R241). -/
def Region.cancelFrom (r : Region) (fc k : Nat) (f : SaCmd → Bool) : Nat → Nat → Region
  | 0, _ => r
  | fuel + 1, i =>
    match r.sa k with
    | none => r
    | some a =>
      match a.queue[i]? with
      | none => r
      | some c =>
        if r.begun k c || c.cancelled || !f c then r.cancelFrom fc k f fuel (i + 1)
        else
          let r' := r.cancelAt fc k i
          let stays := match r'.sa k with | some a' => a'.queue.length == a.queue.length | none => false
          r'.cancelFrom fc k f fuel (if stays then i + 1 else i)

/-! ## Accumulation and poisoning -/

/-- Every POIS bit of every quad of the rows is set (R239). -/
def Sa.poison (a : Sa) (bank : Nat) (rows : List Nat) : Sa :=
  rows.foldl (fun a i =>
    (List.range 8).foldl (fun a j =>
      { a with acc := SMap.set a.acc ((128 * bank + i) * 8 + j) { a.quadAt bank i j with pois := 0xFFFF } }) a) a

/-- MZERO (R234): every quad of the bank in the zero state. -/
def Sa.zeroBank (a : Sa) (bank : Nat) : Sa :=
  { a with acc := a.acc.filter (fun e => e.1 / 1024 != bank) }

/-- The operand elements of a block decoded at fetch (R52, R235). -/
def fetchOperand (fmt : Nat) (b : List Byte) : List Elem :=
  (blkDecode fmt b).1.map (fun v => wDecode (wWidth fmt) (wEncode (wWidth fmt) (if fmt = 7 then .nan else v)))

/-- The steps of one row for a K-block: for each logical k in order, each quad's 16 products (R57, R58, R235).
`bs` holds the decoded elements of each column. -/
def Sa.rowSteps (a : Sa) (bank row : Nat) (as' : List Elem) (bs : List (List Elem)) : Sa :=
  (List.range 8).foldl (fun a j =>
    let q := (as'.zip (List.range as'.length)).foldl (fun q e =>
      q.acc ((List.range 16).map (fun c => elemMul e.1 ((bs.getD (16 * j + c) []).getD e.2 .zero)))) (a.quadAt bank row j)
    { a with acc := SMap.set a.acc ((128 * bank + row) * 8 + j) q }) a

/-- The K-block of the blocks gathered is applied to every row that has not had it (R235, R387). -/
def Sa.applyBlock (a : Sa) (w kb : Nat) (bs : List (List Elem)) : Sa :=
  let a := a.ablk.foldl (fun a e =>
    if kb < SMap.getD a.rowK e.1 0 then a
    else { (a.rowSteps (mcAcc w) e.1 (fetchOperand a.afmt e.2) bs) with rowK := SMap.set a.rowK e.1 (kb + 1) }) a
  { a with ablk := [] }

/-- The progress of a running command is forgotten when it ends. -/
def Sa.idle (a : Sa) : Sa := { a with n := 0, ablk := [], rowK := [] }

/-- The command at place `i` of SA k, an MMUL or MMULP half, ends in ERR at a K-block: the rows that the fault reaches are
poisoned (R239). -/
def Region.failMul (r : Region) (k i code kstep : Nat) (rows : List Nat) : Region :=
  match r.sa k with
  | none => r
  | some a =>
    match a.queue[i]? with
    | none => r
    | some c =>
      (r.setSa k { (a.poison (mcAcc c.w) rows).idle with pair := if mcMop c.w = 3 then .errd else a.pair }).complete
        k i (.err code kstep)

/-- The place in SA k's queue of its started MMUL or MMULP. -/
def Sa.mulPlace (a : Sa) : Option Nat := a.queue.findIdx? (fun c => c.started && (mcMop c.w == 2 || mcMop c.w == 3))

/-- A running MMUL, or both halves of a running pair, end in ERR. -/
def Region.failRun (r : Region) (k code kstep : Nat) (rows : List Nat) : Region :=
  match r.sa k with
  | none => r
  | some a =>
    match a.mulPlace with
    | none => r
    | some i =>
      let pair := match a.queue[i]? with | some c => mcMop c.w == 3 | none => false
      let r := r.failMul k i code kstep rows
      if pair then
        match r.partner k with
        | some (j, o) =>
          (match o.mulPlace with
           | some p => r.failMul j p code kstep rows
           | none => r)
        | none => r
      else r

/-! ## Reading out -/

/-- The quad an MREAD or MRDDIAG streams (R227, R234, R301). -/
def Sa.readQuad (a : Sa) (w : Nat) (quad : Nat) : Quad :=
  let row := if mcMop w = 6 then mcRow w else quad / 8
  let q := a.quadAt (mcAcc w) row (quad % 8)
  if a.accUe.contains (128 * mcAcc w + row) then { q with pois := 0xFFFF }
  else if mcMop w = 6 then { q with pois := 0 } else q

/-- Quads of a read. -/
def readQuads (w : Nat) : Nat := if mcMop w = 6 then 8 else 1024

/-- The place in the queue of a started MREAD or MRDDIAG. -/
def Sa.readPlace (a : Sa) : Option Nat := a.queue.findIdx? (fun c => c.started && (mcMop c.w == 4 || mcMop c.w == 6))

/-! ## Sealing (R383) -/

/-- A started command other than an MMUL ends in ERR with QERR when the region is sealed. -/
def Region.sealStarted (r : Region) (k : Nat) : Nat → Region
  | 0 => r
  | fuel + 1 =>
    match r.sa k with
    | none => r
    | some a =>
      match a.queue.findIdx? (fun c => c.started && mcMop c.w != 5) with
      | none => r
      | some i => (r.complete k i (.err 0x20 0)).sealStarted k fuel

/-- Every command that is started (R234) is marked so. -/
def Region.startDue (r : Region) : Region :=
  { r with sas := ((List.range r.sas.length).zip r.sas).map (fun e =>
      { e.2 with queue := e.2.queue.map (fun c => { c with started := r.begun e.1 c }) }) }

/-- SA k of a region being sealed: a running MMUL or pair ends in ERR QERR at its current K-block, other started commands
but an MBAR in ERR QERR, unstarted ones in CANCEL. -/
def Region.sealSa (fc : Nat) (r : Region) (k : Nat) : Region :=
  match r.sa k with
  | none => r
  | some a =>
    let r := if a.mulPlace.isSome then r.failRun k 0x20 (a.n / 128) (List.range 128) else r
    let r := r.sealStarted k 16
    let r := r.modSa k (fun a => { a with port0 := [], port1 := [], port2 := [], quad := 0, beat := 0, eosDue := false
                                          load := 0, loadErr := none })
    r.cancelFrom fc k (fun _ => true) 33 0

end Sys2Proof.Machine
end

