-- ==== Sys2Proof/Machine/Firing.lean ====
section
/-! DEFINITION. How the sites of a region fire (R191 to R197, R207 to R228): what stands at an input, what a firing
takes and places, and one function per kind of operator. Each answers whether the site is idle, faults its region, or
fires, with the region after and the effects outside it. -/

namespace Sys2Proof.Machine

/-! ## Firing results -/

/-- What a firing sees outside its region: the fc, the task's queues, whether sampling runs and its interval (R397). -/
structure FireEnv where
  fc : Nat
  queues : SMap Queue
  sampling : Bool
  nth : Nat

/-- What a firing does outside its region: a token pushed to a queue entry, a queue entry popped, trace records, a
TRCNT counter, sampled tokens discarded. -/
structure FireFx where
  push : Option (Nat × Token)
  pop : Option Nat
  records : List (List Byte)
  count : Option Nat
  lost : Nat
deriving DecidableEq, Repr

/-- No effect outside. -/
def FireFx.none : FireFx := ⟨.none, .none, [], .none, 0⟩

/-- A site's answer: `fault` carries the code of Table 8.2. -/
inductive Fired
  | idle
  | fault (code : Nat)
  | done (r : Region) (fx : FireFx)
deriving DecidableEq, Repr

/-! ## Inputs and outputs -/

/-- A site. -/
def Region.site (r : Region) (i : Nat) : Option Site := SMap.find r.sites i
/-- The configuration word of a site; 0, the empty operator, where none is. -/
def Region.cfg (r : Region) (i : Nat) : Nat := match r.site i with | some s => s.cfg | none => 0
/-- Changes a site. -/
def Region.modSite (r : Region) (i : Nat) (f : Site → Site) : Region :=
  match r.site i with
  | some s => { r with sites := SMap.set r.sites i (f s) }
  | none => r

/-- The ROUTE sites of a placed region with the sites they reach (R224). -/
def Region.far (r : Region) : List (Nat × Nat) :=
  r.sites.filterMap (fun e =>
    if cfgOp e.2.cfg = 0x91 then
      (r.routes[cfgRho e.2.cfg - 1]?).bind (fun t =>
        if r.bc ≤ t.1 && r.br ≤ t.2 then farSite r.w r.h e.1 (t.1 - r.bc) (t.2 - r.br) else none)
    else none)

/-- The link that a selector of site i names. -/
def Region.link (r : Region) (i sel : Nat) : Option Nat :=
  linkFor r.w r.h (fun j => (r.site j).map (fun s => s.cfg)) r.far i sel

/-- A token has arrived where it stands (R202). -/
def Token.here (t : Token) (fc : Nat) : Bool := decide (t.arr ≤ fc)

/-- The token at input x of site i: CONST32 for K, the SELF register, or the head of a link (R193). -/
def Region.head (r : Region) (env : FireEnv) (i x : Nat) : Option Token :=
  match r.site i with
  | none => none
  | some s =>
    let sel := cfgSel s.cfg x
    if sel = 0 then none
    else if sel = 9 then some (initToken s.cfg)
    else if sel = 10 then s.self.filter (fun t => t.here env.fc)
    else
      match r.link i sel with
      | none => none
      | some l => (SMap.getD r.links l []).head?.filter (fun t => t.here env.fc)

/-- Takes the head of one link, noting the place freed in this fc (R191). -/
def Region.popLink (r : Region) (fc l : Nat) : Region :=
  let n := match SMap.find r.freed l with | some (f, n) => if f = fc then n else 0 | none => 0
  { r with links := SMap.set r.links l ((SMap.getD r.links l []).drop 1), freed := SMap.set r.freed l (fc, n + 1) }

/-- Consumes inputs: each link once, however many selectors name it (R192); SELF empties; K stays. -/
def Region.take (r : Region) (env : FireEnv) (i : Nat) (xs : List Nat) : Region :=
  let cfg := r.cfg i
  let links := (xs.filterMap (fun x => if cfgSel cfg x < 9 then r.link i (cfgSel cfg x) else none)).eraseDups
  let r := links.foldl (fun r l => r.popLink env.fc l) r
  if xs.any (fun x => cfgSel cfg x == 10) then r.modSite i (fun s => { s with self := none }) else r

/-- Room on a link at the start of the fc: two tokens, results in flight and places freed in this fc counted (R191,
R192, R202). -/
def Region.linkRoom (r : Region) (env : FireEnv) (l : Nat) : Bool :=
  let n := match SMap.find r.freed l with | some (f, n) => if f = env.fc then n else 0 | none => 0
  decide ((SMap.getD r.links l []).length + n < 2)

/-- The links of site i's ROUTE mask, and ROUTE's far copy. -/
def Region.routeKeys (r : Region) (i : Nat) : List Nat :=
  let cfg := r.cfg i
  ((List.range 8).filter (fun d => bitOf (cfgRoute cfg) d)).map (fun d => 9 * i + d)
    ++ (if cfgOp cfg = 0x91 then [9 * i + 8] else [])

/-- Room on every link of a list. -/
def Region.room (r : Region) (env : FireEnv) (keys : List Nat) : Bool := keys.all (r.linkRoom env)

/-- The result latency of an operator (Table 8.3); those the table does not list take 1 (log 15). -/
def opLatency (cfg : Nat) : Nat :=
  let op := cfgOp cfg
  let lt := cfgLt cfg
  if op = 0x01 && lt = 3 then 4
  else if (op = 0x01 || op = 0x02 || op = 0x08 || op = 0x09 || op = 0x17 || op = 0x20 || op = 0x27) && lt = 0 then 2
  else if op = 0x23 || (0x40 ≤ op && op ≤ 0x43) then 2
  else if op = 0x03 || op = 0x04 || op = 0x05 || op = 0x11 || (0x18 ≤ op && op ≤ 0x1F) || op = 0x26 then 3
  else if op = 0x48 || op = 0xA3 then 4
  else if 0x50 ≤ op && op ≤ 0x53 then 6
  else 1

/-- The latency of ROUTE's far copy: 2 + ⌈d / 8⌉, d the Chebyshev distance (Table 8.3). -/
def farLatency (r : Region) (i : Nat) : Nat :=
  match r.far.find? (fun f => f.1 == i) with
  | none => 2
  | some (_, j) =>
    let dist (a b : Nat) : Nat := if a < b then b - a else a - b
    let d := max (dist (siteCol r.w i) (siteCol r.w j)) (dist (siteRow r.w i) (siteRow r.w j))
    2 + (d + 7) / 8

/-- Places a result on links: the mark goes on the first alone (R397); the SELF register takes the result, or after EOS
its initial token (R193). -/
def Region.emit (r : Region) (env : FireEnv) (i : Nat) (keys : List Nat) (t : Token) : Region :=
  let cfg := r.cfg i
  let put (r : Region) (l : Nat) (m : Option Mark) : Region :=
    let lat := if l % 9 = 8 then farLatency r i else opLatency cfg
    { r with links := SMap.set r.links l (SMap.getD r.links l [] ++ [{ t with mark := m, arr := env.fc + lat }]) }
  let r :=
    match keys with
    | [] => r
    | l :: ls => ls.foldl (fun r l => put r l none) (put r l t.mark)
  if usesSelf cfg then
    r.modSite i (fun s =>
      { s with self := if t.kind = .eos then (if cfgIt cfg then some { initToken cfg with arr := env.fc + 1 } else none)
                       else some { t with mark := none, arr := env.fc + opLatency cfg }
               reload := t.kind == .eos })
  else r

/-! ## Sampled tokens (R397, R398) -/

/-- The site code of a site: [10:6] row and [5:0] column, die-relative. -/
def Region.siteCode (r : Region) (i : Nat) : Nat := (siteRow r.w i + r.br) * 64 + (siteCol r.w i + r.bc)

/-- A hop appended by a traced site that fires on a sampled token; a ninth sets TRUNC. -/
def Region.hop (r : Region) (env : FireEnv) (i : Nat) (t : Token) : Option Mark :=
  t.mark.map (fun m =>
    if !env.sampling || !cfgTrc (r.cfg i) || m.bsite = r.siteCode i then m
    else if m.hops.length < 8 then { m with hops := m.hops ++ [⟨r.siteCode i, t.arr, env.fc⟩] }
    else { m with trunc := true })

/-- The mark of a firing's result: of the first sampled token consumed, in the order A, B, C, guard. -/
def Region.markOf (r : Region) (env : FireEnv) (i : Nat) (ts : List Token) : Option Mark := ts.findSome? (r.hop env i)

/-- An n-bit field that saturates. -/
def satField (n v : Nat) : Nat := if v < 2 ^ n then v else 2 ^ n - 1

/-- The 16 first bytes of a record (Table 24.2). -/
def traceHead (r : Region) (kind nhop tag sink birth bsite : Nat) : List Byte :=
  leBytes 2 r.regno ++ leBytes 1 kind ++ leBytes 1 nhop ++ leBytes 4 r.cfgver ++ leBytes 4 tag ++ leBytes 4 sink
    ++ leBytes 6 birth ++ leBytes 2 bsite

/-- The record of a sampled token that sink i consumes. -/
def sampleRecord (r : Region) (i : Nat) (t : Token) (m : Mark) : List Byte :=
  let hops := (List.range 8).flatMap (fun k =>
    match m.hops[k]? with
    | some h => leBytes 5 (satField 15 (h.dep - h.arr) * 2 ^ 25 + satField 14 (h.arr - m.birth) * 2 ^ 11 + h.site)
    | none => leBytes 5 0)
  traceHead r 0 (m.hops.length + 16 * b2n m.trunc) 0 (satField 21 (t.arr - m.birth) * 2 ^ 11 + r.siteCode i) m.birth m.bsite
    ++ hops

/-- The record of a TRACE site that admits a token (R228, R398). -/
def admitRecord (r : Region) (env : FireEnv) (i : Nat) (t : Token) : List Byte :=
  traceHead r 1 0 (cfgAux (r.cfg i) % 256) 0 env.fc (r.siteCode i) ++ (t.lanes.take 10).flatMap (fun l => leBytes 4 l.toNat)

/-! ## A firing put together -/

/-- A firing that takes inputs `xs`, changes the site by `upd` and emits `toks`, the first now and the others later on
the ROUTE links: it needs room for the first (R191). `lost` counts a sampled token that the operator discards. -/
def fireTake (env : FireEnv) (r : Region) (i : Nat) (xs : List Nat) (upd : Site → Site) (keys : List Nat)
    (toks : List Token) (fx : FireFx) : Fired :=
  match toks with
  | [] => .done ((r.take env i xs).modSite i upd) fx
  | t :: rest =>
    if !r.room env keys then .idle
    else
      let r := ((r.take env i xs).modSite i upd).emit env i keys t
      .done (r.modSite i (fun s => { s with outq := s.outq ++ rest })) fx

/-- A token with a mark. -/
def Token.marked (t : Token) (m : Option Mark) : Token := { t with mark := m }

/-- Marks the first of a firing's tokens. -/
def markFirst (ts : List Token) (m : Option Mark) : List Token :=
  match ts with
  | [] => []
  | t :: rest => t.marked m :: rest

/-- A DATA token of lanes. -/
def dataTok (lanes : List Lane) : Token := ⟨.data, lanes, false, none, 0⟩

/-- Discards: the effects of a firing that emits nothing of a sampled token. -/
def lostFx (m : Option Mark) : FireFx := { FireFx.none with lost := b2n m.isSome }

/-- Which of a site's inputs hold EEOS: one is consumed, EEOS goes to every routed link and the region faults EEOSIN
(Table 8.1). -/
def eeosAt (env : FireEnv) (r : Region) (i : Nat) (xs : List Nat) : Bool :=
  xs.any (fun x => match r.head env i x with | some t => t.kind == .eeos | none => false)

/-- What a firing on EEOS comes to: it needs room on the routed links, STEER's second set among them (Table 8.10). -/
def eeosFire (env : FireEnv) (r : Region) (i : Nat) : Fired := if r.room env (outKeys i (r.cfg i)) then .fault 1 else .idle

/-- The next beat of a quad: DATA stays at 0. -/
def nextBeat (beat : Nat) (k : TokKind) : Nat := if k = .csv then (beat + 1) % 4 else 0

/-- EOS cuts a quad short of which the site has consumed some beats (R196). -/
def Region.quadCut (r : Region) (i : Nat) (t : Token) : Bool :=
  t.kind == .eos && (match r.site i with | some s => s.beat != 0 | none => false)

/-- CV of R215. -/
def ctlValue (cfg : Nat) (t : Token) : Bool := (t.lane 0 != 0) != (cfgMod cfg % 2 == 1)

/-! ## Lockstep (R195, R196, Table 8.1) -/

/-- A lockstep firing. `xs` are the operator's inputs and `ctl` those of them that carry control values or the guard,
consumed with beat 0 only. `onEos` fires on EOS at every input; `go` on tokens, which it finds by `tok`. DESIGN CHOICE (log 141):
where EOS stands at one input inside a quad of another, both LENMIS of Table 8.1 and QUADCUT (R196) fit; an operator that has moved a
beat of the quad faults QUADCUT, a reduction, which takes its quads whole, LENMIS. -/
def lockstep (env : FireEnv) (r : Region) (i : Nat) (xs ctl : List Nat) (transparent : Bool)
    (onEos : List Nat → Option Mark → Fired) (go : Site → List Nat → (Nat → Token) → TokKind → Option Mark → Fired) : Fired :=
  match r.site i with
  | none => .idle
  | some s =>
    let used := xs.filter (fun x => cfgSel s.cfg x != 0)
    let live := used.filter (fun x => cfgSel s.cfg x != 9 && !(s.beat != 0 && ctl.contains x))
    if eeosAt env r i live then eeosFire env r i
    else if live.any (fun x => (r.head env i x).isNone) then .idle
    else
      let tok (x : Nat) : Token := (r.head env i x).getD (initToken s.cfg)
      let kind (x : Nat) : TokKind := (tok x).kind
      let m := r.markOf env i (live.map tok)
      let eos := live.filter (fun x => kind x == .eos)
      let plain := live.filter (fun x => !ctl.contains x)
      let csv := plain.filter (fun x => kind x == .csv)
      if !eos.isEmpty then
        if s.beat != 0 then .fault 4 else if eos.length = live.length then onEos live m else .fault 2
      else if live.any (fun x => ctl.contains x && kind x == .csv) then .fault 3
      else if transparent then
        if !csv.isEmpty && csv.length != plain.length then .fault 3
        else go s live tok (if csv.isEmpty then .data else .csv) m
      else if plain.any (fun x => (kind x == .csv) != (cfgLt s.cfg == 3)) then .fault 3
      else go s live tok (if csv.isEmpty then .data else .csv) m

/-- EOS on every input: consumed, and one EOS emitted. -/
def eosEmit (env : FireEnv) (r : Region) (i : Nat) (xs : List Nat) (m : Option Mark) : Fired :=
  fireTake env r i xs (fun s => s) (r.routeKeys i) [Token.eos.marked m] FireFx.none

/-- The lanes of a token as numbers. -/
def Token.nats (t : Token) : List Nat := t.lanes.map (fun l => l.toNat)

/-- Lanes of numbers. -/
def natLanes (vs : List Nat) : List Lane := vs.map (BitVec.ofNat 32)

/-- The computing operators (R206 to R210, R214). -/
def fireCompute (env : FireEnv) (r : Region) (i : Nat) : Fired :=
  lockstep env r i [0, 1, 2] [] false (eosEmit env r i) (fun s xs tok _ m =>
    let ls := natLanes (computeLanes s.cfg (tok 0).nats (tok 1).nats (tok 2).nats)
    fireTake env r i xs (fun s => s) (r.routeKeys i) [(dataTok ls).marked m] FireFx.none)

/-- ADD of two quads (R58, R196): beats are gathered in pairs, and the fourth pair makes the result. -/
def fireReduce (env : FireEnv) (r : Region) (i : Nat) : Fired :=
  lockstep env r i [0, 1] [] false
    (fun xs m => if (match r.site i with | some s => s.buf.isEmpty | none => true) then eosEmit env r i xs m else .fault 4)
    (fun s xs tok _ m =>
      let buf := s.buf ++ [(tok 0).marked m, (tok 1).marked none]
      if buf.length < 8 then fireTake env r i xs (fun s => { s with buf := buf }) [] [] FireFx.none
      else
        let half (o : Nat) : Quad := csvQuad ((List.range 4).map (fun b => ((buf[2 * b + o]?).getD Token.eos).lanes))
        let out := ((half 0).reduce (half 1)).beats.map (fun ls => ({ dataTok ls with kind := .csv } : Token))
        fireTake env r i xs (fun s => { s with buf := [] }) (r.routeKeys i)
          (markFirst out (buf.findSome? (fun t => t.mark))) FireFx.none)

/-- ADD: of lanes, or of quads when LT = CSV. -/
def fireAdd (env : FireEnv) (r : Region) (i : Nat) : Fired :=
  if cfgLt (r.cfg i) = 3 then fireReduce env r i else fireCompute env r i

/-- A pair of beats that a reduction takes while beats of its last result still leave: any of a quad but its last pair,
which emits (R202). -/
def takesBeats (env : FireEnv) (r : Region) (i : Nat) : Bool :=
  let csv (x : Nat) : Bool := match r.head env i x with | some t => t.kind == .csv | none => false
  match r.site i with
  | some s => cfgOp s.cfg = 0x01 && cfgLt s.cfg = 3 && decide (s.buf.length < 6) && csv 0 && csv 1
  | none => false

/-- SEL (Table 8.10): a control value per lane; a quad's choice is made on beat 0. -/
def fireSel (env : FireEnv) (r : Region) (i : Nat) : Fired :=
  lockstep env r i [0, 1, 2] [2] true (eosEmit env r i) (fun s xs tok k m =>
    let c := tok 2
    let mask := if s.beat != 0 then s.choice
                else (List.range 16).foldl (fun n l => if (c.lane l != 0) != (cfgMod s.cfg % 2 == 1) then n + 2 ^ l else n) 0
    let ls := (List.range 16).map (fun l => if bitOf mask l then (tok 0).lane l else (tok 1).lane l)
    fireTake env r i xs (fun s => { s with choice := mask, beat := nextBeat s.beat k }) (r.routeKeys i)
      [({ dataTok ls with kind := k } : Token).marked m] FireFx.none)

/-- The two link sets of STEER. -/
def steerKeys (r : Region) (i : Nat) (yes : Bool) : List Nat :=
  let mask := if yes then cfgRoute (r.cfg i) else cfgAux (r.cfg i) % 256
  ((List.range 8).filter (bitOf mask)).map (fun d => 9 * i + d)

/-- STEER (Table 8.10): EOS goes to both sets, a mark with it on the lowest ROUTE link (R397); a set that is empty drops
the token. -/
def fireSteer (env : FireEnv) (r : Region) (i : Nat) : Fired :=
  let both := steerKeys r i true ++ (steerKeys r i false).filter (fun l => !(steerKeys r i true).contains l)
  lockstep env r i [0, 1] [1] true
    (fun xs m => fireTake env r i xs (fun s => s) both [Token.eos.marked m] FireFx.none)
    (fun s xs tok k m =>
      let yes := if s.beat != 0 then s.choice == 1 else ctlValue s.cfg (tok 1)
      let upd (s : Site) : Site := { s with choice := b2n yes, beat := nextBeat s.beat k }
      match steerKeys r i yes with
      | [] => fireTake env r i xs upd [] [] (lostFx m)
      | keys => fireTake env r i xs upd keys [(tok 0).marked m] FireFx.none)

/-- DROP (Table 8.10). -/
def fireDrop (env : FireEnv) (r : Region) (i : Nat) : Fired :=
  lockstep env r i [0, 1] [1] true (eosEmit env r i) (fun s xs tok k m =>
    let yes := if s.beat != 0 then s.choice == 1 else ctlValue s.cfg (tok 1)
    let upd (s : Site) : Site := { s with choice := b2n yes, beat := nextBeat s.beat k }
    if yes then fireTake env r i xs upd (r.routeKeys i) [(tok 0).marked m] FireFx.none
    else fireTake env r i xs upd [] [] (lostFx m))

/-- EOSGEN (Table 8.10): a quad's EOS follows its last beat. -/
def fireEosgen (env : FireEnv) (r : Region) (i : Nat) : Fired :=
  lockstep env r i [0, 1] [1] false
    (fun xs m => fireTake env r i xs (fun s => s) [] [] (lostFx m))
    (fun s xs tok k m =>
      let yes := if s.beat != 0 then s.choice == 1 else ctlValue s.cfg (tok 1)
      let last := k = .data || s.beat = 3
      fireTake env r i xs (fun s => { s with choice := b2n yes, beat := nextBeat s.beat k }) (r.routeKeys i)
        ((tok 0).marked m :: (if yes && last then [Token.eos] else [])) FireFx.none)

/-- FILT (Table 8.10): `held` is the partial token, its lanes those gathered. -/
def fireFilt (env : FireEnv) (r : Region) (i : Nat) : Fired :=
  lockstep env r i [0, 1] [1] false
    (fun xs m =>
      match (r.site i).bind (fun s => s.held.head?.map (fun t => (s, t))) with
      | none => eosEmit env r i xs m
      | some (s, t) =>
        let full := t.lanes ++ List.replicate (16 - t.lanes.length) (cfgConst s.cfg)
        fireTake env r i xs (fun s => { s with held := [] }) (r.routeKeys i)
          [(dataTok full).marked t.mark, Token.eos.marked m] FireFx.none)
    (fun s xs tok _ m =>
      let part := match s.held with | t :: _ => t | [] => dataTok []
      let keep := (List.range 16).filter (fun l => ((tok 1).lane l != 0) != (cfgMod s.cfg % 2 == 1))
      let lanes := part.lanes ++ keep.map (fun l => (tok 0).lane l)
      let mark := match part.mark with | some x => some x | none => if keep.isEmpty then none else m
      let fx := if keep.isEmpty then lostFx m else FireFx.none
      if lanes.length < 16 then
        fireTake env r i xs (fun s => { s with held := if lanes.isEmpty then [] else [(dataTok lanes).marked mark] }) [] [] fx
      else
        let rest := lanes.drop 16
        fireTake env r i xs (fun s => { s with held := if rest.isEmpty then [] else [dataTok rest] }) (r.routeKeys i)
          [(dataTok (lanes.take 16)).marked mark] fx)

/-! ## Ports and sinks (R222, R223, R228) -/

/-- The queue a port operator names. -/
def portQueue (env : FireEnv) (cfg : Nat) : Option Queue := SMap.find env.queues (cfgAux cfg % 64)

/-- The record that a sink writes of a sampled token it consumes (R397). -/
def sinkFx (env : FireEnv) (r : Region) (i : Nat) (ts : List Token) (fx : FireFx) : FireFx :=
  match ts.find? (fun t => t.mark.isSome), r.markOf env i ts with
  | some t, some m => if env.sampling then { fx with records := [sampleRecord r i t m] } else fx
  | _, _ => fx

/-- QPOP (Table 8.11, R397): every kind in order; EEOS is emitted, then the region faults EEOSIN. -/
def fireQpop (env : FireEnv) (r : Region) (i : Nat) : Fired :=
  match r.site i with
  | none => .idle
  | some s =>
    match (portQueue env s.cfg).bind (fun k => k.portTokens.head?) with
    | none => .idle
    | some t =>
      if !t.here env.fc || !r.room env (r.routeKeys i) then .idle
      else if t.kind = .eeos then .fault 1
      else
        let counts := env.sampling && cfgTrc s.cfg
        let n := if counts then s.emitted + 1 else s.emitted
        let born := counts && n % env.nth = 0
        let m : Option Mark := if born then some ⟨env.fc, r.siteCode i, [], false⟩ else none
        fireTake env r i [] (fun s => { s with emitted := n }) (r.routeKeys i) [{ t with mark := m, eng := false }]
          { FireFx.none with pop := some (cfgAux s.cfg % 64) }

/-- Whether a token of a takes effect: decided by the guard with the first beat (R215, R223). -/
def guarded (s : Site) (g : Token) : Bool := if s.beat != 0 then s.choice == 1 else cfgSel s.cfg 3 = 0 || ctlValue s.cfg g

/-- QPUSH and BQPUSH (Table 8.11, R223); BQPUSH is not kind-transparent. -/
def firePush (env : FireEnv) (r : Region) (i : Nat) (boq : Bool) : Fired :=
  match portQueue env (r.cfg i) with
  | none => .idle
  | some k =>
    let e := cfgAux (r.cfg i) % 64
    let full := decide (32 ≤ k.portTokens.length)
    let send (xs : List Nat) (upd : Site → Site) (ts : List Token) (t : Token) : Fired :=
      if full then .idle
      else fireTake env r i xs upd [] [] (sinkFx env r i ts { FireFx.none with push := some (e, { t with mark := none, arr := env.fc }) })
    lockstep env r i [0, 3] [3] (!boq)
      (fun xs _ => send xs (fun s => { s with sawEos := true }) (xs.filterMap (r.head env i)) Token.eos)
      (fun s xs tok k _ =>
        if boq && k = .csv then .fault 3
        else
          let yes := guarded s (tok 3)
          let upd (s : Site) : Site := { s with choice := b2n yes, beat := nextBeat s.beat k }
          if yes then send xs upd (xs.map tok) (tok 0)
          else fireTake env r i xs upd [] [] (sinkFx env r i (xs.map tok) FireFx.none))

/-- QPEEK (Table 8.11): the tokens held at the port and the kind of the head, in a token of the trigger's kind. -/
def fireQpeek (env : FireEnv) (r : Region) (i : Nat) : Fired :=
  lockstep env r i [0] [] false (eosEmit env r i) (fun s xs _ kind m =>
    let ts := match portQueue env s.cfg with | some k => k.portTokens | none => []
    let hk : Nat := match ts with | [] => 0 | t :: _ => match t.kind with | .data => 0 | .eos => 1 | .eeos => 2 | .csv => 3
    fireTake env r i xs (fun s => { s with beat := nextBeat s.beat kind }) (r.routeKeys i)
      [({ dataTok (natLanes (ts.length :: hk :: List.replicate 14 0)) with kind := kind } : Token).marked m] FireFx.none)

/-- SINK (Table 8.10). -/
def fireSink (env : FireEnv) (r : Region) (i : Nat) : Fired :=
  match r.head env i 0 with
  | none => .idle
  | some t =>
    if t.kind = .eeos then .fault 1
    else if r.quadCut i t then .fault 4
    else fireTake env r i [0] (fun s => { s with sawEos := s.sawEos || t.kind == .eos, beat := nextBeat s.beat t.kind }) [] []
      (sinkFx env r i [t] FireFx.none)

/-- TRACE and TRCNT (R228): `act` is the effect of a token admitted. -/
def fireTap (env : FireEnv) (r : Region) (i : Nat) (act : Token → FireFx → FireFx) : Fired :=
  lockstep env r i [0, 3] [3] false
    (fun xs _ => fireTake env r i xs (fun s => { s with sawEos := true }) [] []
      (sinkFx env r i (xs.filterMap (r.head env i)) FireFx.none))
    (fun s xs tok k _ =>
      let yes := guarded s (tok 3)
      let fx := sinkFx env r i (xs.map tok) FireFx.none
      fireTake env r i xs (fun s => { s with choice := b2n yes, beat := nextBeat s.beat k }) [] []
        (if yes then act (tok 0) fx else fx))

/-! ## Control operators with states of their own (R216 to R219) -/

/-- MERGE (Table 8.10). K never ends and is left out of the wait for EOS (R193). -/
def fireMerge (env : FireEnv) (r : Region) (i : Nat) : Fired :=
  match r.site i with
  | none => .idle
  | some s =>
    let chosen (x : Nat) (xs : List Nat) : Fired :=
      match r.head env i x with
      | none => .idle
      | some t =>
        if t.kind = .eos then (if s.beat != 0 then .fault 4 else .fault 2)
        else
          let m := r.markOf env i ((xs.filterMap (r.head env i)))
          fireTake env r i xs (fun s => { s with choice := x, beat := nextBeat s.beat t.kind }) (r.routeKeys i) [t.marked m]
            FireFx.none
    if eeosAt env r i [0, 1, 2] then eeosFire env r i
    else if s.beat != 0 then chosen s.choice [s.choice]
    else
      match r.head env i 2 with
      | none => .idle
      | some c =>
        if c.kind = .csv then .fault 3
        else if c.kind = .eos then
          let ab := [0, 1].filter (fun x => cfgSel s.cfg x != 9)
          if ab.any (fun x => match r.head env i x with | some t => t.kind != .eos | none => false) then .fault 2
          else if ab.any (fun x => (r.head env i x).isNone) then .idle
          else eosEmit env r i (ab ++ [2]) (r.markOf env i ((ab ++ [2]).filterMap (r.head env i)))
        else
          let x := if ctlValue s.cfg c then 0 else 1
          chosen x [x, 2]

/-- CARRY (R217): `sub` 0 INIT, 1 LOOP, 2 DRAIN. DESIGN CHOICE (log 140): for CV true in LOOP with EOS at b, a case that R217's table
does not name, it faults LENMIS, inside a quad QUADCUT. -/
def fireCarry (env : FireEnv) (r : Region) (i : Nat) : Fired :=
  match r.site i with
  | none => .idle
  | some s =>
    let pass (xs : List Nat) (t : Token) (next : Nat) : Fired :=
      let m := r.markOf env i (xs.filterMap (r.head env i))
      let b := nextBeat s.beat t.kind
      fireTake env r i xs (fun s => { s with beat := b, sub := if b = 0 then next else s.sub }) (r.routeKeys i) [t.marked m]
        FireFx.none
    if eeosAt env r i [0, 1, 2] then eeosFire env r i
    else if s.sub = 2 then
      match r.head env i 1 with
      | none => .idle
      | some b =>
        if b.kind = .eos then fireTake env r i [1] (fun s => { s with sub := 0 }) [] [] (lostFx b.mark) else .fault 2
    else if s.sub = 0 then
      match r.head env i 0 with
      | none => .idle
      | some a =>
        if a.kind != .eos then pass [0] a 1
        else if s.beat != 0 then .fault 4
        else
          match r.head env i 2 with
          | none => .idle
          | some c =>
            if c.kind = .csv then .fault 3
            else if c.kind = .data then .fault 2
            else
              let m := r.markOf env i [a, c]
              fireTake env r i [0, 2] (fun s => { s with sub := if cfgSel s.cfg 1 = 0 then 0 else 2 }) (r.routeKeys i)
                [Token.eos.marked m] FireFx.none
    else
      let back (xs : List Nat) : Fired :=
        match r.head env i 1 with
        | none => .idle
        | some b => if b.kind = .eos then .fault (if s.beat != 0 then 4 else 2) else pass xs b 1
      if s.beat != 0 then back [1]
      else
        match r.head env i 2 with
        | none => .idle
        | some c =>
          if c.kind = .eos then .fault 2
          else if c.kind = .csv then .fault 3
          else if ctlValue s.cfg c then back [1, 2]
          else fireTake env r i [2] (fun s => { s with sub := 0 }) [] [] (lostFx (r.markOf env i [c]))

/-- INVAR (R218): `sub` 0 EMPTY, 1 HELD; a quad is held whole. -/
def fireInvar (env : FireEnv) (r : Region) (i : Nat) : Fired :=
  match r.site i with
  | none => .idle
  | some s =>
    if eeosAt env r i [0, 1] then eeosFire env r i
    else if s.sub = 0 then
      match r.head env i 0 with
      | none => .idle
      | some a =>
        if a.kind = .eos then
          if !s.held.isEmpty then .fault 4
          else
            match r.head env i 1 with
            | none => .idle
            | some b =>
              if b.kind = .csv then .fault 3
              else if b.kind = .data then .fault 2
              else eosEmit env r i [0, 1] (r.markOf env i [a, b])
        else
          let held := s.held ++ [a.marked (r.hop env i a)]
          fireTake env r i [0] (fun s => { s with held := held, sub := if a.kind = .data || held.length = 4 then 1 else 0 })
            [] [] FireFx.none
    else
      match r.head env i 1 with
      | none => .idle
      | some b =>
        if b.kind = .eos then .fault 2
        else if b.kind = .csv then .fault 3
        else if ctlValue s.cfg b then
          let m := match s.held.findSome? (fun t => t.mark) with | some x => some x | none => r.markOf env i [b]
          fireTake env r i [1] (fun s => { s with held := s.held.map (fun t => t.marked none) }) (r.routeKeys i)
            (markFirst (s.held.map (fun t => t.marked none)) m) FireFx.none
        else
          let left := (s.held.filter (fun t => t.mark.isSome)).length + b2n (r.markOf env i [b]).isSome
          fireTake env r i [1] (fun s => { s with held := [], sub := 0 }) [] [] { FireFx.none with lost := left }

/-- The lanes of CTR's token for iteration k of n (R219). -/
def ctrLanes (cfg k n : Nat) : List Lane :=
  let step := signed 8 (bitsOf (cfgAux cfg) 8 8)
  BitVec.ofNat 32 (b2n (decide (k + 1 < n))) :: BitVec.ofNat 32 (b2n (k == 0)) :: BitVec.ofNat 32 (b2n (k + 1 == n))
    :: List.replicate 13 (BitVec.ofInt 32 ((k : Int) * step))

/-- CTR (R219, R220): `sub` 1 inside an activation; `held` keeps a sampled token that started one. DESIGN CHOICE (log 142): FSP = 0
holds back the tokens of an activation, where R219 tests it, and not the EOS that ends the stream, of which R220's "next emission"
could speak too. -/
def fireCtr (env : FireEnv) (r : Region) (i : Nat) : Fired :=
  match r.site i with
  | none => .idle
  | some s =>
    let cfg := s.cfg
    let credit := cfgSel cfg 1 != 0
    let bHead := r.head env i 1
    if eeosAt env r i [0, 1] then eeosFire env r i
    else if (match bHead with | some b => b.kind == TokKind.eos | none => false) then
      fireTake env r i [1] (fun s => s) [] [] (lostFx (bHead.bind (fun b => b.mark)))
    else if s.sub = 1 && s.k < s.n then
      let soon := match s.last with | some l => decide (env.fc < l + cfgAux cfg % 256) | none => false
      if soon || !s.fsp || (s.k != 0 && credit && bHead.isNone) then .idle
      else
        let m := match s.held with
                 | t :: _ => t.mark
                 | [] => if s.k != 0 && credit then r.markOf env i bHead.toList else none
        fireTake env r i (if s.k != 0 && credit then [1] else [])
          (fun s => { s with k := s.k + 1, last := some env.fc, held := []
                             sub := if s.k + 1 = s.n && cfgSel cfg 0 != 0 then 0 else 1 })
          (r.routeKeys i) [(dataTok (ctrLanes cfg s.k s.n)).marked m] FireFx.none
    else if cfgSel cfg 0 = 0 then
      if s.sub = 1 then fireTake env r i [] (fun s => { s with sub := 0 }) (r.routeKeys i) [Token.eos] FireFx.none else .idle
    else
      match r.head env i 0 with
      | none => .idle
      | some a =>
        if a.kind = TokKind.csv then .fault 3
        else if a.kind = TokKind.eos then eosEmit env r i [0] (r.markOf env i [a])
        else
          let n := (a.lane 0).toNat
          let m := r.hop env i a
          fireTake env r i [0] (fun s => { s with k := 0, n := n, sub := if n = 0 then 0 else 1
                                                  held := if n != 0 && m.isSome then [a.marked m] else [] })
            [] [] (if n = 0 then lostFx m else FireFx.none)

/-- ONCE (Table 8.10): `sub` 0 not yet emitted, 1 emitting, 2 done. DESIGN CHOICE (log 139): of a CSV stream it emits the first beat
alone, the "first token" of Table 8.10, though R55 lets a producer always emit four. -/
def fireOnce (env : FireEnv) (r : Region) (i : Nat) : Fired :=
  match r.site i with
  | none => .idle
  | some s =>
    if cfgSel s.cfg 0 = 0 then
      if s.sub = 2 then .idle
      else fireTake env r i [] (fun s => { s with sub := s.sub + 1 }) (r.routeKeys i)
        [if s.sub = 0 then initToken s.cfg else Token.eos] FireFx.none
    else
      match r.head env i 0 with
      | none => .idle
      | some a =>
        let m := r.markOf env i [a]
        let b := nextBeat s.beat a.kind
        if a.kind = .eeos then eeosFire env r i
        else if r.quadCut i a then .fault 4
        else if a.kind = .eos then fireTake env r i [0] (fun s => { s with sub := 0 }) (r.routeKeys i) [a.marked m] FireFx.none
        else if s.sub = 0 then
          fireTake env r i [0] (fun s => { s with sub := 2, beat := b }) (r.routeKeys i) [a.marked m] FireFx.none
        else fireTake env r i [0] (fun s => { s with beat := b }) [] [] (lostFx m)

/-! ## Blocks and quads (R197, R211 to R213, R227) -/

/-- CVT.SDB decode (R212). A malformed block counts; under MEOS the stream ends in EEOS after its zeros (R45). -/
def fireSdbDecode (env : FireEnv) (r : Region) (i : Nat) : Fired :=
  match r.site i, r.head env i 0 with
  | some s, some a =>
    let m := r.markOf env i [a]
    match a.kind with
    | .csv => .fault 3
    | .eeos => eeosFire env r i
    | .eos => eosEmit env r i [0] m
    | .data =>
      let fmt := cfgAux s.cfg % 256
      let (toks, bad) := sdbDecode fmt (laneBytes a.lanes) (if bitOf (cfgAux s.cfg) 8 then some (cfgConst s.cfg) else none)
      let ts := toks.map dataTok ++ (if bad && r.meos then [Token.eeos] else [])
      let r := if bad then { r with mbcnt := satAdd 32 r.mbcnt 1 } else r
      fireTake env r i [0] (fun s => s) (r.routeKeys i) (markFirst ts m) FireFx.none
  | _, _ => .idle

/-- CVT.SDB encode (R213). -/
def fireSdbEncode (env : FireEnv) (r : Region) (i : Nat) : Fired :=
  match r.site i, r.head env i 0 with
  | some s, some a =>
    let m := r.markOf env i [a]
    let fmt := cfgAux s.cfg % 256
    let block (ts : List Token) : Token :=
      (dataTok (bytesLanes (sdbEncode fmt (ts.flatMap (fun t => t.lanes))))).marked (ts.findSome? (fun t => t.mark))
    match a.kind with
    | .csv => .fault 3
    | .eeos => eeosFire env r i
    | .eos =>
      if s.buf.isEmpty then eosEmit env r i [0] m
      else fireTake env r i [0] (fun s => { s with buf := [] }) (r.routeKeys i) [block s.buf, Token.eos.marked m] FireFx.none
    | .data =>
      let buf := s.buf ++ [a.marked m]
      if buf.length < blkTokens fmt then fireTake env r i [0] (fun s => { s with buf := buf }) [] [] FireFx.none
      else fireTake env r i [0] (fun s => { s with buf := [] }) (r.routeKeys i) [block buf] FireFx.none
  | _, _ => .idle

/-- NORM (R59, R227). -/
def fireNorm (env : FireEnv) (r : Region) (i : Nat) : Fired :=
  match r.site i, r.head env i 0 with
  | some s, some a =>
    let m := r.markOf env i [a]
    match a.kind with
    | .data => .fault 3
    | .eeos => eeosFire env r i
    | .eos => if s.buf.isEmpty then eosEmit env r i [0] m else .fault 4
    | .csv =>
      let buf := s.buf ++ [a.marked m]
      if buf.length < 4 then fireTake env r i [0] (fun s => { s with buf := buf }) [] [] FireFx.none
      else
        let q := csvQuad (buf.map (fun t => t.lanes))
        fireTake env r i [0] (fun s => { s with buf := [] }) (r.routeKeys i)
          [(dataTok ((List.range 16).map q.norm)).marked (buf.findSome? (fun t => t.mark))] FireFx.none
  | _, _ => .idle

/-! ## BUF, ROUTE, SAFEED, SAREAD (R224, R226, R227) -/

/-- BUF (R224): takes a token when it has a place at the start of the fc, and emits its oldest when the link has room;
an empty one passes a token through. -/
def fireBuf (env : FireEnv) (r : Region) (i : Nat) : Fired :=
  match r.site i with
  | none => .idle
  | some s =>
    if eeosAt env r i [0] then eeosFire env r i
    else
      let out := !s.buf.isEmpty && r.room env (r.routeKeys i)
      let inp := if s.buf.length < cfgAux s.cfg % 64 + 1 then r.head env i 0 else none
      match inp with
      | none =>
        if out then fireTake env r i [] (fun s => { s with buf := s.buf.drop 1 }) (r.routeKeys i) (s.buf.take 1) FireFx.none
        else .idle
      | some a =>
        let a := a.marked (r.hop env i a)
        let b := nextBeat s.beat a.kind
        if r.quadCut i a then .fault 4
        else if out then
          fireTake env r i [0] (fun s => { s with buf := s.buf.drop 1 ++ [a], beat := b }) (r.routeKeys i) (s.buf.take 1) FireFx.none
        else if s.buf.isEmpty && r.room env (r.routeKeys i) then
          fireTake env r i [0] (fun s => { s with beat := b }) (r.routeKeys i) [a] FireFx.none
        else fireTake env r i [0] (fun s => { s with buf := s.buf ++ [a], beat := b }) [] [] FireFx.none

/-- ROUTE (R224). -/
def fireRoute (env : FireEnv) (r : Region) (i : Nat) : Fired :=
  match r.head env i 0 with
  | none => .idle
  | some a =>
    if a.kind = .eeos then eeosFire env r i
    else if r.quadCut i a then .fault 4
    else fireTake env r i [0] (fun s => { s with beat := nextBeat s.beat a.kind }) (r.routeKeys i) [a.marked (r.markOf env i [a])]
      FireFx.none

/-- SAFEED (R226): the path to the port holds two tokens, as R192 gives (log 13). -/
def fireSafeed (env : FireEnv) (r : Region) (i : Nat) : Fired :=
  let k := cfgAux (r.cfg i) % 64
  let p := bitsOf (cfgAux (r.cfg i)) 6 2
  match r.head env i 0, r.sa k with
  | some (a : Token), some sa =>
    if a.kind = TokKind.csv then .fault 3
    else if a.kind = TokKind.eeos then .fault 1
    else if 2 ≤ (sa.port p).length then .idle
    else
      match fireTake env r i [0] (fun s => { s with sawEos := s.sawEos || a.kind == TokKind.eos }) [] [] (sinkFx env r i [a] FireFx.none) with
      | .done r fx => .done (r.modSa k (fun sa => sa.setPort p (sa.port p ++ [{ a with mark := none, arr := env.fc + 1 }]))) fx
      | x => x
  | _, _ => .idle

/-- SAREAD (R227): the next beat of the quads a started MREAD or MRDDIAG streams, or the EOS after its last. -/
def fireSaread (env : FireEnv) (r : Region) (i : Nat) : Fired :=
  let k := cfgAux (r.cfg i) % 64
  match r.sa k with
  | none => .idle
  | some a =>
    if !r.room env (r.routeKeys i) then .idle
    else if a.eosDue then
      .done ((r.setSa k { a with eosDue := false }).emit env i (r.routeKeys i) Token.eos) FireFx.none
    else
      match a.readPlace.bind (fun p => a.queue[p]?) with
      | none => .idle
      | some c =>
        if readQuads c.w ≤ a.quad then .idle
        else
          let t : Token := ⟨.csv, ((a.readQuad c.w a.quad).beats[a.beat]?).getD [], false, none, 0⟩
          let last := a.beat = 3
          let a' := { a with beat := if last then 0 else a.beat + 1, quad := if last then a.quad + 1 else a.quad
                             eosDue := last && a.quad + 1 = readQuads c.w && a.eosAfter }
          .done ((r.setSa k a').emit env i (r.routeKeys i) t) FireFx.none

/-! ## Any site -/

/-- How the operator of a site fires. -/
def fireOf (env : FireEnv) (r : Region) (i : Nat) : Fired :=
  let cfg := r.cfg i
  let op := cfgOp cfg
  if op = 0x01 then fireAdd env r i
  else if computes op then fireCompute env r i
  else
    match op with
    | 0x48 => if cfgMod cfg = 0 then fireSdbDecode env r i else fireSdbEncode env r i
    | 0x60 => fireSel env r i
    | 0x61 => fireSteer env r i
    | 0x62 => fireMerge env r i
    | 0x63 => fireCarry env r i
    | 0x64 => fireInvar env r i
    | 0x65 => fireCtr env r i
    | 0x66 => fireDrop env r i
    | 0x67 => fireSink env r i
    | 0x68 => fireEosgen env r i
    | 0x69 => fireFilt env r i
    | 0x6A => fireOnce env r i
    | 0x80 => fireQpop env r i
    | 0x81 => firePush env r i false
    | 0x82 => firePush env r i true
    | 0x83 => fireQpeek env r i
    | 0x90 => fireBuf env r i
    | 0x91 => fireRoute env r i
    | 0xA1 => fireSafeed env r i
    | 0xA2 => fireSaread env r i
    | 0xA3 => fireNorm env r i
    | 0xC0 => fireTap env r i (fun t fx => { fx with records := fx.records ++ [admitRecord r env i t] })
    | 0xC1 => fireTap env r i (fun _ fx => { fx with count := some (cfgAux cfg % 256) })
    | _ => .idle

/-- Tokens still to be emitted go first, one per firing; an EEOS that ends a decoder's stream faults MALF (R212). A
reduction of quads is pipelined: in the same firing it takes the next beats that emit nothing (R202). -/
def firePending (env : FireEnv) (r : Region) (i : Nat) (t : Token) (op : FireEnv → Region → Nat → Fired) : Fired :=
  let out : Fired :=
    if !r.room env (r.routeKeys i) then .idle
    else if t.kind = .eeos then .fault 5
    else .done ((r.modSite i (fun s => { s with outq := s.outq.drop 1 })).emit env i (r.routeKeys i) t) FireFx.none
  if !takesBeats env r i then out
  else
    match out with
    | .idle => op env r i
    | .fault c => .fault c
    | .done r' _ => match op env r' i with | .idle => out | x => x

/-- A site's firing in this fc: once, or twice at QPOP and SAFEED (R191, R192). An uncorrectable error of its storage
faults the region when it would fire (Table 8.2). -/
def fireSite (env : FireEnv) (r : Region) (i : Nat) (op : FireEnv → Region → Nat → Fired) : Fired :=
  match r.site i with
  | none => .idle
  | some s =>
    let again := s.fired == some env.fc
    let twice := cfgOp s.cfg = 0x80 || cfgOp s.cfg = 0xA1
    if again && (!twice || decide (2 ≤ s.shots)) then .idle
    else
      let out := match s.outq with | t :: _ => firePending env r i t op | [] => op env r i
      match out with
      | .idle => .idle
      | .fault c => .fault (if s.ue then (if 0x80 ≤ cfgOp s.cfg && cfgOp s.cfg ≤ 0x83 then 7 else 6) else c)
      | .done r' fx =>
        if s.ue then .fault (if 0x80 ≤ cfgOp s.cfg && cfgOp s.cfg ≤ 0x83 then 7 else 6)
        else .done (r'.modSite i (fun s => { s with fired := some env.fc, shots := if again then s.shots + 1 else 1 })) fx

end Sys2Proof.Machine
end

