-- ==== Sys2Proof/Machine/Fabric.lean ====
section
/-! DEFINITION. The fabric operators as steps of the machine: a site of the region of a context's task fires (R191), a
region faults and is sealed (R198, R383 to R385), trace records are written (R396). -/

namespace Sys2Proof.Machine

/-! ## A context's region -/

/-- The region of a context's task. -/
def Ctx.region (c : Ctx) : Option Region := c.task.bind (fun t => t.region)

/-- Replaces it. -/
def Ctx.setRegion (c : Ctx) (r : Region) : Ctx := { c with task := c.task.map (fun t => { t with region := some r }) }

/-- Sampling runs on a die (R396, R397). -/
def Die.sampling (d : Die) : Bool := d.tren && d.trsize != 0 && d.trn != 0

/-- What a firing of the region of context c sees. -/
def fireEnv (s : State) (c : CtxId) : FireEnv :=
  let d := s.die (dieOf c)
  { fc := s.fc, queues := (match (s.ctx c).task with | some t => t.queues | none => [])
    sampling := d.sampling, nth := d.trn }

/-- A token moved in a job's region on a die, in this fc (R265, R266). -/
def noteMove (s : State) (c : CtxId) : State :=
  match (s.ctx c).task with
  | some t => s.modDie (dieOf c) (fun d => { d with lastMove := SMap.set d.lastMove t.asid s.fc })
  | none => s

/-! ## Trace records (R396) -/

/-- What the next trace record of a context's region writes: its place in the ring, and what its job's dirty bit needs. -/
def traceGas (s : State) (c : CtxId) : List Nat :=
  let t := s.die (dieOf c)
  let g := t.trbase + t.trhead % t.trsize
  if !t.tren || t.trsize = 0 || (t.trstop && decide (t.trsize ≤ t.trhead - t.trtail)) then []
  else g :: dirtyGas s (match (s.ctx c).task with | some t => t.asid | none => 0) g

/-- Writes one record at TRBASE + (TRHEAD mod TRSIZE), then TRHEAD rises; with STOP a record that would overwrite
unconsumed ones is dropped and counted, and so is one whose write completes FENCED. -/
def traceWrite (s : State) (c : CtxId) (bs : List Byte) : State :=
  let k := coreOf c
  let d := dieOf c
  let t := s.die d
  let g := t.trbase + t.trhead % t.trsize
  if !t.tren || t.trsize = 0 then s
  else if (t.trstop && decide (t.trsize ≤ t.trhead - t.trtail)) || fenced s (pkgOf d) .engine g 64 then
    s.modDie d (fun x => { x with trdrop := satAdd 64 x.trdrop 1 })
  else
    let asid := match (s.ctx c).task with | some t => t.asid | none => 0
    (engineWrite s k 0 asid false g bs).modDie d (fun x => { x with trhead := (x.trhead + 64) % 2 ^ 64 })

/-- Sampled tokens discarded without reaching a sink, counted while sampling runs (R397). -/
def traceLost (s : State) (d : DieId) (n : Nat) : State :=
  if n = 0 || !(s.die d).sampling then s else s.modDie d (fun x => { x with trunsnk := satAdd 64 x.trunsnk n })

/-! ## Containment (R383 to R385) -/

/-- The sampled tokens a region holds. -/
def Region.marks (r : Region) : Nat :=
  let n (ts : List Token) : Nat := (ts.filter (fun t => t.mark.isSome)).length
  r.links.foldl (fun m l => m + n l.2) (r.sites.foldl (fun m e => m + n e.2.held + n e.2.buf + n e.2.outq) 0)

/-- The region as a fault leaves it: every token discarded, SA commands completed, the code kept. -/
def Region.seal (r : Region) (fc code : Nat) : Region :=
  let r : Region := { r with links := [], sites := r.sites.map (fun e =>
                      (e.1, { e.2 with self := none, held := [], buf := [], outq := [], beat := 0 })) }
  let r := (List.range r.sas.length).foldl (Region.sealSa fc) r.startDue
  { r with sealed := true, fault := code }

/-- The queue entries that port operators of a region name: those popped, and those pushed. -/
def Region.ports (r : Region) : List Nat × List Nat :=
  let named (f : Nat → Bool) : List Nat := r.sites.filterMap (fun e => if f (cfgOp e.2.cfg) then some (cfgAux e.2.cfg % 64) else none)
  (named (fun op => op == 0x80), named (fun op => op == 0x81 || op == 0x82))

/-- What sealing does to a queue of the task: at a popping port tokens are discarded and later ones absorbed; a pushing
port enters one EEOS, as soon as there is room (R383, R384). -/
def Queue.sealPop (k : Queue) : Queue := { k with regQ := [], cut := true }

/-- The EEOS of a pushing port: `cut` keeps it owed while the queue is full. -/
def Queue.sealPush (k : Queue) (fc : Nat) : Queue :=
  let t := { Token.eeos with arr := fc }
  if 32 ≤ k.portTokens.length then { k with cut := true }
  else if k.ends = 0 && k.inward then { k with ctxQ := k.ctxQ ++ [t] } else { k with regQ := k.regQ ++ [t] }

/-- A region faults: it is sealed in the same fc. When other sites would fault in this fc too, the lowest code is
recorded (R385). -/
def sealRegion (s : State) (c : CtxId) (code : Nat) : State :=
  match (s.ctx c).task with
  | none => s
  | some t =>
    match t.region with
    | none => s
    | some r =>
      if r.sealed then s
      else
        let env := fireEnv s c
        let code := r.sites.foldl (fun m e =>
          match fireSite env r e.1 fireOf with
          | .fault n => Nat.min m n
          | _ => m) code
        let (pops, pushes) := r.ports
        let queues := t.queues.map (fun q =>
          (q.1, if pops.contains q.1 then q.2.sealPop else if pushes.contains q.1 then q.2.sealPush s.fc else q.2))
        let s := traceLost s (dieOf c) r.marks
        s.modCtx c (fun x => { x with task := some { t with queues := queues, region := some (r.seal env.fc code) } })

/-! ## One firing -/

/-- The effects of a firing outside its region. -/
def fireEffects (s : State) (c : CtxId) (fx : FireFx) : State :=
  let s :=
    match fx.pop with
    | some e => s.modCtx c (fun x =>
        match x.queue e with
        | some k => x.setQueue e { k with regQ := k.regQ.drop 1 }
        | none => x)
    | none => s
  let s :=
    match fx.push with
    | some (e, t) => s.modCtx c (fun x =>
        match x.queue e with
        | some k => x.setQueue e (if k.ends = 0 && k.inward then { k with ctxQ := k.ctxQ ++ [t] } else { k with regQ := k.regQ ++ [t] })
        | none => x)
    | none => s
  let s := fx.records.foldl (fun s bs => traceWrite s c bs) s
  let s :=
    match fx.count with
    | some n =>
      -- TRCNT counts through the cache of the task's core; no operation when BBHBASE is 0 (R228, R119)
      let y := (s.ctx c).sys
      if y.bbhbase = 0 then s else ccCount s (coreOf c) y.asid (gaOf (y.bbhbase.toNat + 8 * n))
    | none => s
  traceLost s (dieOf c) fx.lost

/-- What a firing writes outside its region and its queues: trace records, and a counter entry that must be written first. -/
def fireGas (s : State) (c : CtxId) (fx : FireFx) : List Nat :=
  (if fx.records.isEmpty then [] else traceGas s c)
    ++ (match fx.count with
      | some n => let y := (s.ctx c).sys
                  if y.bbhbase = 0 then [] else ccAhead s (coreOf c) (gaOf (y.bbhbase.toNat + 8 * n))
      | none => [])

/-- The sampled token that a QPOP's EEOS would be: it is emitted and counted, and containment absorbs it (Table 8.11, R397). -/
def Region.eeosMarks (r : Region) (env : FireEnv) (i code : Nat) : Nat :=
  match r.site i with
  | some s => b2n (code == 1 && cfgOp s.cfg == 0x80 && env.sampling && cfgTrc s.cfg && (s.emitted + 1) % env.nth == 0)
  | none => 0

/-- The site (col, row) of the region of context c's task fires, when its operator is of the kind `f` names and it may.
A sealed, stopped or frozen region fires nothing (R383, R399, R387), and a site waits for a region of memory that a host owns
(R284). -/
def fabricStep (s : State) (c : CtxId) (col row : Nat) (f : Nat → Bool) (op : FireEnv → Region → Nat → Fired) : State :=
  match (s.ctx c).region with
  | none => s
  | some r =>
    let i := r.w * row + col
    if r.sealed || r.stopped || frozen s c || decide (r.w ≤ col) || !f (r.cfg i) then s
    else
      match fireSite (fireEnv s c) r i op with
      | .idle => s
      | .fault code => noteMove (traceLost (sealRegion s c code) (dieOf c) (r.eeosMarks (fireEnv s c) i code)) c
      | .done r' fx =>
        if (fireGas s c fx).any (procOwned s) then s else
        let r' := { r' with moved := some s.fc }
        noteMove (fireEffects (s.modCtx c (fun x => x.setRegion r')) c fx) c

/-- ADD of lanes, or of quads when LT = CSV (Table 8.5, R58, R196). -/
def execFabricAdd (c : CtxId) (col row : Nat) (s : State) : Host.Outcome State Fault Refusal :=
  .next (fabricStep s c col row (fun w => cfgOp w == 0x01) fireAdd)

/-- SUB (Table 8.5). -/
def execFabricSub (c : CtxId) (col row : Nat) (s : State) : Host.Outcome State Fault Refusal :=
  .next (fabricStep s c col row (fun w => cfgOp w == 0x02) fireCompute)

/-- MUL (Table 8.5). -/
def execFabricMul (c : CtxId) (col row : Nat) (s : State) : Host.Outcome State Fault Refusal :=
  .next (fabricStep s c col row (fun w => cfgOp w == 0x03) fireCompute)

/-- FMA (Table 8.5). -/
def execFabricFma (c : CtxId) (col row : Nat) (s : State) : Host.Outcome State Fault Refusal :=
  .next (fabricStep s c col row (fun w => cfgOp w == 0x04) fireCompute)

/-- FMS (Table 8.5). -/
def execFabricFms (c : CtxId) (col row : Nat) (s : State) : Host.Outcome State Fault Refusal :=
  .next (fabricStep s c col row (fun w => cfgOp w == 0x05) fireCompute)

/-- NEG (Table 8.5). -/
def execFabricNeg (c : CtxId) (col row : Nat) (s : State) : Host.Outcome State Fault Refusal :=
  .next (fabricStep s c col row (fun w => cfgOp w == 0x06) fireCompute)

/-- ABS (Table 8.5). -/
def execFabricAbs (c : CtxId) (col row : Nat) (s : State) : Host.Outcome State Fault Refusal :=
  .next (fabricStep s c col row (fun w => cfgOp w == 0x07) fireCompute)

/-- MIN (Table 8.5). -/
def execFabricMin (c : CtxId) (col row : Nat) (s : State) : Host.Outcome State Fault Refusal :=
  .next (fabricStep s c col row (fun w => cfgOp w == 0x08) fireCompute)

/-- MAX (Table 8.5). -/
def execFabricMax (c : CtxId) (col row : Nat) (s : State) : Host.Outcome State Fault Refusal :=
  .next (fabricStep s c col row (fun w => cfgOp w == 0x09) fireCompute)

/-- AND (Table 8.5). -/
def execFabricAnd (c : CtxId) (col row : Nat) (s : State) : Host.Outcome State Fault Refusal :=
  .next (fabricStep s c col row (fun w => cfgOp w == 0x0A) fireCompute)

/-- OR (Table 8.5). -/
def execFabricOr (c : CtxId) (col row : Nat) (s : State) : Host.Outcome State Fault Refusal :=
  .next (fabricStep s c col row (fun w => cfgOp w == 0x0B) fireCompute)

/-- XOR (Table 8.5). -/
def execFabricXor (c : CtxId) (col row : Nat) (s : State) : Host.Outcome State Fault Refusal :=
  .next (fabricStep s c col row (fun w => cfgOp w == 0x0C) fireCompute)

/-- NOT (Table 8.5). -/
def execFabricNot (c : CtxId) (col row : Nat) (s : State) : Host.Outcome State Fault Refusal :=
  .next (fabricStep s c col row (fun w => cfgOp w == 0x0D) fireCompute)

/-- SHL (Table 8.5). -/
def execFabricShl (c : CtxId) (col row : Nat) (s : State) : Host.Outcome State Fault Refusal :=
  .next (fabricStep s c col row (fun w => cfgOp w == 0x0E) fireCompute)

/-- SHR (Table 8.5). -/
def execFabricShr (c : CtxId) (col row : Nat) (s : State) : Host.Outcome State Fault Refusal :=
  .next (fabricStep s c col row (fun w => cfgOp w == 0x0F) fireCompute)

/-- SAR (Table 8.5). -/
def execFabricSar (c : CtxId) (col row : Nat) (s : State) : Host.Outcome State Fault Refusal :=
  .next (fabricStep s c col row (fun w => cfgOp w == 0x10) fireCompute)

/-- MULHI (Table 8.5). -/
def execFabricMulhi (c : CtxId) (col row : Nat) (s : State) : Host.Outcome State Fault Refusal :=
  .next (fabricStep s c col row (fun w => cfgOp w == 0x11) fireCompute)

/-- CMPEQ (Table 8.5). -/
def execFabricCmpeq (c : CtxId) (col row : Nat) (s : State) : Host.Outcome State Fault Refusal :=
  .next (fabricStep s c col row (fun w => cfgOp w == 0x12) fireCompute)

/-- CMPNE (Table 8.5). -/
def execFabricCmpne (c : CtxId) (col row : Nat) (s : State) : Host.Outcome State Fault Refusal :=
  .next (fabricStep s c col row (fun w => cfgOp w == 0x13) fireCompute)

/-- CMPLT (Table 8.5). -/
def execFabricCmplt (c : CtxId) (col row : Nat) (s : State) : Host.Outcome State Fault Refusal :=
  .next (fabricStep s c col row (fun w => cfgOp w == 0x14) fireCompute)

/-- CMPLE (Table 8.5). -/
def execFabricCmple (c : CtxId) (col row : Nat) (s : State) : Host.Outcome State Fault Refusal :=
  .next (fabricStep s c col row (fun w => cfgOp w == 0x15) fireCompute)

/-- CLASS (Tables 8.5, 8.6). -/
def execFabricClass (c : CtxId) (col row : Nat) (s : State) : Host.Outcome State Fault Refusal :=
  .next (fabricStep s c col row (fun w => cfgOp w == 0x16) fireCompute)

/-- CLAMP (Table 8.5). -/
def execFabricClamp (c : CtxId) (col row : Nat) (s : State) : Host.Outcome State Fault Refusal :=
  .next (fabricStep s c col row (fun w => cfgOp w == 0x17) fireCompute)

/-- BCAST (Table 8.7). -/
def execFabricBcast (c : CtxId) (col row : Nat) (s : State) : Host.Outcome State Fault Refusal :=
  .next (fabricStep s c col row (fun w => cfgOp w == 0x18) fireCompute)

/-- RSUM (Table 8.7). -/
def execFabricRsum (c : CtxId) (col row : Nat) (s : State) : Host.Outcome State Fault Refusal :=
  .next (fabricStep s c col row (fun w => cfgOp w == 0x19) fireCompute)

/-- RMAX (Table 8.7). -/
def execFabricRmax (c : CtxId) (col row : Nat) (s : State) : Host.Outcome State Fault Refusal :=
  .next (fabricStep s c col row (fun w => cfgOp w == 0x1A) fireCompute)

/-- RMIN (Table 8.7). -/
def execFabricRmin (c : CtxId) (col row : Nat) (s : State) : Host.Outcome State Fault Refusal :=
  .next (fabricStep s c col row (fun w => cfgOp w == 0x1B) fireCompute)

/-- SHUF (Table 8.7). -/
def execFabricShuf (c : CtxId) (col row : Nat) (s : State) : Host.Outcome State Fault Refusal :=
  .next (fabricStep s c col row (fun w => cfgOp w == 0x1C) fireCompute)

/-- ROTL (Table 8.7). -/
def execFabricRotl (c : CtxId) (col row : Nat) (s : State) : Host.Outcome State Fault Refusal :=
  .next (fabricStep s c col row (fun w => cfgOp w == 0x1D) fireCompute)

/-- PACK (R208). -/
def execFabricPack (c : CtxId) (col row : Nat) (s : State) : Host.Outcome State Fault Refusal :=
  .next (fabricStep s c col row (fun w => cfgOp w == 0x1E) fireCompute)

/-- UNPK (R208). -/
def execFabricUnpk (c : CtxId) (col row : Nat) (s : State) : Host.Outcome State Fault Refusal :=
  .next (fabricStep s c col row (fun w => cfgOp w == 0x1F) fireCompute)

/-- CADD (Table 8.5). -/
def execFabricCadd (c : CtxId) (col row : Nat) (s : State) : Host.Outcome State Fault Refusal :=
  .next (fabricStep s c col row (fun w => cfgOp w == 0x20) fireCompute)

/-- POPC (Table 8.5). -/
def execFabricPopc (c : CtxId) (col row : Nat) (s : State) : Host.Outcome State Fault Refusal :=
  .next (fabricStep s c col row (fun w => cfgOp w == 0x21) fireCompute)

/-- CLZ (Table 8.5). -/
def execFabricClz (c : CtxId) (col row : Nat) (s : State) : Host.Outcome State Fault Refusal :=
  .next (fabricStep s c col row (fun w => cfgOp w == 0x22) fireCompute)

/-- RINT (Table 8.5). -/
def execFabricRint (c : CtxId) (col row : Nat) (s : State) : Host.Outcome State Fault Refusal :=
  .next (fabricStep s c col row (fun w => cfgOp w == 0x23) fireCompute)

/-- COPYSIGN (Table 8.5). -/
def execFabricCopysign (c : CtxId) (col row : Nat) (s : State) : Host.Outcome State Fault Refusal :=
  .next (fabricStep s c col row (fun w => cfgOp w == 0x24) fireCompute)

/-- LANEID (Table 8.5). -/
def execFabricLaneid (c : CtxId) (col row : Nat) (s : State) : Host.Outcome State Fault Refusal :=
  .next (fabricStep s c col row (fun w => cfgOp w == 0x25) fireCompute)

/-- RSCAN (Table 8.7). -/
def execFabricRscan (c : CtxId) (col row : Nat) (s : State) : Host.Outcome State Fault Refusal :=
  .next (fabricStep s c col row (fun w => cfgOp w == 0x26) fireCompute)

/-- ABSDIFF (Table 8.5). -/
def execFabricAbsdiff (c : CtxId) (col row : Nat) (s : State) : Host.Outcome State Fault Refusal :=
  .next (fabricStep s c col row (fun w => cfgOp w == 0x27) fireCompute)

/-- CVT (R209). -/
def execFabricCvt (c : CtxId) (col row : Nat) (s : State) : Host.Outcome State Fault Refusal :=
  .next (fabricStep s c col row (fun w => cfgOp w == 0x40) fireCompute)

/-- CVT.BF16 (R210). -/
def execFabricCvtBf16 (c : CtxId) (col row : Nat) (s : State) : Host.Outcome State Fault Refusal :=
  .next (fabricStep s c col row (fun w => cfgOp w == 0x41) fireCompute)

/-- CVT.FP16 (R210). -/
def execFabricCvtFp16 (c : CtxId) (col row : Nat) (s : State) : Host.Outcome State Fault Refusal :=
  .next (fabricStep s c col row (fun w => cfgOp w == 0x42) fireCompute)

/-- CVT.I8 (R210). -/
def execFabricCvtI8 (c : CtxId) (col row : Nat) (s : State) : Host.Outcome State Fault Refusal :=
  .next (fabricStep s c col row (fun w => cfgOp w == 0x43) fireCompute)

/-- CVT.SDB decode (R212). -/
def execFabricCvtSdbDecode (c : CtxId) (col row : Nat) (s : State) : Host.Outcome State Fault Refusal :=
  .next (fabricStep s c col row (fun w => cfgOp w == 0x48 && cfgMod w == 0) fireSdbDecode)

/-- CVT.SDB encode (R213). -/
def execFabricCvtSdbEncode (c : CtxId) (col row : Nat) (s : State) : Host.Outcome State Fault Refusal :=
  .next (fabricStep s c col row (fun w => cfgOp w == 0x48 && cfgMod w == 1) fireSdbEncode)

/-- EXP2 (R214). -/
def execFabricExp2 (c : CtxId) (col row : Nat) (s : State) : Host.Outcome State Fault Refusal :=
  .next (fabricStep s c col row (fun w => cfgOp w == 0x50) fireCompute)

/-- RCP (R214). -/
def execFabricRcp (c : CtxId) (col row : Nat) (s : State) : Host.Outcome State Fault Refusal :=
  .next (fabricStep s c col row (fun w => cfgOp w == 0x51) fireCompute)

/-- RSQ (R214). -/
def execFabricRsq (c : CtxId) (col row : Nat) (s : State) : Host.Outcome State Fault Refusal :=
  .next (fabricStep s c col row (fun w => cfgOp w == 0x52) fireCompute)

/-- SIG (R214). -/
def execFabricSig (c : CtxId) (col row : Nat) (s : State) : Host.Outcome State Fault Refusal :=
  .next (fabricStep s c col row (fun w => cfgOp w == 0x53) fireCompute)

/-- SEL (Table 8.10). -/
def execFabricSel (c : CtxId) (col row : Nat) (s : State) : Host.Outcome State Fault Refusal :=
  .next (fabricStep s c col row (fun w => cfgOp w == 0x60) fireSel)

/-- STEER (Table 8.10). -/
def execFabricSteer (c : CtxId) (col row : Nat) (s : State) : Host.Outcome State Fault Refusal :=
  .next (fabricStep s c col row (fun w => cfgOp w == 0x61) fireSteer)

/-- MERGE (Table 8.10). -/
def execFabricMerge (c : CtxId) (col row : Nat) (s : State) : Host.Outcome State Fault Refusal :=
  .next (fabricStep s c col row (fun w => cfgOp w == 0x62) fireMerge)

/-- CARRY (R217). -/
def execFabricCarry (c : CtxId) (col row : Nat) (s : State) : Host.Outcome State Fault Refusal :=
  .next (fabricStep s c col row (fun w => cfgOp w == 0x63) fireCarry)

/-- INVAR (R218). -/
def execFabricInvar (c : CtxId) (col row : Nat) (s : State) : Host.Outcome State Fault Refusal :=
  .next (fabricStep s c col row (fun w => cfgOp w == 0x64) fireInvar)

/-- CTR (R219). -/
def execFabricCtr (c : CtxId) (col row : Nat) (s : State) : Host.Outcome State Fault Refusal :=
  .next (fabricStep s c col row (fun w => cfgOp w == 0x65) fireCtr)

/-- DROP (Table 8.10). -/
def execFabricDrop (c : CtxId) (col row : Nat) (s : State) : Host.Outcome State Fault Refusal :=
  .next (fabricStep s c col row (fun w => cfgOp w == 0x66) fireDrop)

/-- SINK (Table 8.10). -/
def execFabricSink (c : CtxId) (col row : Nat) (s : State) : Host.Outcome State Fault Refusal :=
  .next (fabricStep s c col row (fun w => cfgOp w == 0x67) fireSink)

/-- EOSGEN (Table 8.10). -/
def execFabricEosgen (c : CtxId) (col row : Nat) (s : State) : Host.Outcome State Fault Refusal :=
  .next (fabricStep s c col row (fun w => cfgOp w == 0x68) fireEosgen)

/-- FILT (Table 8.10). -/
def execFabricFilt (c : CtxId) (col row : Nat) (s : State) : Host.Outcome State Fault Refusal :=
  .next (fabricStep s c col row (fun w => cfgOp w == 0x69) fireFilt)

/-- ONCE (Table 8.10). -/
def execFabricOnce (c : CtxId) (col row : Nat) (s : State) : Host.Outcome State Fault Refusal :=
  .next (fabricStep s c col row (fun w => cfgOp w == 0x6A) fireOnce)

/-- QPOP (R222). -/
def execFabricQpop (c : CtxId) (col row : Nat) (s : State) : Host.Outcome State Fault Refusal :=
  .next (fabricStep s c col row (fun w => cfgOp w == 0x80) fireQpop)

/-- QPUSH (R222, R223). -/
def execFabricQpush (c : CtxId) (col row : Nat) (s : State) : Host.Outcome State Fault Refusal :=
  .next (fabricStep s c col row (fun w => cfgOp w == 0x81) (fun env r i => firePush env r i false))

/-- BQPUSH (R222, R223). -/
def execFabricBqpush (c : CtxId) (col row : Nat) (s : State) : Host.Outcome State Fault Refusal :=
  .next (fabricStep s c col row (fun w => cfgOp w == 0x82) (fun env r i => firePush env r i true))

/-- QPEEK (R222). -/
def execFabricQpeek (c : CtxId) (col row : Nat) (s : State) : Host.Outcome State Fault Refusal :=
  .next (fabricStep s c col row (fun w => cfgOp w == 0x83) fireQpeek)

/-- BUF (R224). -/
def execFabricBuf (c : CtxId) (col row : Nat) (s : State) : Host.Outcome State Fault Refusal :=
  .next (fabricStep s c col row (fun w => cfgOp w == 0x90) fireBuf)

/-- ROUTE (R224). -/
def execFabricRoute (c : CtxId) (col row : Nat) (s : State) : Host.Outcome State Fault Refusal :=
  .next (fabricStep s c col row (fun w => cfgOp w == 0x91) fireRoute)

/-- SAFEED (R226). -/
def execFabricSafeed (c : CtxId) (col row : Nat) (s : State) : Host.Outcome State Fault Refusal :=
  .next (fabricStep s c col row (fun w => cfgOp w == 0xA1) fireSafeed)

/-- SAREAD (R227). -/
def execFabricSaread (c : CtxId) (col row : Nat) (s : State) : Host.Outcome State Fault Refusal :=
  .next (fabricStep s c col row (fun w => cfgOp w == 0xA2) fireSaread)

/-- NORM (R227). -/
def execFabricNorm (c : CtxId) (col row : Nat) (s : State) : Host.Outcome State Fault Refusal :=
  .next (fabricStep s c col row (fun w => cfgOp w == 0xA3) fireNorm)

/-- TRACE (R228). -/
def execFabricTrace (c : CtxId) (col row : Nat) (s : State) : Host.Outcome State Fault Refusal :=
  .next (fabricStep s c col row (fun w => cfgOp w == 0xC0) fireOf)

/-- TRCNT (R228). -/
def execFabricTrcnt (c : CtxId) (col row : Nat) (s : State) : Host.Outcome State Fault Refusal :=
  .next (fabricStep s c col row (fun w => cfgOp w == 0xC1) fireOf)

end Sys2Proof.Machine
end

