-- ==== Sys2Proof/Machine/Matrix.lean ====
section
/-! DEFINITION. Matrix commands: MQ, MQ.NB, MQCAN and WAITB (R233, R240, R241, R386), and what an SA block does with the
commands of its queue (R230, R234 to R239, R291 to R303, R314), one step per event. -/

namespace Sys2Proof.Machine

/-! ## Enqueuing (R233, R386) -/

/-- The 128-bit command of x[X] and x[X+1]. -/
def commandOf (s : State) (x : Nat) : Nat := (s.me.getX x).toNat + 2 ^ 64 * (s.me.getX (x + 1)).toNat

/-- A command joins SA k's queue; an MMULP takes its number among those of its SA (R300). -/
def Region.enqueue (r : Region) (k w seq : Nat) (c : CtxId) : Region :=
  r.modSa k (fun a =>
    { a with queue := a.queue ++ [⟨w, false, false, if mcMop w = 3 then some a.pairN else none, seq, c, none⟩]
             pairN := if mcMop w = 3 then a.pairN + 1 else a.pairN })

/-- The MBARs left at the head of a sealed SA's queue enter their records while their barriers have room (R241, R383). -/
def Region.flushMbars (r : Region) (k : Nat) : Nat → Region
  | 0 => r
  | fuel + 1 =>
    match (r.sa k).bind (fun a => a.queue.head?) with
    | some c => if (r.cbOf (mcBar c.w)).length < 4 then (r.enterRecord k 0 c.cancelled).flushMbars k fuel else r
    | none => r

/-- A command named to a sealed region: it completes at once in CANCEL, an MBAR with its record (R386). -/
def Region.turnAway (r : Region) (fc k w seq : Nat) (c : CtxId) : Region :=
  match r.sa k with
  | none => r
  | some a => (r.enqueue k w seq c).cancelAt fc k a.queue.length

/-- MQ, or MQ.NB with its predicate. The word `i` is what BADOP reports. -/
def mqWord (s : State) (i : Instr) (x : Nat) (nb : Option Nat) : State :=
  let w := commandOf s x
  let k := mcSa w
  match s.me.region with
  | none => trapWord s 0x01 i
  | some r =>
    if !mcOk w r.sas.length then trapWord s 0x01 i
    else
      let r := if r.sealed then r.flushMbars k 16 else r
      let full : Option Wait :=
        if r.sealed then (if mcMop w = 5 && decide (4 ≤ (r.cbOf (mcBar w)).length) then some (.barrierFull (mcBar w)) else none)
        else if 16 ≤ ((r.sa k).map (fun a => a.queue.length)).getD 0 then some (.mqFull k) else none
      let s := s.modMe (fun c => c.setRegion r)
      -- MQ.NB never waits, not for the owner of a region that holds a buffered store either
      let ordered := if nb.isSome then releaseNow s else release s
      match full, nb with
      | some wt, none => waitFor s wt
      | some _, some pd => finish s 4 1 (.p pd false)
      | none, _ =>
        ordered (fun s =>
          match s.me.region with
          | none => s
          | some r =>
            let seq := (s.core s.myCore).ixSeq
            let r := if r.sealed then r.turnAway s.fc k w seq s.cur else r.enqueue k w seq s.cur
            let s := (s.modMe (fun c => c.setRegion (r.noteReady s.fc))).modCore s.myCore (fun c => { c with ixSeq := c.ixSeq + 1 })
            match nb with
            | some pd => finish s 4 1 (.p pd true)
            | none => retire s 4)

/-- MQ (R233). -/
def execMq (p : Pred) (x : BitVec 5) (s : State) : Host.Outcome State Fault Refusal :=
  .next (word s p (fun s => mqWord s (.mq p x) x.toNat none))

/-- MQ.NB (R233). -/
def execMqNb (p : Pred) (pd : BitVec 3) (x : BitVec 5) (s : State) : Host.Outcome State Fault Refusal :=
  .next (word s p (fun s => mqWord s (.mqNb p pd x) x.toNat (some pd.toNat)))

/-- MQCAN in a region: the commands removed, then CLR (R241). A command that the signals of those removed make ready
stands before CLR. -/
def Region.mqcan (r : Region) (fc f v : Nat) : Region :=
  let sf := bitOf v 7
  let sel := if bitOf v 6 then List.range r.sas.length else [bitsOf v 0 6]
  let r := (sel.foldl (fun r k => r.cancelFrom fc k (fun c => !sf || (mcSen c.w && mcSsem c.w == f)) 33 0) r).noteReady fc
  (if !bitOf v 8 then r else if sf then { r with sem := SMap.set r.sem f (0, false) } else { r with sem := [] }).noteReady fc

/-- MQCAN (R241, R386). -/
def execMqcan (p : Pred) (f : BitVec 4) (x : BitVec 5) (s : State) : Host.Outcome State Fault Refusal :=
  .next (word s p (fun s =>
    let v := (s.x x).toNat
    let all := bitOf v 6
    let n := match s.me.region with | some r => r.sas.length | none => 0
    if bitsOf v 9 55 != 0 || (!all && decide (n ≤ bitsOf v 0 6)) then trap s 0x13 v
    else
      match s.me.region with
      | none => retire s 4
      | some r => retire (s.modMe (fun c => c.setRegion (r.mqcan s.fc f.toNat v))) 4))

/-- WAITB (R240). Consuming a record acquires. -/
def execWaitb (p : Pred) (b : BitVec 4) (x : BitVec 5) (s : State) : Host.Outcome State Fault Refusal :=
  .next (word s p (fun s =>
    match s.me.region with
    | none => trap s 0x13 b.toNat
    | some r =>
      if r.sas.isEmpty then trap s 0x13 b.toNat
      else
        match r.cbOf b.toNat with
        | [] => waitFor s (.waitb b.toNat)
        | rec' :: rest =>
          if rec' % 4 = 1 then
            let s := s.modMe (fun c => c.setRegion { r with cb := SMap.set r.cb b.toNat ((rec' + 2) :: rest) })
            if bitsOf rec' 8 8 = 0x31 then trap s 0x31 (bitsOf rec' 16 6) else trap s 0x30 rec'
          else
            finish (acquire (s.modMe (fun c => c.setRegion { r with cb := SMap.set r.cb b.toNat rest }))) 4 1
              (.x x.toNat (wordOf rec'))))

/-! ## Taking up a command -/

/-- Replaces the region of context c; the commands that the change makes ready are marked (R230). -/
def putRegion (s : State) (c : CtxId) (r : Region) : State := s.modCtx c (fun x => x.setRegion (r.noteReady s.fc))

/-- An SA command has advanced: the region, and the job on the die, have moved in this fc (R265, R266). -/
def saMoved (s s' : State) (c : CtxId) : State :=
  if (s.ctx c).region = (s'.ctx c).region then s'
  else
    noteMove (s'.modCtx c (fun x =>
      match x.region with
      | some r => x.setRegion { r with moved := some s.fc }
      | none => x)) c

/-- A queue step of SA k of the region of context c, for the first command of an opcode that may run: `run` acts on a
started command; `start` is what its beginning does once it is ready. A frozen group starts and advances nothing; a
draining one starts nothing; in a sealed region only MBARs are left (R314, R383, R387). DEDUCED (log 145): a cancelled MBAR that was
kept for a full barrier enters once the barrier has room and no started command stands before it. -/
def saStep (s : State) (c : CtxId) (k mop : Nat) (start run : Region → Sa → Nat → SaCmd → State) : State :=
  match (s.ctx c).region with
  | none => s
  | some r =>
    match r.sa k with
    | none => s
    | some a =>
      match a.runnable mop with
      | none => s
      | some (i, cmd) =>
        let s' :=
          if frozen s c || (r.sealed && mop != 5) then s
          else if cmd.started then run r a i cmd
          else if cmd.cancelled then putRegion s c (r.enterRecord k i true)
          else if draining s c then s
          else
            match cmd.ready with
            | none => s
            | some (abt, _) => if abt then putRegion s c (r.cancelAt s.fc k i) else start r a i cmd
        saMoved s s' c

/-- Marks the command at place `i` of SA k started. -/
def Region.startAt (r : Region) (k i : Nat) (f : Sa → Sa) : Region :=
  r.modSa k (fun a =>
    match a.queue[i]? with
    | some c => f { a with queue := listSet a.queue i { c with started := true } }
    | none => a)

/-- MZERO (R234): it completes in the step that starts it. -/
def execMzero (c : CtxId) (sa : Nat) (s : State) : Host.Outcome State Fault Refusal :=
  let act (r : Region) (a : Sa) (i : Nat) (cmd : SaCmd) : State :=
    let bank := mcAcc cmd.w
    let a := { a.zeroBank bank with accUe := a.accUe.filter (fun e => e / 128 != bank) }
    putRegion s c ((r.setSa sa a).complete sa i .ok)
  .next (saStep s c sa 0 act act)

/-! ## MLOADB (R236, R295 to R297, R302) -/

/-- The GA of block `blk` of column j's slice of a die's SA block. -/
def sliceGa (d : DieId) (index j blk : Nat) : Nat := mkGa d 4 (index * 2 ^ 21 + j * 2 ^ 14 + 64 * blk)

/-- Whether a bank group of a die's weight store is under refresh now: group g from 4g µs to 4g + 1.5 µs of each
period of 64 µs (R16, R296). The time alone decides. -/
def inWindow (s : State) (d : DieId) (g : Nat) : Bool :=
  match (s.die d).refresh with
  | none => false
  | some t => let at' := (s.now - t) % 128000; decide (8000 * g ≤ at') && decide (at' < 8000 * g + 3000)

/-- A read of a GA meets a refresh window. -/
def refreshing (s : State) (g : Nat) : Bool :=
  gaSpace g == 3 && inWindow s (gaDie g) (bitsOf g 25 4)

/-- A POISON block (R41). -/
def poisonBlock : List Byte := 0xFF :: List.replicate 63 0

/-- One block of a started MLOADB: the 64 bytes at source + 64 × (128n + j) go to block BOFF + n of column j. A source whose package has
been fenced since ends the command in FENCED (R27), at the KSTEP that R236 gives a fenced source (log 136). -/
def loadBlock (s : State) (c : CtxId) (sa : Nat) (r : Region) (a : Sa) (i : Nat) (cmd : SaCmd) : State :=
  let g := mcSource cmd.w + 64 * a.load
  if spBlocked s c cmd.seq cmd.ranges then s
  else if fenced s (pkgOf (dieOf c)) .mloadb g 64 then
    let (code, kstep) := a.loadErr.getD (0x51, 0)
    putRegion s c ((r.setSa sa { a with load := 0, loadErr := none }).complete sa i (.err code kstep))
  else if refreshing s g then s
  else
    let s := if gaSpace g = 2 then coherentRead s (coreOf c) g 64 else s
    let bad := hasUe s g 64
    let n := a.load / 128
    let dst := sliceGa (dieOf c) a.index (a.load % 128) (mcBoff cmd.w + n)
    let s := { s with mem := Mem.setBytes s.mem dst (if bad then poisonBlock else s.bytesAt g 64) }
    let err := firstErr a.loadErr (if bad then some (0x50, n) else none)
    if a.load + 1 < 128 * mcNblk cmd.w then putRegion s c (r.setSa sa { a with load := a.load + 1, loadErr := err })
    else
      putRegion s c ((r.setSa sa { a with load := 0, loadErr := none }).complete sa i
        (match err with | some (code, k) => .err code k | none => .ok))

/-- MLOADB: the step that starts it checks the source; each later step moves one block, in ascending n and j. DESIGN CHOICE
(log 121): of a source that is both misaligned and not admitted ALIGN is reported. -/
def execMloadb (c : CtxId) (sa : Nat) (s : State) : Host.Outcome State Fault Refusal :=
  .next (saStep s c sa 1
    (fun r _ i cmd =>
      let g := mcSource cmd.w
      if g % 64 != 0 then putRegion s c (r.complete sa i (.err 0x14 0))
      else if fenced s (pkgOf (dieOf c)) .mloadb g (8192 * mcNblk cmd.w) then putRegion s c (r.complete sa i (.err 0x51 0))
      else putRegion s c (r.startAt sa i (fun a => { a with load := 0, loadErr := none })))
    (loadBlock s c sa))

/-- REFRESH_WINDOW_START: a bank group becomes unavailable for its window (R296); the die notes it. -/
def execRefreshWindowStart (d : DieId) (g : BitVec 4) (s : State) : Host.Outcome State Fault Refusal :=
  .next (if inWindow s d g.toNat && !(s.die d).inRefresh.contains g.toNat then
      s.modDie d (fun x => { x with inRefresh := x.inRefresh ++ [g.toNat] })
    else s)

/-- REFRESH_WINDOW_END (R296). -/
def execRefreshWindowEnd (d : DieId) (g : BitVec 4) (s : State) : Host.Outcome State Fault Refusal :=
  .next (if inWindow s d g.toNat then s else s.modDie d (fun x => { x with inRefresh := x.inRefresh.erase g.toNat }))

/-! ## MMUL and MMULP (R235, R237, R239, R291, R301, R303) -/

/-- The halves of a running multiply: its SA and its place in the queue. -/
abbrev Halves := List (Nat × Nat)

/-- A B block met at fetch in an SA whose B format is `fmt`: its operand elements, and whether it is malformed. A B format is
never 2:4 (R225), so a malformed 2:4 block (R45, R226) is always of another code: it reads as zeros and counts. DESIGN
CHOICE (log 117): any other B block of a valid code that is not the B format decodes as poisoned, as R235 says of A
blocks. -/
def fetchB (fmt : Nat) (b : List Byte) : List Elem × Bool :=
  let code := blkField b 0 1
  if code != fmt && blkField b 1 1 != 255 && blkMalformed code b then (List.replicate (blkLogical fmt) .zero, true)
  else (fetchOperand fmt b, (blkDecode fmt b).2)

/-- The B blocks of a K-block, by column, as fetch decodes them. -/
def bBlocks (s : State) (d : DieId) (a : Sa) (w kb : Nat) : List (List (List Elem × Bool)) :=
  (List.range 128).map (fun j => (List.range a.blocksPer).map (fun t =>
    fetchB a.bfmt (s.bytesAt (sliceGa d a.index j ((mcBoff w + kb * a.blocksPer + t) % 256)) 64)))

/-- The decoded elements of every column for a K-block. -/
def bElems (s : State) (d : DieId) (a : Sa) (w kb : Nat) : List (List Elem) :=
  (bBlocks s d a w kb).map (fun col => col.flatMap (fun b => b.1))

/-- The malformed B blocks of a K-block, counted when its first row is worked. -/
def bMalformed (s : State) (d : DieId) (a : Sa) (w kb : Nat) : Nat :=
  if a.rowK.any (fun e => decide (kb < e.2)) then 0
  else ((bBlocks s d a w kb).map (fun col => (col.filter (fun b => b.2)).length)).foldl (· + ·) 0

/-- Some B block of a K-block meets an uncorrectable error. -/
def bFault (s : State) (d : DieId) (a : Sa) (w kb : Nat) : Bool :=
  (List.range 128).any (fun j => (List.range a.blocksPer).any (fun t =>
    hasUe s (sliceGa d a.index j ((mcBoff w + kb * a.blocksPer + t) % 256)) 64))

/-- The command of a half. -/
def Region.halfCmd (r : Region) (h : Nat × Nat) : Option (Sa × SaCmd) :=
  (r.sa h.1).bind (fun a => (a.queue[h.2]?).map (fun c => (a, c)))

/-- The rows of the banks in use that hold an accumulator word in error. -/
def Region.ueRows (r : Region) (hs : Halves) : List Nat :=
  hs.flatMap (fun h =>
    match r.halfCmd h with
    | some (a, c) => (a.accUe.filter (fun e => e / 128 == mcAcc c.w)).map (fun e => e % 128)
    | none => [])

/-- The steps of the A blocks that stand decoded for K-block kb, in every half: a fetch fault in any half ends the command
or the pair before a step is taken (R237, R239), answered by `error`; else each half has had them, and the malformed B
blocks it met are answered. -/
def stepKblock (s : State) (d : DieId) (r : Region) (hs : Halves) (lead kb : Nat) : Except Region (Region × Nat) :=
  let bad := hs.any (fun h => match r.halfCmd h with | some (a, c) => bFault s d a c.w kb | none => false)
  let rows := r.ueRows hs
  if bad then .error (r.failRun lead 0x50 kb (List.range 128))
  else if !rows.isEmpty then .error (r.failRun lead 0x50 kb rows)
  else
    .ok (hs.foldl (fun x h =>
      match x.1.halfCmd h with
      | none => x
      | some (a, c) => (x.1.setSa h.1 (a.applyBlock c.w kb (bElems s d a c.w kb)), x.2 + bMalformed s d a c.w kb)) (r, 0))

/-- K-block kb of every half, when all its A blocks are there: it is worked, and the last one completes the command. The
malformed B blocks met are answered with the region. -/
def applyKblock (s : State) (d : DieId) (r : Region) (hs : Halves) (lead kb : Nat) : Region × Nat :=
  match stepKblock s d r hs lead kb with
  | .error r => (r, 0)
  | .ok (r, mal) =>
    (hs.foldl (fun r h =>
      match r.halfCmd h with
      | none => r
      | some (a, c) =>
        if kb + 1 < mcKb c.w then r
        else (r.setSa h.1 { a.idle with pair := if mcMop c.w = 3 then .done else a.pair }).complete h.1 h.2 .ok) r, mal)

/-- The next block at or after block n that a command owes on port p, of `total`. -/
def owedOn (apm n total p : Nat) : Option Nat :=
  let ps := apmPorts apm
  ((List.range ps.length).map (fun i => n + i)).find? (fun m => ps.getD (m % ps.length) 3 == p && decide (m < total))

/-- Enters an end by the block it stands in place of, before the ends already entered of the same block. -/
def enterEnd (e : Nat × Nat × Nat) : List (Nat × Nat × Nat) → List (Nat × Nat × Nat)
  | [] => [e]
  | f :: l => if e.1 ≤ f.1 then e :: f :: l else f :: enterEnd e l

/-- The ports at whose heads an end token stands in place of a block owed: the block and the cause, lowest block
first (R303). -/
def portEnds (a : Sa) (fc apm n total : Nat) : List (Nat × Nat × Nat) :=
  ((apmPorts apm).filterMap (fun p =>
    match (a.port p).head?, owedOn apm n total p with
    | some t, some m => if t.kind = .data || !t.here fc then none else some (m, p, if t.kind = .eeos then 0x20 else 0x13)
    | _, _ => none)).foldr enterEnd []

/-- The end that cuts the command short now: every block owed of lower K-blocks has been taken. -/
def endNow (a : Sa) (fc apm n total : Nat) : Option (Nat × Nat × Nat) :=
  match portEnds a fc apm n total with
  | e :: _ => if 128 * (e.1 / 128) ≤ n then some e else none
  | [] => none

/-- Saturating MBCNT. -/
def Region.countMalformed (r : Region) (n : Nat) : Region := { r with mbcnt := satAdd 32 r.mbcnt n }

/-- A started multiply takes its next A block from the ports of SA `ports`: every half gets it, and the 128th of a
K-block applies the K-block. A malformed block, A or B, counts in MBCNT; under MEOS it faults the region MALF (R226). DESIGN CHOICE
(log 143): an A block that both halves of a pair share counts once for each half whose A format makes it malformed. A draining
group takes no block of a K-block not yet begun (R314). -/
def mulBlock (s : State) (c : CtxId) (r : Region) (lead ports : Nat) (hs : Halves) : State :=
  match r.sa ports, r.sa lead, hs.findSome? (fun h => (r.halfCmd h).map (fun x => x.2.w)) with
  | some pa, some a, some w =>
    let apm := mcApm w
    let n := a.n
    let total := 128 * mcKb w
    let ps := apmPorts apm
    let p := ps.getD (n % ps.length) 3
    if (endNow pa s.fc apm n total).isSome || (draining s c && n % 128 == 0) then s
    else
      match pa.port p with
      | t :: ts =>
        if t.kind != .data || !t.here s.fc then s
        else
          let b := laneBytes t.lanes
          let r := r.modSa ports (fun a => a.setPort p ts)
          let mal := (hs.filter (fun h => match r.sa h.1 with | some a => (blkDecode a.afmt b).2 | none => false)).length
          let r := hs.foldl (fun r h => r.modSa h.1 (fun a => { a with n := n + 1, ablk := SMap.set a.ablk (n % 128) b })) r
          let r := { r with moved := some s.fc }
          let (r, malB) := if (n + 1) % 128 = 0 then applyKblock s (dieOf c) r hs lead (n / 128) else (r, 0)
          let s := noteMove (putRegion s c (r.countMalformed (mal + malB))) c
          if 0 < mal + malB && r.meos then sealRegion s c 5 else s
      | [] => s
  | _, _, _ => s

/-- MMUL: the step that starts it checks the formats (R235); each later step takes one A block. -/
def execMmul (c : CtxId) (sa : Nat) (s : State) : Host.Outcome State Fault Refusal :=
  .next (saStep s c sa 2
    (fun r a i _ =>
      if blkLogical a.afmt % blkLogical a.bfmt != 0 then putRegion s c (r.complete sa i (.err 0x13 0))
      else putRegion s c (r.startAt sa i Sa.idle))
    (fun r _ i _ => mulBlock s c r sa sa [(sa, i)]))

/-- The halves of a running pair, SA0's ports first (R237). -/
def Region.pairHalves (r : Region) (k i : Nat) : Nat × Halves :=
  match r.partner k, r.sa k with
  | some (j, o), some a =>
    (if a.index ≤ o.index then k else j, (k, i) :: (match o.mulPlace with | some p => [(j, p)] | none => []))
  | _, _ => (k, [(k, i)])

/-- A pair agrees (R237). -/
def pairAgrees (a o : Sa) (w v : Nat) : Bool :=
  mcKb w == mcKb v && mcApm w == mcApm v && blkLogical a.afmt % blkLogical a.bfmt == 0
    && blkLogical o.afmt % blkLogical o.bfmt == 0

/-- Both halves of a pair end in ERR without starting. -/
def Region.errPair (r : Region) (k i j p code : Nat) : Region :=
  let bad (r : Region) (k i : Nat) : Region := (r.modSa k (fun a => { a with pair := .errd })).complete k i (.err code 0)
  bad (bad r k i) j p

/-- An MMULP that stands ready (Table 14.4): it follows a half that was cancelled or timed out; without a partner SA the
pair cannot agree; with its partner ready too, agreement decides, or the ABT that the partner met; else it waits, with the timer
running. DEDUCED (log 137): the other half of a cancelled pair completes in CANCEL once it stands ready, as Table 14.4 says, not on
reaching its queue's head alone (R237). -/
def pairReady (s : State) (c : CtxId) (k : Nat) (r : Region) (a : Sa) (i : Nat) (cmd : SaCmd) : State :=
  let n := cmd.num.getD 0
  let bad (r : Region) (code : Nat) : Region := (r.modSa k (fun a => { a with pair := .errd })).complete k i (.err code 0)
  if a.pairCancel.contains n then
    putRegion s c ((r.setSa k { a with pair := .cand, pairCancel := a.pairCancel.erase n }).complete k i .cancel)
  else if a.pairErr.contains n then putRegion s c (bad (r.setSa k { a with pairErr := a.pairErr.erase n }) 0x31)
  else
    match r.partner k with
    | none => putRegion s c (bad r 0x13)
    | some (j, o) =>
      match (o.pairPlace n).bind (fun p => (o.queue[p]?).map (fun q => (p, q))) with
      | none =>
        if a.pair = .wait then s else putRegion s c (r.setSa k { a with pair := .wait, pairSince := cmd.readyAt })
      | some (p, q) =>
        if pairLate cmd q then putRegion s c (r.errPair k i j p 0x31)
        else if q.abt then putRegion s c (r.cancelPair s.fc k i)
        else if pairAgrees a o cmd.w q.w then
          let go (a : Sa) : Sa := { a.idle with pair := .run }
          putRegion s c ((r.startAt k i go).startAt j p go)
        else putRegion s c (r.errPair k i j p 0x13)

/-- MMULP. -/
def execMmulp (c : CtxId) (sa : Nat) (s : State) : Host.Outcome State Fault Refusal :=
  .next (saStep s c sa 3 (pairReady s c sa)
    (fun r _ i _ => let h := r.pairHalves sa i; mulBlock s c r sa h.1 h.2))

/-- The half at place `i` of SA k has waited 65,536 fc: it completes ERR PAIRTO, and its partner the same way, at once when
it stands ready, else when it does (Table 14.4). -/
def Region.pairTimeout (r : Region) (k i : Nat) (cmd : SaCmd) : Region :=
  let n := cmd.num.getD 0
  match r.partner k with
  | none => (r.modSa k (fun a => { a with pair := .errd })).complete k i (.err 0x31 0)
  | some (j, o) =>
    match o.pairPlace n with
    | some p => r.errPair k i j p 0x31
    | none =>
      ((r.modSa k (fun a => { a with pair := .errd })).complete k i (.err 0x31 0)).modSa j (fun o =>
        { o with pairErr := o.pairErr ++ [n] })

/-- PAIR_TIMEOUT: 65,536 fc after the first half stood ready, both complete ERR PAIRTO (Table 14.4). -/
def execPairTimeout (c : CtxId) (sa : Nat) (s : State) : Host.Outcome State Fault Refusal :=
  .next (match (s.ctx c).region with
    | none => s
    | some r =>
      match r.sa sa with
      | none => s
      | some a =>
        match a.runnable 3 with
        | none => s
        | some (i, cmd) =>
          if a.pair != .wait || cmd.started || frozen s c || draining s c || decide (s.fc < a.pairSince + 65536)
              || r.pairMet sa cmd then s
          else putRegion s c (r.pairTimeout sa i cmd))

/-- The running multiply that SA k's ports feed: its SA, its halves. -/
def Region.feeds (r : Region) (k : Nat) : Option (Nat × Halves) :=
  (r.sa k).bind (fun a => a.mulPlace.bind (fun i =>
    match a.queue[i]? with
    | none => none
    | some c =>
      if mcMop c.w = 2 then some (k, [(k, i)])
      else
        let h := r.pairHalves k i
        if h.1 = k then some (k, h.2) else none))

/-- A started multiply that has yet to begin owes a block on a port of SA k (R234, R235). -/
def Region.owesFirst (r : Region) (k port : Nat) : Bool :=
  ((List.range r.sas.length).zip r.sas).any (fun e =>
    ((List.range e.2.queue.length).zip e.2.queue).any (fun q =>
      !q.2.started && r.begun e.1 q.2 && (owedOn (mcApm q.2.w) 0 (128 * mcKb q.2.w) port).isSome
        && ((mcMop q.2.w == 2 && e.1 == k) || (mcMop q.2.w == 3 && (r.pairHalves e.1 q.1).1 == k))))

/-- A_PORT_EOS: an end token at the head of a port of an SA. Where no block of a started command is owed it is consumed
and ignored (R235); where one is owed it ends the command once every block of lower K-blocks has been taken (R303). -/
def execAPortEos (c : CtxId) (sa port : Nat) (s : State) : Host.Outcome State Fault Refusal :=
  .next (match (s.ctx c).region with
    | none => s
    | some r =>
      match r.sa sa with
      | none => s
      | some a =>
        match a.port port with
        | [] => s
        | t :: ts =>
          if t.kind = .data || !t.here s.fc || r.sealed || frozen s c || decide (3 ≤ port) || r.owesFirst sa port then s
          else
            let r0 := { r.modSa sa (fun a => a.setPort port ts) with moved := some s.fc }
            let run := (r.feeds sa).bind (fun f => (f.2.findSome? (fun h => (r.halfCmd h).map (fun x => x.2.w))).map (fun w => (f, w)))
            match run with
            | none => noteMove (putRegion s c r0) c
            | some (f, w) =>
              match owedOn (mcApm w) a.n (128 * mcKb w) port with
              | none => noteMove (putRegion s c r0) c
              | some _ =>
                match endNow a s.fc (mcApm w) a.n (128 * mcKb w) with
                | some (m, p, code) =>
                  if p = port then noteMove (putRegion s c (r0.failRun f.1 code (m / 128) (List.range 128))) c else s
                | none => s)

/-! ## MREAD, MRDDIAG, MBAR -/

/-- A read: without an SAREAD site it ends in BOUNDS; once its last quad has entered SAREAD's links it completes, in
MEMUE when a row it read holds a word in error (R234, R301). -/
def readStep (s : State) (c : CtxId) (sa mop : Nat) : State :=
  saStep s c sa mop
    (fun r a i _ =>
      if !a.reader then putRegion s c (r.complete sa i (.err 0x13 0))
      else putRegion s c (r.startAt sa i (fun a => { a with quad := 0, beat := 0 })))
    (fun r a i cmd =>
      if a.quad < readQuads cmd.w then s
      else
        let row (e : Nat) : Bool := e / 128 == mcAcc cmd.w && (mop == 4 || e % 128 == mcRow cmd.w)
        putRegion s c ((r.setSa sa { a with quad := 0, beat := 0 }).complete sa i
          (if a.accUe.any row then .err 0x50 0 else .ok)))

/-- MREAD. -/
def execMread (c : CtxId) (sa : Nat) (s : State) : Host.Outcome State Fault Refusal := .next (readStep s c sa 4)

/-- MRDDIAG. -/
def execMrddiag (c : CtxId) (sa : Nat) (s : State) : Host.Outcome State Fault Refusal := .next (readStep s c sa 6)

/-- MBAR (R238): it enters its record when its barrier has room, and waits at the head of its queue otherwise. -/
def execMbar (c : CtxId) (sa : Nat) (s : State) : Host.Outcome State Fault Refusal :=
  let act (r : Region) (_ : Sa) (i : Nat) (_ : SaCmd) : State := putRegion s c (r.enterRecord sa i false)
  .next (saStep s c sa 5 (fun r a i cmd => act (r.startAt sa i id) a i cmd) act)

end Sys2Proof.Machine
end

