-- ==== Sys2Proof/Machine/Index.lean ====
section
/-! DEFINITION. The index engine: GATH, GATHQ, SCAT, RGATH and NZSCAN (R162 to R169, R307 to R311). A command enters
the engine when its checks have passed; each event performs one row, index or element of it. -/

namespace Sys2Proof.Machine

/-! ## The shape record -/

/-- The index value that every command passes over. -/
def nullIndex : Nat := 0xFFFFFFFF
/-- TGE. -/
def recTagged (r : List Nat) : Bool := bitOf (r.getD 3 0) 63
/-- TAG. -/
def recTag (r : List Nat) : Nat := bitsOf (r.getD 3 0) 57 6
/-- RT. -/
def recRt (r : List Nat) : Rt := rtOf (bitsOf (r.getD 3 0) 42 2)
/-- ZM. -/
def recZm (r : List Nat) : Nat := bitsOf (r.getD 3 0) 40 2
/-- ESZ. -/
def recEsz (r : List Nat) : Nat := bitsOf (r.getD 3 0) 38 2
/-- OOB. -/
def recOob (r : List Nat) : Nat := bitsOf (r.getD 3 0) 36 2
/-- ISRC. -/
def recIsrc (r : List Nat) : Nat := bitsOf (r.getD 3 0) 20 2
/-- FB. -/
def recFb (r : List Nat) : Nat := bitsOf (r.getD 3 0) 16 3
/-- IH. -/
def recIh (r : List Nat) : Nat := bitsOf (r.getD 3 0) 4 4
/-- DH. -/
def recDh (r : List Nat) : Nat := bitsOf (r.getD 3 0) 0 4

/-! ## Issue -/

/-- Whether the command appends to Q (R163). -/
def ixProduces (kind : Nat) : Bool := kind != 2
/-- Whether the command pops from SQ. -/
def ixConsumes (kind : Nat) : Bool := kind == 1 || kind == 2

/-- Check 2 of R164. `op` is the scatter operation, or P of NZSCAN. OOB = 3 is a value that Table 6.7 marks BOUNDS: the model
traps it for NZSCAN too, though R163 has a field that an instruction does not use ignored (log 111). -/
def ixFieldsBad (kind op cnt : Nat) (r : List Nat) : Bool :=
  let w3 := r.getD 3 0
  let listed := kind != 1 && kind != 4
  bitsOf w3 48 9 != 0 || bitsOf w3 22 2 != 0 || bitOf w3 19 || bitsOf w3 8 8 != 0
    || recOob r == 3 || decide (2 ≤ recZm r) || recIsrc r == 3
    || (if listed then recIsrc r == 2 else recIsrc r != 2)
    || (kind == 4 && decide (65536 < cnt)) || (listed && decide (4096 < cnt))
    || (kind == 2 && (op == 2 || op == 6) && rowWords r % 2 == 1)
    || (kind != 4 && (recZm r != 0 || recEsz r != 0))
    || (kind == 2 && !recTagged r)
    || ((kind == 2 || kind == 3) && recDh r != 0)
    || (kind == 4 && op == 1 && recEsz r == 3)

/-- The handle numbers that check 3 looks at, in order. -/
def ixHandles (kind q : Nat) (r : List Nat) : List Nat :=
  (if kind == 0 || kind == 1 || kind == 4 then [recDh r] else [])
    ++ (if recIsrc r == 0 then [recIh r] else []) ++ (if kind == 2 then [q] else [])

/-- The data handle's number: SCAT's is its Q field. -/
def ixDataHandle (kind q : Nat) (r : List Nat) : Nat := if kind = 2 then q else recDh r

/-- Checks 3 and 4 of R164. RGATH skips check 4; NZSCAN, which uses neither EXTENT nor STRIDE, is taken to skip it too
(log 112). No rule gives EVA of check 4's ALIGN: the model leaves BASE, or STRIDE where that is the misaligned one (log 113). -/
def ixHandleCheck (s : State) (kind q : Nat) (r : List Nat) : Except Cause Unit :=
  match (ixHandles kind q r).find? (fun n => !(s.me.getH n).v) with
  | some n => .error (0x12, n)
  | none =>
    let h := s.me.getH (ixDataHandle kind q r)
    let base := r.getD 0 0
    if kind == 2 && !h.w then .error (0x11, h.va (wordOf base))
    else if kind == 2 && h.bnd then .error (0x38, base)
    else if 3 ≤ kind || rowExtent r == 0 then .ok ()
    else if base % 4 != 0 then .error (0x14, base)
    else if rowStride r % 4 != 0 then .error (0x14, rowStride r)
    else if !h.spans (recBase r) ((rowExtent r - 1) * rowStride r + rowBytes r) then .error (0x13, base)
    else .ok ()

/-- R121's checks of `n` four-byte reads from an offset: the first that fails decides. -/
def ixListCheck (h : Handle) (hn : Nat) (off : Int) (n : Nat) : Except Cause Unit :=
  if n = 0 then .ok ()
  else if !h.v then .error (0x12, hn)
  else if ((h.anchor : Int) + off) % 4 != 0 then .error (0x14, unsig 64 off)
  else
    match firstBadRow ((h.anchor : Int) + off) 4 4 n h.pbase (h.pbase + pageBytes h.psize) with
    | some i => .error (0x13, unsig 64 (off + 4 * (i : Nat)))
    | none => .ok ()

/-- Where the index list comes from: handle, its number, offset of the first index, indices. -/
structure IxSource where
  h : Handle
  hn : Nat
  off : Int
  n : Nat
deriving DecidableEq, Repr

/-- The source of check 5, with its checks. GATHQ and NZSCAN have none. -/
def ixSource (s : State) (kind cnt : Nat) (r : List Nat) : Except Cause IxSource :=
  if kind == 1 || kind == 4 then .ok ⟨Handle.invalid, 0, 0, 0⟩
  else if recIsrc r = 0 then
    let a : IxSource := ⟨s.me.getH (recIh r), recIh r, signed 64 (r.getD 2 0), cnt⟩
    match ixListCheck a.h a.hn a.off a.n with
    | .error e => .error e
    | .ok _ => .ok a
  else
    match SMap.find s.me.f (recFb r) with
    | none => .error (0x13, recFb r)
    | some f =>
      let hn := bitsOf (f.record.getD 3 0) 4 4
      if !f.ch.v then .error (0x12, hn) else .ok ⟨f.ch, hn, fibreCrdOff f.record f.cpos, min cnt (f.fin - f.cpos)⟩

/-- The GA of index i of a source. -/
def IxSource.ga (a : IxSource) (i : Nat) : Nat := a.h.ga (a.h.vaAt (a.off + 4 * (i : Nat)))

/-- Reads the list coherently (R35): the indices, or the first read that completes MEMUE or FENCED. -/
def ixList (s : State) (c : CtxId) (a : IxSource) (i : Nat) : Nat → State × Except Cause (List Nat)
  | 0 => (s, .ok [])
  | n + 1 =>
    match engineRead s (coreOf c) (a.ga i) 4 with
    | (s', .error code) => (s', .error (code, a.ga i))
    | (s', .ok bs) =>
      match ixList s' c a (i + 1) n with
      | (s'', .error e) => (s'', .error e)
      | (s'', .ok l) => (s'', .ok (leNat bs :: l))

/-- The wait of an engine's read of a range of `n` bytes that stands in the way of issue. -/
def rangeWait (s : State) (g n : Nat) : Option Wait :=
  (List.range ((g + n - 1) / 128 + 1 - g / 128)).findSome? (fun i => loadWait s ((g / 128 + i) * 128))

/-- The entries of a list against EXTENT (check 5) and, for RGATH, their translations (check 6). No rule gives EVA of the
BOUNDS of a row that crosses a page: the model leaves the row's virtual address, as check 6 does for its other causes (log 114). -/
def ixResolve (s : State) (c : CtxId) (kind : Nat) (dh : Handle) (r : List Nat) : List Nat → Except Cause (List IxRow)
  | [] => .ok []
  | v :: vs =>
    let rest (x : IxRow) : Except Cause (List IxRow) :=
      match ixResolve s c kind dh r vs with
      | .error e => .error e
      | .ok l => .ok (x :: l)
    if v = nullIndex then rest .null
    else if rowExtent r ≤ v then rest .oob
    else if kind = 3 then
      let va := (r.getD 0 0 + v * rowStride r) % 2 ^ 64
      match translate s c va false with
      | .error e => .error e
      | .ok e =>
        if e.va + pageBytes e.psize < va + rowBytes r then .error (0x13, va)
        else rest (.row (e.gbase + (va - e.va)) va e.id)
    else
      let va := dh.vaAt (recBase r + (v * rowStride r : Nat))
      rest (.row (dh.ga va) va dh.entry)

/-- What the translations of RGATH's kept rows read (check 6). -/
def ixGas (s : State) (c : CtxId) (r : List Nat) (l : List Nat) : List Nat :=
  (l.filter (fun v => v != nullIndex && decide (v < rowExtent r))).flatMap (fun v =>
    translateGas s c ((r.getD 0 0 + v * rowStride r) % 2 ^ 64))

/-- The position of the first index out of range under OOB = FAULT (check 5). -/
def ixFault (r : List Nat) (l : List Nat) : Option Nat :=
  if recOob r != 0 then none else l.findIdx? (fun v => v != nullIndex && decide (rowExtent r ≤ v))

/-- Check 7 of R164; EVA is BASE for the range and X for the bias (log 18). -/
def nzscanCheck (s : State) (x cnt : Nat) (r : List Nat) : Except Cause Unit :=
  let h := s.me.getH (recDh r)
  let n := scanBytes r
  if cnt = 0 then .ok ()
  else if ((h.anchor : Int) + recBase r) % n != 0 || !h.spans (recBase r) (cnt * n) then .error (0x13, r.getD 0 0)
  else if nullIndex ≤ bitsOf (r.getD 2 0) 0 32 + cnt - 1 then .error (0x13, x)
  else .ok ()

/-- The completion of an issue (R164, R169): the waits, then the tag, the cursor and the engine. -/
def ixEnter (s : State) (cmd : IxCmd) : State :=
  let k := s.core s.myCore
  let busy : Option Wait :=
    if ixProduces cmd.kind && producerBusy s s.cur cmd.q then some (.behind cmd.q true)
    else if ixConsumes cmd.kind && consumerBusy s s.cur (sqOf cmd.record) then some (.behind (sqOf cmd.record) false)
    else if recTagged cmd.record && k.tagBusy (recTag cmd.record) then some (.tagBusy (recTag cmd.record))
    else if decide (32 ≤ k.ix.length) || decide (8 ≤ (k.ix.filter (fun m => m.owner == s.cur)).length) then some .engineFull
    else none
  match busy with
  | some w => waitFor s w
  | none =>
    release s (fun s =>
      let s := s.modCore s.myCore (fun k =>
        let k := if recTagged cmd.record then k.takeTag (recTag cmd.record) s.cur else k
        { k with ix := k.ix ++ [{ cmd with seq := k.ixSeq }], ixSeq := k.ixSeq + 1 })
      retire (s.modMe (fun c =>
        if (cmd.kind == 0 || cmd.kind == 2 || cmd.kind == 3) && recIsrc cmd.record == 1 then
          match SMap.find c.f (recFb cmd.record) with
          | some f => { c with f := SMap.set c.f (recFb cmd.record) { f with cpos := f.cpos + cmd.rows.length } }
          | none => c
        else c)) 4)

/-- The command of a checked instruction. -/
def newIx (s : State) (kind word : Nat) (r : List Nat) (cnt q flag op : Nat) (a : IxSource) (rows : List IxRow) : IxCmd :=
  { kind := kind, owner := s.cur, asid := s.me.sys.asid, word := word, record := r, cnt := cnt, q := q, flag := flag
    op := op, dh := s.me.getH (ixDataHandle kind q r), ih := a.h, ihn := a.hn, rows := rows, start := unsig 64 a.off
    pos := 0, wpos := 0, popped := [], found := false, arrived := [], bad := [], err := none, seq := 0 }

/-- Checks 1 to 7 of R164 in order, then the issue. -/
def indexWord (s : State) (i : Instr) (kind q x y flag op : Nat) : State :=
  let r := quadOf s x
  let cnt := (s.me.getX y).toNat
  if ixProduces kind && (s.me.boundFor q .produce).isNone then trap s 0x13 q
  else if ixConsumes kind && (s.me.boundFor (sqOf r) .consume).isNone then trap s 0x13 (sqOf r)
  else if ixFieldsBad kind op cnt r then trap s 0x13 x
  else
    match ixHandleCheck s kind q r with
    | .error (code, eva) => trap s code eva
    | .ok _ =>
      match ixSource s kind cnt r with
      | .error (code, eva) => trap s code eva
      | .ok a =>
        let rangeBusy : Option Wait :=
          if a.n = 0 then none
          else if spBlocked s s.cur (s.core s.myCore).ixSeq [(a.ga 0, 4 * a.n, false)] then some (.spOrder (a.ga 0) (4 * a.n))
          else rangeWait s (a.ga 0) (4 * a.n)
        match rangeBusy with
        | some w => waitFor s w
        | none =>
          -- the engine's reads of the list see the context's earlier stores
          settle s (fun _ => a.n != 0) (fun s =>
          match ixList s s.cur a 0 a.n with
          | (s, .error (code, eva)) => trap s code eva
          | (s, .ok l) =>
            match ixFault r l with
            | some p => trap s 0x13 p
            | none =>
              let gas := if kind = 3 then ixGas s s.cur r l else []
              match firstOwned s gas with
              | some w => waitFor s w
              | none =>
                let s := recallReads s s.myCore gas
                match ixResolve s s.cur kind (s.me.getH (ixDataHandle kind q r)) r l,
                      (if kind = 4 then nzscanCheck s x cnt r else .ok ()) with
                | .error (code, eva), _ => trap s code eva
                | .ok _, .error (code, eva) => trap s code eva
                | .ok rows, .ok _ => ixEnter s (newIx s kind ((encode i).getD 0) r cnt q flag op a rows))

/-- GATH (R163, R165). -/
def execGath (p : Pred) (e : Bool) (q : BitVec 4) (x y : BitVec 5) (s : State) : Host.Outcome State Fault Refusal :=
  .next (word s p (fun s => indexWord s (.gath p e q x y) 0 q.toNat x.toNat y.toNat (b2n e) 0))

/-- GATHQ (R163, R166). -/
def execGathq (p : Pred) (e : Bool) (q : BitVec 4) (x y : BitVec 5) (s : State) : Host.Outcome State Fault Refusal :=
  .next (word s p (fun s => indexWord s (.gathq p e q x y) 1 q.toNat x.toNat y.toNat (b2n e) 0))

/-- The number of a scatter operation (Table 6.8). -/
def scatCode : ScatOp → Nat
  | .st => 0 | .addW => 1 | .addD => 2 | .addF32 => 3 | .minW => 4 | .maxW => 5 | .orD => 6

/-- SCAT (R163, R167). -/
def execScat (p : Pred) (op : ScatOp) (h : BitVec 4) (x y : BitVec 5) (s : State) : Host.Outcome State Fault Refusal :=
  .next (word s p (fun s => indexWord s (.scat p op h x y) 2 h.toNat x.toNat y.toNat 0 (scatCode op)))

/-- RGATH (R163, R165). -/
def execRgath (p : Pred) (e : Bool) (q : BitVec 4) (x y : BitVec 5) (s : State) : Host.Outcome State Fault Refusal :=
  .next (word s p (fun s => indexWord s (.rgath p e q x y) 3 q.toNat x.toNat y.toNat (b2n e) 0))

/-- NZSCAN (R163, R168). -/
def execNzscan (p : Pred) (pairs e : Bool) (q : BitVec 4) (x y : BitVec 5) (s : State) :
    Host.Outcome State Fault Refusal :=
  .next (word s p (fun s => indexWord s (.nzscan p pairs e q x y) 4 q.toNat x.toNat y.toNat (b2n e) (b2n pairs)))

/-! ## Steps of the engine -/

/-- Replaces the i-th command of a core. -/
def ixPut (s : State) (k : CoreId) (i : Nat) (c : IxCmd) : State := s.modCore k (fun x => { x with ix := listSet x.ix i c })

/-- The i-th command of a core has ended: its tag clears with its error (R169). -/
def ixDrop (s : State) (k : CoreId) (i : Nat) (c : IxCmd) (err : Option Cause) : State :=
  s.modCore k (fun x =>
    let x := { x with ix := listDrop x.ix i }
    if recTagged c.record then x.clearTag (recTag c.record) err else x)

/-- The command has nothing left to read or pop: EEOS in place of the rest of an errored output, EOS when E = 1, and
the end; it stays while the queue has no room (R165, R169). -/
def ixClose (s : State) (k : CoreId) (i : Nat) (c : IxCmd) : State :=
  match (s.ctx c.owner).endOf c.q with
  | none => ixDrop s k i c c.err
  | some e =>
    if c.err.isNone && c.flag == 0 then ixDrop s k i c none
    else if e.2.room < End.flushNeed e + 1 then ixPut s k i c
    else
      let t := if c.err.isSome then Token.eeos else Token.eos
      ixDrop (s.modCtx c.owner (fun x => x.putEnd c.q (End.enter (End.flush e s.fc) s.fc t))) k i c c.err

/-- The number of a handle of the command whose entry a shoot-down has removed (R308). -/
def IxCmd.shot (c : IxCmd) : Option Nat :=
  let dn := ixDataHandle c.kind c.q c.record
  if c.kind != 3 && !c.dh.v then some dn
  else if c.kind != 1 && c.kind != 4 && recIsrc c.record == 0 && !c.ih.v then some (recIh c.record)
  else none

/-- Lanes that the end takes now, up to `n`. -/
def End.lanesFit (e : End) (n : Nat) : Nat := min n (e.2.room * 16 + 15 - e.1.asm.length)

/-- The first request of a range of bytes that completes FENCED or MEMUE, with the GA of that request: requests are
the 128-byte lines that cover the range (R309). -/
def badRequest (s : State) (k : CoreId) (g n : Nat) : Option Cause :=
  (List.range ((g + n - 1) / 128 + 1 - g / 128)).findSome? (fun i =>
    let a := max g ((g / 128 + i) * 128)
    let b := min (g + n) ((g / 128 + i + 1) * 128)
    match readOut s (pkgOf (dieOfCore k)) .engine a (b - a) with
    | .error code => some (code, a)
    | .ok _ => none)

/-- A row that a gathering command reads must wait (R284, R367). -/
def rowBusy (s : State) (c : IxCmd) (g n : Nat) : Bool :=
  (List.range ((g + n - 1) / 128 + 1 - g / 128)).any (fun i =>
    (readWait s c.asid (recRt c.record) c.dh.nt ((g / 128 + i) * 128)).isSome)

/-- The lanes of bytes, four to a lane. -/
def lanesOfBytes : List Byte → List Lane
  | a :: b :: c :: d :: bs => BitVec.ofNat 32 (leNat [a, b, c, d]) :: lanesOfBytes bs
  | _ => []

/-- Adds to a saturating counter of 64 bits (R307). -/
def bump (v n : Nat) : Nat := satAdd 64 v n

/-- Counts rows appended or written. -/
def countRow (s : State) (k : CoreId) : State := s.modCore k (fun x => { x with ixrows := bump x.ixrows 1 })
/-- Counts a null index. -/
def countNull (s : State) (k : CoreId) : State := s.modCore k (fun x => { x with ixnull := bump x.ixnull 1 })
/-- Counts an index out of range. -/
def countOob (s : State) (k : CoreId) : State := s.modCore k (fun x => { x with ixoob := bump x.ixoob 1 })

/-- What one step of a row gives: the state and the command afterwards, and whether the row is complete. -/
abbrev RowStep := State × IxCmd × Bool

/-- Appends what fits of the current row (R165): a row at a GA, or zeros. A row whose reads fail errs before its first
word is appended (R169). A row longer than the queue's room continues in later steps. -/
def appendRow (s : State) (k : CoreId) (c : IxCmd) (g : Option (Nat × Nat)) : RowStep :=
  match (s.ctx c.owner).endOf c.q with
  | none => (s, c, false)
  | some e =>
    let n := rowWords c.record
    let bad := match g with | some (ga, _) => badRequest s k (ga + 4 * c.wpos) (4 * (n - c.wpos)) | none => none
    match bad with
    | some x => (s, { c with err := some x }, false)
    | none =>
      let m := End.lanesFit e (n - c.wpos)
      let (s, vs) :=
        match g with
        | some (ga, _) =>
          let a := readLines (engineAcquires s k c.dh) k c.asid (recRt c.record) c.dh.nt (ga + 4 * c.wpos) (4 * m) 130
          (a.1, lanesOfBytes a.2)
        | none => (s, List.replicate m 0)
      let s := s.modCtx c.owner (fun x => x.putEnd c.q (End.lanes e s.fc g.isSome vs))
      if c.wpos + m < n then (s, { c with wpos := c.wpos + m }, false)
      else
        let s := match g with | some (_, va) => hotCount s k c.asid va 1 0 | none => s
        (countRow s k, { c with wpos := 0 }, true)

/-- A step on the i-th command of a core: nothing happens while its engine or command stands still, or an earlier
command holds it back in scratchpad. An errored command ends; one whose entry was removed errs HINV (R308). -/
def onCommand (s : State) (k : CoreId) (i kind : Nat) (body : State → IxCmd → State) : State :=
  match (s.core k).ix[i]? with
  | none => s
  | some c =>
    let s' :=
      if c.kind != kind || frozen s c.owner || enginePaused s k (c.seq + 1) || spBlocked s c.owner c.seq c.ranges then s
      else if c.err.isSome && c.kind != 2 then ixClose s k i c
      else
        match c.shot with
        | some n =>
          if kind = 2 then ixDrop s k i c (firstErr c.err (some (0x12, n))) else ixClose s k i { c with err := some (0x12, n) }
        | none => body s c
    if (s.core k).ix = (s'.core k).ix then s' else noteAdvance s' c.owner

/-- Passes over the entries of the list that append nothing, counting them (R165, R307). -/
def skipRows (k : CoreId) : Nat → State → IxCmd → State × IxCmd
  | 0, s, c => (s, c)
  | n + 1, s, c =>
    match c.rows[c.pos]? with
    | some .null => skipRows k n (countNull s k) { c with pos := c.pos + 1 }
    | some .oob => if recOob c.record = 2 then skipRows k n (countOob s k) { c with pos := c.pos + 1 } else (s, c)
    | _ => (s, c)

/-- Ends, keeps or closes a gathering command after a row's step. -/
def gatherNext (s : State) (k : CoreId) (i : Nat) (c : IxCmd) (fin : Bool) : State :=
  if c.err.isSome || fin then ixClose s k i c else ixPut s k i c

/-- GATH_ROW: one row, or zero row, of a GATH (R165). -/
def gathStep (s : State) (k : CoreId) (i : Nat) : State :=
  onCommand s k i 0 (fun s c =>
    let (s, c) := skipRows k c.rows.length s c
    match c.rows[c.pos]? with
    | none => gatherNext s k i c true
    | some (.row g va _) =>
      if rowBusy s c g (rowBytes c.record) then ixPut s k i c
      else
        let (s, c, full) := appendRow s k c (some (g, va))
        let c := if full then { c with pos := c.pos + 1 } else c
        gatherNext s k i c (c.rows.length ≤ c.pos)
    | some _ =>
      let (s, c, full) := appendRow s k c none
      let (s, c) := if full then (countOob s k, { c with pos := c.pos + 1 }) else (s, c)
      gatherNext s k i c (c.rows.length ≤ c.pos))

/-- GATH_ROW (R165). -/
def execGathRow (k : CoreId) (i : Nat) (s : State) : Host.Outcome State Fault Refusal := .next (gathStep s k i)

/-- What an engine's pop of one lane meets (R152, R166). -/
inductive LanePop
  | wait
  | err (e : End)
  | eos (e : End)
  | lane (e : End) (v : Lane)
deriving DecidableEq, Repr

/-- Pops one lane as QPOP.W pops it. -/
def End.popLane (e : End) : LanePop :=
  if e.1.cur.isSome then let r := End.takeLane e; .lane r.2 r.1
  else
    match End.popHead e with
    | .wait => .wait
    | .err e' => .err e'
    | .eos e' => .eos e'
    | .tok e' _ => let r := End.takeLane e'; .lane r.2 r.1

/-- GATHQ has popped a non-null index v; its row is appended, or it is passed over (R166). -/
def gathqRow (s : State) (k : CoreId) (i : Nat) (c : IxCmd) (v : Nat) : State :=
  let h := c.dh
  let va := h.vaAt (recBase c.record + (v * rowStride c.record : Nat))
  let inRange := decide (v < rowExtent c.record)
  if !inRange && recOob c.record == 0 then ixClose s k i { c with err := some (0x13, v), popped := [] }
  else if !inRange && recOob c.record == 2 then next (countOob s k) { c with pos := c.pos + 1, popped := [] }
  else if inRange && rowBusy s c (h.ga va) (rowBytes c.record) then ixPut s k i c
  else
    let (s, c, full) := appendRow s k c (if inRange then some (h.ga va, va) else none)
    if c.err.isSome then ixClose s k i c
    else if full then
      next (if inRange then s else countOob s k) { c with pos := c.pos + 1, popped := [] }
    else ixPut s k i c
where
  /-- The index is done with: the limit ends the command. -/
  next (s : State) (c : IxCmd) : State :=
    if c.cnt != 0 && decide (c.cnt ≤ c.pos) then ixClose s k i { c with found := true } else ixPut s k i c

/-- GATHQ_INDEX: pops an index, EOS or EEOS and acts on it; a row left partly appended goes on (R166). -/
def gathqStep (s : State) (k : CoreId) (i : Nat) : State :=
  onCommand s k i 1 (fun s c =>
    let sq := sqOf c.record
    if c.found then ixClose s k i c
    else
      match c.popped with
      | v :: _ => gathqRow s k i c v.toNat
      | [] =>
        match (s.ctx c.owner).endOf sq with
        | none => s
        | some e =>
          match End.popLane e with
          | .wait => ixPut s k i c
          | .err e' => ixClose (s.modCtx c.owner (fun x => x.putEnd sq e')) k i { c with err := some (0x20, sq) }
          | .eos e' => ixClose (s.modCtx c.owner (fun x => x.putEnd sq e')) k i { c with found := true }
          | .lane e' v =>
            let s := s.modCtx c.owner (fun x => x.putEnd sq e')
            if v.toNat = nullIndex then ixPut (noteAdvance (countNull s k) c.owner) k i c
            else gathqRow s k i { c with popped := [v] } v.toNat)

/-- GATHQ_INDEX (R166). -/
def execGathqIndex (k : CoreId) (i : Nat) (s : State) : Host.Outcome State Fault Refusal := .next (gathqStep s k i)

/-- The UPD operation of a scatter code. -/
def scatUpd : Nat → UpdOp
  | 1 => .addW | 2 => .addD | 3 => .addF32 | 4 => .minW | 5 => .maxW | _ => .orD

/-- Pops up to `n` lanes for a row. -/
def popLanesUpTo (e : End) : Nat → List Lane × End × Option Bool
  | 0 => ([], e, none)
  | n + 1 =>
    match End.popLane e with
    | .wait => ([], e, none)
    | .err e' => ([], e', some false)
    | .eos e' => ([], e', some true)
    | .lane e' v =>
      let (vs, e'', x) := popLanesUpTo e' n
      (v :: vs, e'', x)

/-- The writes of words at a GA (R167): write requests as a copy's, or deltas. The first failure is kept and the rest still go on
(R169). -/
def scatWrite (s : State) (k : CoreId) (c : IxCmd) (g : Nat) (vs : List Lane) : State × Option Cause :=
  let bs := vs.flatMap (fun v => leBytes 4 v.toNat)
  if c.op = 0 then
    (List.range ((g + bs.length - 1) / 128 + 1 - g / 128)).foldl (fun (a : State × Option Cause) i =>
      let lo := max g ((g / 128 + i) * 128)
      let hi := min (g + bs.length) ((g / 128 + i + 1) * 128)
      let r := engineStore a.1 k (c.seq + 1) c.asid c.dh.nt .engine lo ((bs.drop (lo - g)).take (hi - lo))
      (r.1, firstErr a.2 r.2)) (s, none)
  else
    let op := scatUpd c.op
    let w := updWidth op
    (List.range (bs.length / w)).foldl (fun (a : State × Option Cause) i =>
      let ga := g + w * i
      if fenced a.1 (pkgOf (dieOfCore k)) .engine ga w then (a.1, firstErr a.2 (some (0x51, ga)))
      else if hasUe a.1 ga w then (a.1, firstErr a.2 (some (0x50, ga)))
      else (addDelta a.1 k ⟨ga, op, leNat ((bs.drop (w * i)).take w), [(c.owner, c.asid)], true⟩ c.dh.nt, a.2)) (s, none)

/-- The words of a row's next write request: for ST up to the end of the row or of the 128-byte line, as a copy's; deltas enter
their update-only lines row by row. -/
def IxCmd.chunk (c : IxCmd) (g : Nat) : Nat :=
  let left := rowWords c.record - c.wpos
  if c.op = 0 then min left ((128 - (g + 4 * c.wpos) % 128) / 4) else left

/-- The current row is done with. -/
def scatNext (s : State) (k : CoreId) (i : Nat) (c : IxCmd) : State :=
  let c := { c with pos := c.pos + 1, popped := [], wpos := 0, bad := [] }
  if c.rows.length ≤ c.pos then ixDrop s k i c c.err else ixPut s k i c

/-- The next write request of a row that has been popped (R167): it waits for its region or line. A row of which some write failed
is not counted as written. -/
def scatRequest (s : State) (k : CoreId) (i : Nat) (c : IxCmd) (g : Nat) : State :=
  if writeWaits s c.asid (g + 4 * c.wpos) then ixPut s k i c
  else
    let n := c.chunk g
    let r := scatWrite s k c (g + 4 * c.wpos) (c.popped.take n)
    let c := { c with err := firstErr c.err r.2, wpos := c.wpos + n, popped := c.popped.drop n
                      bad := match r.2 with | some x => SMap.set c.bad c.pos x | none => c.bad }
    if c.wpos < rowWords c.record then ixPut r.1 k i c
    else scatNext (if c.bad.isEmpty then countRow r.1 k else r.1) k i c

/-- SCAT_ROW: pops what has arrived of the current data row; a whole row is then written at its place, a 128-byte request a step, or
discarded (R146, R167). -/
def scatStep (s : State) (k : CoreId) (i : Nat) : State :=
  onCommand s k i 2 (fun s c =>
    match c.rows[c.pos]? with
    | none => ixDrop s k i c c.err
    | some row =>
      let sq := sqOf c.record
      match (s.ctx c.owner).endOf sq with
      | none => s
      | some e =>
        let (vs, e', stop) := popLanesUpTo e (rowWords c.record - c.wpos - c.popped.length)
        let s := s.modCtx c.owner (fun x => x.putEnd sq e')
        let c := { c with popped := c.popped ++ vs }
        if stop.isSome then ixDrop s k i c (firstErr c.err (some (0x20, sq)))
        else if c.wpos + c.popped.length < rowWords c.record then ixPut s k i c
        else
          match row with
          | .row g _ _ => scatRequest s k i c g
          | .null => scatNext (countNull s k) k i c
          | .oob => scatNext (countOob s k) k i c)

/-- SCAT_ROW (R167). -/
def execScatRow (k : CoreId) (i : Nat) (s : State) : Host.Outcome State Fault Refusal := .next (scatStep s k i)

/-- Bytes that the rows of a core take in its reassembly buffer, a row all its bytes from its first request on (R309). -/
def reassembly (x : Core) : Nat := x.ix.foldl (fun n c => n + c.arrived.length * rowBytes c.record) 0

/-- The buffer refuses a row that it does not hold yet. The head row of the oldest RGATH always fits: the rows of the others
take at most 48 KiB, and its own later rows leave room for it (log 110). -/
def rowRefused (x : Core) (i : Nat) (c : IxCmd) (row : Nat) : Bool :=
  let n := rowBytes c.record
  let head := row == c.pos || (SMap.find c.arrived c.pos).isSome
  let limit :=
    if x.ix.findIdx? (fun m => m.kind == 3) = some i then 65536 - (if head then 0 else n) else 49152
  (SMap.find c.arrived row).isNone && decide (limit < reassembly x + n)

/-- The next 128-byte request of one row, and its reply, which enters the buffer (R309). A request and its reply are one step,
so that no more than one is ever outstanding (log 110). -/
def rgathArrive (s : State) (k : CoreId) (i : Nat) (c : IxCmd) (row : Nat) : State × IxCmd :=
  match c.rows[row]? with
  | some (.row g va _) =>
    let n := rowBytes c.record
    let got := SMap.getD c.arrived row []
    let a := g + got.length
    let m := min (n - got.length) (128 - a % 128)
    if decide (row < c.pos) || m == 0 || (SMap.find c.bad row).isSome || engineWaits s a || rowRefused (s.core k) i c row then
      (s, c)
    else
      let far := if gaDie a = dieOfCore k then 0 else 1
      let s := s.modCore k (fun x => { x with ixrreq := bump x.ixrreq far })
      match readOut s (pkgOf (dieOfCore k)) .engine a m with
      | .error code => (s, { c with bad := SMap.set c.bad row (code, a) })
      | .ok _ =>
        let s := coherentRead s k a m
        let s := if got.length + m = n then hotCount s k c.asid va 1 0 else s
        (s, { c with arrived := SMap.set c.arrived row (got ++ s.bytesAt a m) })
  | _ => (s, c)

/-- Appends every row that has arrived, in list order, while there is room; zero rows take their places (R309). The
answer says whether the list is done. -/
def rgathAppend (k : CoreId) : Nat → State → IxCmd → State × IxCmd × Bool
  | 0, s, c => (s, c, false)
  | fuel + 1, s, c =>
    let (s, c) := skipRows k c.rows.length s c
    match c.rows[c.pos]?, (s.ctx c.owner).endOf c.q with
    | none, _ => (s, c, true)
    | _, none => (s, c, false)
    | some row, some e =>
      match SMap.find c.bad c.pos with
      | some x => (s, { c with err := some x }, false)
      | none =>
        let words : Option (List Lane) :=
          match row with
          | .row _ _ _ =>
            match SMap.find c.arrived c.pos with
            | some bs => if bs.length = rowBytes c.record then some (lanesOfBytes bs) else none
            | none => none
          | _ => some (List.replicate (rowWords c.record) 0)
        match words with
        | none => (s, c, false)
        | some ws =>
          let m := End.lanesFit e (ws.length - c.wpos)
          let isRow := match row with | .row _ _ _ => true | _ => false
          let s := s.modCtx c.owner (fun x => x.putEnd c.q (End.lanes e s.fc isRow ((ws.drop c.wpos).take m)))
          if c.wpos + m < ws.length then (s, { c with wpos := c.wpos + m }, false)
          else
            let s := if isRow then countRow s k else countOob (countRow s k) k
            rgathAppend k fuel s { c with pos := c.pos + 1, wpos := 0, arrived := SMap.erase c.arrived c.pos }

/-- RGATH_REPLY: a reply to row `row` of an RGATH enters the buffer; complete rows are appended in list order. -/
def rgathStep (s : State) (k : CoreId) (i row : Nat) : State :=
  onCommand s k i 3 (fun s c =>
    let (s, c) := rgathArrive s k i c row
    let (s, c, fin) := rgathAppend k (c.rows.length + 1) s c
    gatherNext s k i c fin)

/-- RGATH_REPLY (R309). -/
def execRgathReply (k : CoreId) (i row : Nat) (s : State) : Host.Outcome State Fault Refusal := .next (rgathStep s k i row)

/-- Whether an element counts as nonzero (R168, R311). -/
def nonzero (r : List Nat) (v : Nat) : Bool :=
  if recZm r = 1 then v % 2 ^ (8 * scanBytes r - 1) != 0 else v != 0

/-- Scans up to `fuel` elements from position `pos`, to the first nonzero one or the first that fails or waits: its
position and value, the failure, or `none` when it stops before either. -/
def scanFrom (k : CoreId) (c : IxCmd) : Nat → State → Nat → State × Nat × Option (Except Cause Nat)
  | 0, s, pos => (s, pos, none)
  | fuel + 1, s, pos =>
    if c.cnt ≤ pos then (s, pos, none)
    else
      let n := scanBytes c.record
      let va := c.dh.vaAt (recBase c.record + (pos * n : Nat))
      let g := c.dh.ga va
      if (readWait s c.asid (recRt c.record) c.dh.nt g).isSome then (s, pos, none)
      else
        match readOut s (pkgOf (dieOfCore k)) .engine g n with
        | .error code => (s, pos, some (.error (code, g)))
        | .ok _ =>
          let r := performRead (engineAcquires s k c.dh) k c.asid (recRt c.record) c.dh.nt g n
          let v := leNat r.2
          if nonzero c.record v then (r.1, pos, some (.ok v)) else scanFrom k c fuel r.1 (pos + 1)

/-- Completes a partial token with null indices, or pairs of (null, 0) under P (R168). -/
def nzPad (c : IxCmd) (n : Nat) : List Lane :=
  if c.op = 0 then List.replicate n (BitVec.ofNat 32 nullIndex)
  else (List.range n).map (fun i => if i % 2 = 1 then 0 else BitVec.ofNat 32 nullIndex)

/-- NZSCAN_APPEND: the next nonzero element's index, and value under P, once there is room for it; at the end the padding (R168).
IXNZ counts as elements are appended. -/
def nzscanStep (s : State) (k : CoreId) (i : Nat) : State :=
  onCommand s k i 4 (fun s c =>
    match (s.ctx c.owner).endOf c.q with
    | none => s
    | some e =>
      let per := 1 + c.op
      match scanFrom k c (c.cnt - c.pos) s c.pos with
      | (s, _, some (.error x)) => ixClose s k i { c with err := some x }
      | (s, p, some (.ok v)) =>
        if e.2.room < End.laneNeed e per then ixPut s k i { c with pos := p }
        else
          let s := hotCount s k c.asid (c.dh.vaAt (recBase c.record + (p * scanBytes c.record : Nat))) 1 0
          let vs : List Lane := [BitVec.ofNat 32 (bitsOf (c.record.getD 2 0) 0 32 + p)]
                    ++ (if c.op = 1 then [BitVec.ofNat 32 v] else [])
          let s := s.modCtx c.owner (fun x => x.putEnd c.q (End.lanes e s.fc true vs))
          let s := s.modCore k (fun x => { x with ixnz := bump x.ixnz 1 })
          ixPut s k i { c with pos := p + 1, found := true }
      | (s, p, none) =>
        if p < c.cnt then ixPut s k i { c with pos := p }
        else if c.found && !e.1.asm.isEmpty then
          if e.2.room = 0 then ixPut s k i { c with pos := p } else
          let s := s.modCtx c.owner (fun x => x.putEnd c.q (End.lanes e s.fc false (nzPad c (16 - e.1.asm.length))))
          ixClose s k i { c with pos := p, found := false }
        else ixClose s k i { c with pos := p, found := false })

/-- NZSCAN_APPEND (R168). -/
def execNzscanAppend (k : CoreId) (i : Nat) (s : State) : Host.Outcome State Fault Refusal := .next (nzscanStep s k i)

end Sys2Proof.Machine
end

