-- ==== Sys2Proof/Machine/Volumes.lean ====
section
/-! DEFINITION. Volumes: descriptors, keys, the CLB, the Shawm's walks, allocation and pools, and the volume words but
VSHOOT (R170 to R179, R324 to R339). -/

namespace Sys2Proof.Machine

/-! ## Descriptors, coordinates and keys -/

/-- `n` bytes of a descriptor at offset `o`. -/
def volField (b : List Byte) (o n : Nat) : Nat := leNat ((b.drop o).take n)
/-- RANK. -/
def volRank (b : List Byte) : Nat := volField b 0 1
/-- ETYPE. -/
def volEtype (b : List Byte) : Nat := volField b 2 1
/-- The element size of Table 7.2. -/
def volEs (b : List Byte) : Nat := match volEtype b with | 0 => 1 | 1 => 2 | 2 => 4 | 3 => 8 | _ => 4
/-- TS of an axis. -/
def volTs (b : List Byte) (a : Nat) : Nat := volField b (3 + a) 1
/-- EXT of an axis. -/
def volExt (b : List Byte) (a : Nat) : Nat := volField b (20 + 4 * a) 4
/-- LEVELS. -/
def volLevels (b : List Byte) : Nat := volField b 7 1
/-- BG. -/
def volBg (b : List Byte) : Nat := volField b 32 8
/-- ROOT. -/
def volRoot (b : List Byte) : Nat := volField b 40 8
/-- TPOOL. -/
def volTpool (b : List Byte) : Nat := volField b 48 8
/-- NPOOL. -/
def volNpool (b : List Byte) : Nat := volField b 56 8
/-- The bytes of a tile. -/
def volTile (b : List Byte) : Nat := 2 ^ (volTs b 0 + volTs b 1 + volTs b 2) * volEs b

/-- The least n with 2^n at least v. -/
def clog2 (v : Nat) : Nat := if v ≤ 1 then 0 else Nat.log2 (v - 1) + 1

/-- The width of an axis's tile coordinate (R324). -/
def volWidth (b : List Byte) (a : Nat) : Nat := clog2 ((volExt b a + 2 ^ volTs b a - 1) / 2 ^ volTs b a)

/-- A GA that a descriptor, slot or pool record may hold: [63:56] zero, spaces 0 to 2, aligned. -/
def slotGaOk (v align : Nat) : Bool := decide (v < 2 ^ 56) && decide (gaSpace v ≤ 2) && v % align == 0

/-- The checks of VOPEN on a descriptor (R174). -/
def volDescBad (b : List Byte) : Bool :=
  let rank := volRank b
  volField b 1 1 != 0 || volField b 6 1 != 0 || volField b 8 12 != 0 || volField b 64 64 != 0
    || rank == 0 || decide (3 < rank) || decide (4 < volEtype b)
    || (List.range 3).any (fun a =>
        if a < rank then volExt b a == 0 || decide (2 ^ 21 < volExt b a) || decide (21 < volTs b a)
        else volExt b a != 1 || volTs b a != 0)
    || decide (volTile b < 512) || decide (65536 < volTile b)
    || volLevels b == 0 || decide (11 < volLevels b)
    || decide (6 * volLevels b < volWidth b 0 + volWidth b 1 + volWidth b 2)
    || !slotGaOk (volRoot b) 512 || !slotGaOk (volTpool b) 8 || !slotGaOk (volNpool b) 8

/-- Field a of a coordinate register (R170). -/
def coordField (c a : Nat) : Nat := bitsOf c (21 * a) 21

/-- The Morton key of a coordinate's tile (R324). -/
def volKey (b : List Byte) (c : Nat) : Nat :=
  let step (acc : Nat × Nat) (ba : Nat × Nat) : Nat × Nat :=
    if ba.1 < volWidth b ba.2 then
      (acc.1 + b2n (bitOf (coordField c ba.2) (volTs b ba.2 + ba.1)) * 2 ^ acc.2, acc.2 + 1)
    else acc
  (((List.range 21).flatMap (fun i => [(i, 0), (i, 1), (i, 2)])).foldl step (0, 0)).1

/-- The offset of an element in its tile's frame (R172). -/
def volOffset (b : List Byte) (c : Nat) : Nat :=
  let m (a : Nat) := coordField c a % 2 ^ volTs b a
  volEs b * (m 2 * 2 ^ (volTs b 1 + volTs b 0) + m 1 * 2 ^ volTs b 0 + m 0)

/-- The background of one element. -/
def volBack (b : List Byte) : Nat := volBg b % 2 ^ (8 * volEs b)

/-- VOPEN (R174): a coherent load of the descriptor, an acquire. -/
def execVopen (p : Pred) (y : BitVec 2) (h : BitVec 4) (x : BitVec 5) (s : State) : Host.Outcome State Fault Refusal :=
  .next (word s p (fun s =>
    let off := s.x x
    let hd := s.me.loadHandle h.toNat
    match accessAt hd h.toNat off 128 with
    | .error (code, eva) => trap s code eva
    | .ok g =>
      wordRead (acquire s) hd .wt g 128 (fun s v =>
        let b := leBytes 128 v
        if volDescBad b then trap s 0x19 off.toNat
        else retire (s.modMe (fun c => { c with y := SMap.set c.y y.toNat ⟨b, g⟩ })) 4)))

/-- VCLOSE (R179). -/
def execVclose (p : Pred) (y : BitVec 2) (s : State) : Host.Outcome State Fault Refusal :=
  .next (word s p (fun s => retire (s.modMe (fun c => { c with y := SMap.erase c.y y.toNat })) 4))

/-! ## The Shawm's accesses -/

/-- Every pending delta and narrow holding on the lines of a range reaches the home: what a read by an agent outside
the cores does first. -/
def recallLines (s : State) (g n : Nat) : State :=
  (List.range ((g + n - 1) / 128 + 1 - g / 128)).foldl (fun s i => publish (mergeAll s (g / 128 + i)) (g / 128 + i)) s

/-- A read by GA of an agent of a die (R328). -/
def agentFetch (s : State) (d : DieId) (g n : Nat) : State × Except Cause Nat :=
  if fenced s (pkgOf d) .engine g n then (s, .error (0x51, g))
  else
    let s := recallLines s g n
    if hasUe s g n then (s, .error (0x50, g)) else (s, .ok (s.peek g n))

/-- The lines of a range before an agent outside the cores writes it at the home: pending deltas and dirty words reach the home,
every copy goes, and the home slice takes the words (R372, R375). -/
def claimLines (s : State) (g n : Nat) : State :=
  (List.range ((g + n - 1) / 128 + 1 - g / 128)).foldl (fun s i =>
    let line := g / 128 + i
    let lo := max g (line * 128)
    l2Write (homePurge (mergeAll s line) line) line (wordMask (lo % 128) (min (g + n) (line * 128 + 128) - lo))) s

/-- A write at the home by an agent outside the cores. -/
def agentPut (s : State) (who : Writer) (asid g : Nat) (bs : List Byte) : State :=
  homeWrite (claimLines s g bs.length) who asid g bs

/-! ## The CLB and walks -/

/-- The frame that a core's CLB holds (R332). -/
def Core.clbFind (k : Core) (asid desc key : Nat) : Option Nat :=
  (k.clb.find? (fun e => e.asid == asid && e.desc == desc && e.key == key)).map (fun e => e.frame)

/-- Enters a mapping; the oldest leaves a CLB of 128 (R332). -/
def Core.clbEnter (k : Core) (e : Clb) : Core :=
  let l := k.clb.filter (fun f => !(f.asid == e.asid && f.desc == e.desc && f.key == e.key))
  { k with clb := (if 128 ≤ l.length then l.drop 1 else l) ++ [e] }

/-- Removes the CLB entries of every core of the domain that meet a condition (R333). -/
def clbDrop (s : State) (f : Clb → Bool) : State :=
  { s with cores := s.cores.map (fun e => (e.1, { e.2 with clb := e.2.clb.filter (fun m => !f m) })) }

/-- The slot of a walk's node at its level (R325, R326). -/
def Walk.slot (w : Walk) : Nat := w.node + 8 * (w.key / 2 ^ (6 * w.level) % 64)

/-- What a slot of a level points to is aligned to (R327). -/
def Walk.align (w : Walk) : Nat := if w.level = 0 then volTile w.body else 512

/-- Counts in a saturating counter. -/
def bump1 (v : Nat) : Nat := satAdd 64 v 1

/-- Whether some context merged into a walk allocates. -/
def Walk.alloc (w : Walk) : Bool := w.askers.any (fun a => a.alloc)

/-- A found frame, or 0, as the reply to one of the walk's contexts: (0, frame, descriptor), or (2, frame, slot) for a VFREE. -/
def Walk.found (w : Walk) (fr : Nat) (a : Asker) : Nat × Nat × Nat := if a.clb then (0, fr, w.desc) else (2, fr, w.slot)

/-- Contexts of a walk have their replies, if they still wait for it. An allocated tile enters the CLB (R332). -/
def walkAnswer (s : State) (d : DieId) (w : Walk) (l : List Asker) (reply : Asker → Nat × Nat × Nat) : State :=
  l.foldl (fun s a =>
    let r := reply a
    let s := if r.1 = 0 && r.2.1 != 0 then s.modCore (coreOf a.ctx) (fun k => k.clbEnter ⟨w.asid, w.desc, w.key, r.2.1⟩) else s
    s.modCtx a.ctx (fun c =>
      match c.wait with
      | some v => if v.kind = .walk d w.id then { c with reply := some r } else c
      | none => c)) s

/-- A walk ends with a reply to each of its contexts. -/
def walkEnd (s : State) (d : DieId) (w : Walk) (reply : Asker → Nat × Nat × Nat) : State :=
  walkAnswer (s.modDie d (fun x => { x with walks := x.walks.filter (fun v => v.id != w.id), shwalk := bump1 x.shwalk })) d w
    w.askers reply

/-- Replaces a walk. -/
def setWalk (s : State) (d : DieId) (w : Walk) : State :=
  s.modDie d (fun x => { x with walks := x.walks.map (fun v => if v.id = w.id then w else v) })

/-- The walk from the root for some contexts (R332). -/
def Walk.fresh (w : Walk) (l : List Asker) : Walk :=
  { w with level := volLevels w.body - 1, node := volRoot w.body, askers := l.map (fun a => { a with late := false })
           frame := none, filled := false, waitPop := false }

/-- A walk ends for a failure of its allocation: the contexts that allocate trap, the others find the tile unallocated. Those
that joined it after it had read the empty slot walk anew, since the tile may have been published before their access (R332, R334). -/
def walkFail (s : State) (d : DieId) (w : Walk) (code : Nat) (eva : Asker → Nat) : State :=
  let reply (a : Asker) : Nat × Nat × Nat := if a.alloc then (1, code, eva a) else w.found 0 a
  let late := w.askers.filter (fun a => a.late)
  if late.isEmpty then walkEnd s d w reply
  else walkAnswer (setWalk s d (w.fresh late)) d w (w.askers.filter (fun a => !a.late)) reply

/-- Asks for a pool operation of the Shawm that holds the record. -/
def askPool (s : State) (op : PoolOp) : State := s.modDie (gaDie op.pool) (fun x => { x with poolOps := x.poolOps ++ [op] })

/-- The pool of the level: nodes above level 0, tiles at level 0. -/
def Walk.pool (w : Walk) : Nat := if w.level = 0 then volTpool w.body else volNpool w.body

/-- Goes on from the value of the walk's slot (R325, R327, R335, R337): at an empty one, the contexts that do not allocate have
found the tile unallocated. -/
def walkOn (s : State) (d : DieId) (w : Walk) (v : Nat) : State :=
  if v = 0 then
    if w.alloc then
      let s := walkAnswer s d w (w.askers.filter (fun a => !a.alloc)) (w.found 0)
      askPool (setWalk s d { w with askers := w.askers.filter (fun a => a.alloc), waitPop := true })
        ⟨w.pool, none, w.align, .walk d w.id, w.asid⟩
    else walkEnd s d w (w.found 0)
  else if !slotGaOk v w.align then walkEnd s d w (fun _ => (1, 0x19, w.slot + 2 ^ 63))
  else if w.level = 0 then walkEnd s d w (w.found v)
  else setWalk s d { w with node := v, level := w.level - 1, frame := none, filled := false }

/-- The bytes of a new frame: zeros for a node, BG in every element for a tile (R337). -/
def Walk.fill (w : Walk) : List Byte :=
  if w.level = 0 then (List.replicate (volTile w.body / volEs w.body) (leBytes (volEs w.body) (volBg w.body))).flatten
  else List.replicate 512 0

/-- The first bytes of the 128-byte lines of a range. -/
def rangeLines (g n : Nat) : List Nat := (List.range ((n + 127) / 128)).map (fun i => g + 128 * i)

/-- SHAWM_WALK: one step of the i-th walk of a die, which holds 64 at once: it reads a slot, fills a popped frame, or
publishes it by CAS; a frame that loses the CAS goes back to its pool (R332, R337). -/
def walkStep (s : State) (d : DieId) (i : Nat) : State :=
  match (s.die d).walks[i]? with
  | none => s
  | some w =>
    if 64 ≤ i || (if w.filled then writeWaits s w.asid w.slot else engineWaits s w.slot) then s
    else if w.waitPop then
      -- a pop that can no longer be performed completes FENCED (R330, R411)
      if fenced s (pkgOf d) .engine w.pool 8 then walkFail s d w 0x51 (fun _ => w.pool) else s
    else
      match w.frame with
      | none =>
        match agentFetch s d w.slot 8 with
        | (s, .error (code, g)) => walkEnd s d w (fun _ => (1, code, g))
        | (s, .ok v) => walkOn s d w v
      | some fr =>
        if !w.filled then
          if (rangeLines fr w.align).any (writeWaits s w.asid) then s
          else if fenced s (pkgOf d) .engine fr w.align then walkFail s d w 0x51 (fun _ => fr)
          else setWalk (agentPut s (.shawm d) w.asid fr w.fill) d { w with filled := true }
        else
          match agentFetch s d w.slot 8 with
          | (s, .error (code, g)) => walkEnd s d w (fun _ => (1, code, g))
          | (s, .ok v) =>
            if v = 0 then
              let s := agentPut s (.shawm d) w.asid w.slot (leBytes 8 fr)
              walkOn (s.modDie d (fun x => { x with shalloc := bump1 x.shalloc })) d w fr
            else
              let s := askPool s ⟨w.pool, some fr, w.align, .lost d, w.asid⟩
              walkOn (s.modDie d (fun x => { x with shlose := bump1 x.shlose })) d w v

/-- SHAWM_WALK (R332, R337). -/
def execShawmWalk (d : DieId) (i : Nat) (s : State) : Host.Outcome State Fault Refusal := .next (walkStep s d i)

/-! ## Pools (R329, R330) -/

/-- Reads a pool record: `none` when it is malformed, else BASE, TOP and CAP. -/
def poolRecord (s : State) (d : DieId) (rec' : Nat) : State × Except Cause (Option (Nat × Nat × Nat)) :=
  if !slotGaOk rec' 8 then (s, .ok none)
  else
    match agentFetch s d rec' 8 with
    | (s, .error e) => (s, .error e)
    | (s, .ok base) =>
      match agentFetch s d (rec' + 8) 8 with
      | (s, .error e) => (s, .error e)
      | (s, .ok top) =>
        match agentFetch s d (rec' + 16) 8 with
        | (s, .error e) => (s, .error e)
        | (s, .ok cap) =>
          match agentFetch s d (rec' + 24) 8 with
          | (s, .error e) => (s, .error e)
          | (s, .ok rsv) =>
            (s, .ok (if rsv != 0 || decide (cap < top) || !slotGaOk base 8 then none else some (base, top, cap)))

/-- Pop: 0 for EMPTY. -/
def poolPopAt (s : State) (d from' : DieId) (op : PoolOp) : State × Except Cause Nat :=
  match poolRecord s from' op.pool with
  | (s, .error e) => (s, .error e)
  | (s, .ok none) => (s, .error (0x19, op.pool + 2 ^ 63))
  | (s, .ok (some (base, top, _))) =>
    if top = 0 then (s, .ok 0)
    else
      let at' := base + 8 * (top - 1)
      match agentFetch s from' at' 8 with
      | (s, .error e) => (s, .error e)
      | (s, .ok fr) =>
        if fr == 0 || !slotGaOk fr op.align then (s, .error (0x19, at' + 2 ^ 63))
        else (agentPut s (.shawm d) op.asid (op.pool + 8) (leBytes 8 (top - 1)), .ok fr)

/-- Push: 0 DONE, 1 FULL, 2 BAD. A frame with a nonzero bit in [63:56], which PLPUSH alone can offer, is BAD (Table 18.2). -/
def poolPushAt (s : State) (d from' : DieId) (op : PoolOp) (fr : Nat) : State × Nat :=
  if 2 ^ 56 ≤ fr then (s, 2)
  else
  match poolRecord s from' op.pool with
  | (s, .error _) => (s, 2)
  | (s, .ok none) => (s, 2)
  | (s, .ok (some (base, top, cap))) =>
    if cap ≤ top then (s, 1)
    else if fenced s (pkgOf from') .engine (base + 8 * top) 8 || hasUe s (base + 8 * top) 8 then (s, 2)
    else
      let s := agentPut s (.shawm d) op.asid (base + 8 * top) (leBytes 8 fr)
      (agentPut s (.shawm d) op.asid (op.pool + 8) (leBytes 8 (top + 1)), 0)

/-- The die from whose package the operation was asked. -/
def PoolOp.from' (op : PoolOp) : DieId :=
  match op.who with
  | .walk d _ => d
  | .lost d => d
  | .vfree c => dieOf c
  | .plpush c _ => dieOf c
  | .port d _ => d

/-- Two operations are stores to PLPUSH by one context, or through one port; `m` and `n` number them. -/
def PoolFor.sameStorer : PoolFor → PoolFor → Option (Nat × Nat)
  | .plpush c m, .plpush e n => if c = e then some (m, n) else none
  | .port c m, .port e n => if c = e then some (m, n) else none
  | _, _ => none

/-- The number that a store to PLPUSH by one who stored would have behind those still to be performed. -/
def storerNumber (s : State) (w : PoolFor) : Nat :=
  s.dies.foldl (fun n d => d.2.poolOps.foldl (fun n o =>
    match w.sameStorer o.who with
    | some (_, m) => max n (m + 1)
    | none => n) n) 0

/-- That number for a context. -/
def pushNumber (s : State) (c : CtxId) : Nat := storerNumber s (.plpush c 0)

/-- An earlier push by the same context is still to be performed: its pushes perform in order (R331). -/
def pushBehind (s : State) (op : PoolOp) : Bool :=
  s.dies.any (fun d => d.2.poolOps.any (fun o =>
    match op.who.sameStorer o.who with
    | some (n, m) => decide (m < n)
    | none => false))

/-- What a pool operation reads and writes: the record, and the entry that it takes or fills. -/
def PoolOp.gas (s : State) (op : PoolOp) : List Nat :=
  let base := s.seen op.pool 8
  let top := s.seen (op.pool + 8) 8
  if !slotGaOk op.pool 8 then []
  else [op.pool + 8, op.pool, op.pool + 24] ++ (if slotGaOk base 8 then [base + 8 * (if op.push.isSome then top else top - 1)] else [])

/-- An access that a pool operation makes must wait: TOP is written, and an entry that is filled. -/
def poolWaits (s : State) (op : PoolOp) : Bool := (op.gas s).any (fun g => if op.push.isSome || g == op.pool + 8 then writeWaits s op.asid g else engineWaits s g)

/-- The i-th operation that has reached a die's Shawm, when no earlier one is for the same pool, none by the same context is
before it and nothing makes its accesses wait. -/
def poolTurn (s : State) (d : DieId) (i : Nat) : Option PoolOp :=
  let l := (s.die d).poolOps
  match l[i]? with
  | some op => if (l.take i).any (fun o => o.pool == op.pool) || pushBehind s op || poolWaits s op then none else some op
  | none => none

/-- The i-th operation of a die is done. -/
def poolDone (s : State) (d : DieId) (i : Nat) : State := s.modDie d (fun x => { x with poolOps := listDrop x.poolOps i })

/-- POOL_POP: the i-th operation of a die, a pop, and its answer to the walk (R330, R337, R176). -/
def poolPopStep (s : State) (d : DieId) (i : Nat) : State :=
  match poolTurn s d i with
  | some op =>
    match op.push, op.who with
    | none, .walk wd id =>
      let s := poolDone s d i
      match (s.die wd).walks.find? (fun w => w.id == id) with
      | none => s
      | some w =>
        match poolPopAt s d wd op with
        | (s, .error (code, eva)) => walkFail s wd w code (fun _ => eva)
        | (s, .ok fr) =>
          if fr = 0 then walkFail s wd w 0x18 (fun a => a.coord + (if w.level = 0 then 0 else 2 ^ 63))
          else setWalk s wd { w with waitPop := false, frame := some fr, filled := false }
    | _, _ => s
  | none => s

/-- POOL_POP (R330). -/
def execPoolPop (d : DieId) (i : Nat) (s : State) : Host.Outcome State Fault Refusal := .next (poolPopStep s d i)

/-- POOL_PUSH: the i-th operation of a die, a push. A frame that the pool does not take is counted lost, but one of
PLPUSH, which reads its outcome in PLSTAT (R330, Table 18.2). -/
def poolPushStep (s : State) (d : DieId) (i : Nat) : State :=
  match poolTurn s d i with
  | some op =>
    match op.push with
    | some fr =>
      let r := poolPushAt (poolDone s d i) d op.from' op fr
      match op.who with
      | .plpush c _ => r.1.modCtx c (fun x => { x with plstat := r.2 })
      | .port e _ => r.1.modDie e (fun x => { x with portPl := r.2 })
      | _ => if r.2 = 0 then r.1 else r.1.modDie d (fun x => { x with vlost := bump1 x.vlost, vlostga := fr })
    | none => s
  | none => s

/-- POOL_PUSH (R330). -/
def execPoolPush (d : DieId) (i : Nat) (s : State) : Host.Outcome State Fault Refusal := .next (poolPushStep s d i)

/-! ## The volume words -/

/-- An element that a volume word has located, but for its frame. -/
structure Located where
  vol : Vol
  c : Nat
  key : Nat
  off : Nat
deriving DecidableEq, Repr

/-- The checks of R175 up to the frame; `ok` is the size check of LDC, STC and UPDC. -/
def vlocate (s : State) (y c : Nat) (ok : List Byte → Bool) : Except Cause Located :=
  match SMap.find s.me.y y with
  | none => .error (0x12, 16 + y)
  | some v =>
    let b := v.desc
    if !ok b then .error (0x13, c)
    else if bitOf c 63 || (List.range 3).any (fun a => decide (volExt b a ≤ coordField c a)) then .error (0x1A, c)
    else .ok ⟨v, c, volKey b c, volOffset b c⟩

/-- Posts a walk for the running context, merged with one for the same volume and key (R334), or goes on waiting for the one it
waits for. -/
def askWalk (s : State) (l : Located) (alloc clb : Bool) : State :=
  let d := s.myDie
  let pending := match s.me.wait with
                 | some ⟨.walk wd id, _⟩ => (s.die wd).walks.any (fun w => w.id == id && w.askers.any (fun a => a.ctx == s.cur))
                 | _ => false
  let asker : Asker := ⟨s.cur, l.c, alloc, clb, false⟩
  if pending then s
  else
    match (s.die d).walks.find? (fun w => w.asid == s.me.sys.asid && w.desc == l.vol.ga && w.key == l.key) with
    | some w =>
      let asker := { asker with late := w.waitPop || w.frame.isSome }
      waitFor (setWalk s d { w with askers := w.askers.filter (fun a => a.ctx != s.cur) ++ [asker] }) (.walk d w.id)
    | none =>
      let id := (s.die d).nextWalk
      let w : Walk := { id := id, asid := s.me.sys.asid, desc := l.vol.ga, body := l.vol.desc, key := l.key
                        level := volLevels l.vol.desc - 1, node := volRoot l.vol.desc, askers := [asker]
                        frame := none, filled := false, waitPop := false }
      waitFor (s.modDie d (fun x => { x with walks := x.walks ++ [w], nextWalk := x.nextWalk + 1 })) (.walk d id)

/-- The reply to the context's walk is taken. -/
def clearReply (s : State) : State := s.modMe (fun c => { c with reply := none })

/-- The frame of a located element, 0 when unallocated (R175): from the walk's reply, from the CLB, or by a walk that
the context waits for. Issuing a volume word releases the context's earlier accesses to it (Table 20.2). -/
def withFrame (s : State) (l : Located) (alloc : Bool) (body : State → Nat → State) : State :=
  release s (fun s =>
    match s.me.reply with
    | some (0, fr, _) => body (clearReply s) fr
    | some (_, code, eva) => trap (clearReply s) code eva
    | none =>
      match (s.core s.myCore).clbFind s.me.sys.asid l.vol.ga l.key with
      | some fr => body s fr
      | none => askWalk s l alloc true)

/-- Frames are tracked RELCON pages (R177), as a handle would say it. -/
def frameHandle : Handle := { Handle.invalid with v := true, ord := 1 }

/-- Reads an element of a frame, as LD.OWN (Table 7.4); an unallocated one is the background. -/
def readElement (s : State) (l : Located) (fr : Nat) (acq : Bool) (body : State → Nat → State) : State :=
  if fr = 0 then body s (volBack l.vol.desc)
  else
    let g := fr + l.off
    let n := volEs l.vol.desc
    match readWait s s.me.sys.asid .own false g with
    | some w => waitFor s w
    | none =>
      match readOut s (pkgOf s.myDie) .engine g n with
      | .error code => trap s code g
      | .ok _ => let r := loadAt s frameHandle .own (if acq then .acq else .plain) g n; body r.1 r.2

/-- LDC (R177): 6 steps. -/
def execLdc (p : Pred) (acq : Bool) (sz : Size) (x : BitVec 5) (y : BitVec 2) (c : BitVec 5) (s : State) :
    Host.Outcome State Fault Refusal :=
  .next (word s p (fun s =>
    match vlocate s y.toNat (s.x c).toNat (fun b => volEs b == Size.bytes sz) with
    | .error (code, eva) => trap s code eva
    | .ok l => withFrame s l false (fun s fr =>
        readElement s l fr acq (fun s v => finish s 4 6 (.x x.toNat (wordOf v))))))

/-- A write by a volume word at a located element: it waits for the region or line, and FENCED is precise. -/
def writeElement (s : State) (g n : Nat) (body : State → State) : State :=
  match accessWait s s.me.sys.asid true g with
  | some w => waitFor s w
  | none => if fenced s (pkgOf s.myDie) .engine g n then trap s 0x51 g else body s

/-- STC (R177): an engine write through to the home. -/
def execStc (p : Pred) (_rel : Bool) (sz : Size) (x : BitVec 5) (y : BitVec 2) (c : BitVec 5) (s : State) :
    Host.Outcome State Fault Refusal :=
  .next (word s p (fun s =>
    match vlocate s y.toNat (s.x c).toNat (fun b => volEs b == Size.bytes sz) with
    | .error (code, eva) => trap s code eva
    | .ok l => withFrame s l true (fun s fr =>
        let g := fr + l.off
        let n := Size.bytes sz
        writeElement s g n (fun s =>
          retire (engineWrite s s.myCore 0 s.me.sys.asid false g (leBytes n (s.x x).toNat)) 4))))

/-- The element types that an update operation admits (R175). -/
def updElement (op : UpdOp) (etype : Nat) : Bool :=
  match op with
  | .addF32 => etype == 4
  | .addW => etype == 2
  | .minW => etype == 2
  | .maxW => etype == 2
  | _ => etype == 3

/-- UPDC (R177). -/
def execUpdc (p : Pred) (op : UpdOp) (x : BitVec 5) (y : BitVec 2) (c : BitVec 5) (s : State) :
    Host.Outcome State Fault Refusal :=
  .next (word s p (fun s =>
    match vlocate s y.toNat (s.x c).toNat (fun b => updElement op (volEtype b)) with
    | .error (code, eva) => trap s code eva
    | .ok l => withFrame s l true (fun s fr =>
        let g := fr + l.off
        let n := updWidth op
        writeElement s g n (fun s =>
          retire (addDelta s s.myCore ⟨g, op, (s.x x).toNat % 2 ^ (8 * n), [(s.cur, s.me.sys.asid)], true⟩ false) 4))))

/-- VPROBE (R177): the GA shows at S. -/
def execVprobe (p : Pred) (x : BitVec 5) (y : BitVec 2) (c : BitVec 5) (s : State) : Host.Outcome State Fault Refusal :=
  .next (word s p (fun s =>
    match vlocate s y.toNat (s.x c).toNat (fun _ => true) with
    | .error (code, eva) => trap s code eva
    | .ok l => withFrame s l false (fun s fr =>
        finish s 4 1 (.x x.toNat (if fr = 0 then 0
          else wordOf (2 ^ 63 + (if s.me.sys.pl then gaOf (fr + l.off) else 0)))))))

/-- VPUSH (R177): the binding, the element, then the lanes as SPUSH appends them. -/
def execVpush (p : Pred) (q : BitVec 4) (y : BitVec 2) (c : BitVec 5) (s : State) : Host.Outcome State Fault Refusal :=
  .next (word s p (fun s =>
    match s.me.boundFor q.toNat .produce with
    | none => trap s 0x13 q.toNat
    | some e =>
      match vlocate s y.toNat (s.x c).toNat (fun _ => true) with
      | .error (code, eva) => trap s code eva
      | .ok l =>
        let n := if volEs l.vol.desc = 8 then 2 else 1
        if producerBusy s s.cur q.toNat then waitFor s (.behind q.toNat true)
        else if e.2.room < End.laneNeed e n then queueWait s q.toNat e (.qFull q.toNat (End.laneNeed e n))
        else
          withFrame s l false (fun s fr =>
            readElement s l fr false (fun s v =>
              match s.me.boundFor q.toNat .produce with
              | none => trap s 0x13 q.toNat
              | some e => retire (s.modMe (fun c => c.putEnd q.toNat (End.lanes e s.fc (fr != 0) ((lanesOf (wordOf v)).take n)))) 4))))

/-- Whether some context still has to act on a frame that its walk or CLB gave it (R178, step 3). -/
def frameInUse (s : State) (fr : Nat) : Bool :=
  s.ctxs.any (fun e => match e.2.reply with | some (0, f, _) => f == fr | _ => false)

/-- Pending updates of a frame merge: they are accesses issued through entries that have gone (R178). -/
def settleFrame (s : State) (fr n : Nat) : State :=
  ((s.cores.flatMap (fun e => e.2.deltas.map (fun d => lineOf d.ga))).filter (inLines fr n)).foldl mergeAll s

/-- VFREE's third and fourth steps, once its CAS has cleared the slot (R178): the frame of `size` bytes goes to its pool. -/
def vfreeWait (s : State) (fr pool size : Nat) (pushed : Bool) : State :=
  if !pushed then
    if frameInUse s fr then waitFor s (.vfree fr pool size false)
    else
      waitFor (askPool (settleFrame s fr size) ⟨pool, some fr, size, .vfree s.cur, s.me.sys.asid⟩) (.vfree fr pool size true)
  else if s.dies.any (fun d => d.2.poolOps.any (fun o => o.who == .vfree s.cur)) then waitFor s (.vfree fr pool size true)
  else retire s 4

/-- VFREE (R178, R339). Once its CAS has succeeded it goes on to the end, though y be closed meanwhile. -/
def execVfree (p : Pred) (y : BitVec 2) (c : BitVec 5) (s : State) : Host.Outcome State Fault Refusal :=
  .next (word s p (fun s =>
    match s.me.wait with
    | some ⟨.vfree fr pool size pushed, _⟩ => vfreeWait s fr pool size pushed
    | _ =>
      match vlocate s y.toNat (s.x c).toNat (fun _ => true) with
      | .error (code, eva) => trap s code eva
      | .ok l =>
        release s (fun s =>
          match s.me.reply with
          | none => askWalk s l false false
          | some (2, fr, slot) =>
            if fr = 0 then retire (clearReply s) 4
            else
              match accessWait s s.me.sys.asid true slot with
              | some w => waitFor s w
              | none =>
              let s := clearReply s
              match agentFetch s s.myDie slot 8 with
              | (s, .error (code, g)) => trap s code g
              | (s, .ok v) =>
                if v != fr then retire s 4
                else
                  let s := agentPut s (.shawm s.myDie) s.me.sys.asid slot (leBytes 8 0)
                  vfreeWait (clbDrop s (fun m => m.frame == fr)) fr (volTpool l.vol.desc) (volTile l.vol.desc) false
          | some (_, code, eva) => trap (clearReply s) code eva)))

end Sys2Proof.Machine
end

