-- ==== Sys2Proof/Machine/Bundles.lean ====
section
/-! DEFINITION. Bundles: the bundle words, the messages between holders, coordinator and participants, commit and
abort, and what becomes of bundles when a die falls silent (R181 to R190, R340, R359 to R371). -/

namespace Sys2Proof.Machine

/-! ## Coordinators and messages -/

/-- The coordinator of a ducat (R181). -/
def ducatDie (ducat : Nat) : DieId := ducat / 2 ^ 20 % 256
/-- The bundle of a ducat, while its coordinator has not finished it. -/
def State.bundle (s : State) (ducat : Nat) : Option Bundle := SMap.find (s.die (ducatDie ducat)).bundles ducat
/-- Replaces a bundle. -/
def setBundle (s : State) (ducat : Nat) (b : Bundle) : State :=
  s.modDie (ducatDie ducat) (fun d => { d with bundles := SMap.set d.bundles ducat b })
/-- A bundle that is not done, though its coordinator may have lost power. -/
def State.unfinished (s : State) (ducat : Nat) : Bool := (s.bundle ducat).isSome || (SMap.find s.orphans ducat).isSome
/-- Sends a bundle message. -/
def postB (s : State) (m : BMsg) : State := { s with bmsgs := s.bmsgs ++ [m] }

/-- The i-th message in flight arrives at a die that runs, when it is of kind `k` and may; `body` says what the receiver does. -/
def deliverB (s : State) (i : Nat) (k : BKind) (may : BMsg → Bool) (body : State → BMsg → State) : State :=
  match s.bmsgs[i]? with
  | some m => if m.kind = k && (s.die m.dst).started && may m then body { s with bmsgs := listDrop s.bmsgs i } m else s
  | none => s

/-- The GA that FENCED names for a die: space 0, offset 0 (R187). -/
def silentGa (d : DieId) : Nat := mkGa d 0 0

/-- A context's part in an aborted bundle: a d that holds the ducat is aborted (R369), and so will be the d of a BOPEN whose
join is recorded and which has not run again (R187). -/
def Ctx.bundleAborted (c : Ctx) (ducat : Nat) : Ctx :=
  { c with d := c.d.map (fun r => (r.1, if r.2.ducat = ducat then { r.2 with role := .aborted } else r.2))
           reply := match c.wait, c.reply with
                    | some ⟨.join v, _⟩, some (3, 1, z) => if v = ducat then some (3, 2, z) else c.reply
                    | _, r => r }

/-- The bundle ends (R364): the tags of its BCLOSEs still busy clear, with FENCED when a die fell silent; after an
abort every holder is told (R369); the arbiter records a ducat that silence resolved (R370). -/
def bundleDone (s : State) (ducat : Nat) (b : Bundle) (committed : Bool) : State :=
  let c := ducatDie ducat
  let err := b.silent.map (fun d => ((0x51, silentGa d) : Cause))
  let s := b.tags.foldl (fun s t => s.modCore t.1 (fun k => k.clearTag t.2.1 err)) s
  let s :=
    { s with dies := s.dies.map (fun e =>
               (e.1, { e.2 with bundles := if e.1 = c then SMap.erase e.2.bundles ducat else e.2.bundles
                                applied := SMap.erase e.2.applied ducat }))
             orphans := SMap.erase s.orphans ducat }
  let s :=
    if committed then s
    else
      { s with ctxs := s.ctxs.map (fun e => (e.1, e.2.bundleAborted ducat))
               bmsgs := s.bmsgs.map (fun m => if m.kind == .jack && m.ducat == ducat && m.a == 1 then { m with a := 2 } else m) }
  match b.silent with
  | some d => if pkgOf d = pkgOf c then s else record s (pkgOf c) (dieSource c) (if committed then 3 else 4) ducat
  | none => s

/-- The coordinator aborts a bundle whose COMMIT is not sent (R187, R364). -/
def abortBundle (s : State) (ducat : Nat) (b : Bundle) : State :=
  let b := { b with st := .aborting, abortedBy := [] }
  if b.parts.isEmpty then bundleDone s ducat b false
  else b.parts.foldl (fun s p => postB s ⟨.abort, ducatDie ducat, p, ducat, b.opener, 0, 0⟩) (setBundle s ducat b)

/-! ## BOPEN -/

/-- The next sequence from `n` that no unfinished bundle of the die holds (R181). -/
def freeSeq (d : Die) (die : DieId) : Nat → Nat → Nat
  | 0, n => n
  | fuel + 1, n =>
    let n := if n = 0 || 0xFFFFF < n then 1 else n
    if (SMap.find d.bundles (die * 2 ^ 20 + n)).isSome then freeSeq d die fuel (n + 1) else n

/-- A bundle just opened. -/
def Bundle.new (c : CtxId) : Bundle := ⟨.opened, c, [c], [], [], [], [], [], 0, 0, [], none⟩

/-- d is open in a role, and xd receives the ducat. The latency of BOPEN is not stated: 1 (log 15). -/
def bopened (s : State) (d x : Nat) (r : DReg) : State :=
  finish (s.modMe (fun c => { c with d := SMap.set c.d d r })) 4 1 (.x x (wordOf r.ducat))

/-- BOPEN of a new bundle. -/
def bopenNew (s : State) (d x : Nat) : State :=
  let die := s.myDie
  let k := s.die die
  if 4096 ≤ k.bundles.length then waitFor s .bopenFull
  else
    let n := freeSeq k die 4097 k.nextSeq
    let ducat := die * 2 ^ 20 + n
    let s := s.modDie die (fun k => { k with nextSeq := n + 1, bundles := SMap.set k.bundles ducat (Bundle.new s.cur) })
    bopened s d x ⟨ducat, .opener⟩

/-- A coordinator that cannot be asked: of a package that is gone, or a die left unstarted, every access to which completes FENCED
(R183, R403). R183 names FENCED for the package, and BOUNDS for a ducat of no open bundle, which one of such a die is too: DEDUCED
(log 146), R403 decides. -/
def dieGone (s : State) (from' : PkgId) (d : DieId) : Bool := pkgGone s from' (pkgOf d) || !(s.die d).started

/-- BOPEN that joins: it asks the coordinator and waits for its answer (R340). A bundle that has aborted since leaves d aborted
(R187). -/
def bopenJoin (s : State) (d x v : Nat) : State :=
  let ducat := v % 2 ^ 32
  if bitsOf v 32 31 != 0 || decide (2 ^ 28 ≤ ducat) then trap s 0x13 v
  else if dieGone s (pkgOf s.myDie) (ducatDie ducat) then trap (clearReply s) 0x51 (silentGa (ducatDie ducat))
  else
    match s.me.reply with
    | some (3, ok, _) =>
      if ok = 0 then trap (clearReply s) 0x13 v
      else bopened (clearReply s) d x ⟨ducat, if ok = 1 then .joiner else .aborted⟩
    | some _ => trap (clearReply s) 0x13 v
    | none =>
      match s.me.wait with
      | some ⟨.join _, _⟩ => s
      | _ => waitFor (postB s ⟨.join, s.myDie, ducatDie ducat, ducat, s.cur, 0, 0⟩) (.join ducat)

/-- An aborted d traps BUNDC once, and is closed (R183, R187). -/
def abortedTrap (s : State) (d ducat : Nat) : State :=
  trap (s.modMe (fun c => { c with d := SMap.erase c.d d })) 0x38 ducat

/-- BOPEN (R183, R340). -/
def execBopen (p : Pred) (d : BitVec 2) (x : BitVec 5) (s : State) : Host.Outcome State Fault Refusal :=
  .next (word s p (fun s =>
    match SMap.find s.me.d d.toNat with
    | some r => if r.role = .aborted then abortedTrap s d.toNat r.ducat else trap s 0x13 d.toNat
    | none =>
      let v := (s.x x).toNat
      if bitOf v 63 then bopenJoin s d.toNat x.toNat v else bopenNew s d.toNat x.toNat))

/-- JOIN reaches the coordinator: recorded while the bundle is OPEN, else refused (R340, R364). -/
def execJoin (i : Nat) (s : State) : Host.Outcome State Fault Refusal :=
  .next (deliverB s i .join (fun _ => true) (fun s m =>
    let answer (s : State) (ok : Nat) : State := postB s ⟨.jack, m.dst, m.src, m.ducat, m.ctx, ok, 0⟩
    match s.bundle m.ducat with
    | some b =>
      if b.st = .opened then answer (setBundle s m.ducat { b with holders := b.holders ++ [m.ctx] }) 1 else answer s 0
    | none => answer s 0))

/-- JACK reaches the joiner, whose BOPEN completes or traps (R340). -/
def execJack (i : Nat) (s : State) : Host.Outcome State Fault Refusal :=
  .next (deliverB s i .jack (fun _ => true) (fun s m =>
    s.modCtx m.ctx (fun c =>
      match c.wait with
      | some ⟨.join d, _⟩ => if d = m.ducat then { c with reply := some (3, m.a, 0) } else c
      | _ => c)))

/-! ## BST -/

/-- 100 µs in cc. -/
def bstLimit : Nat := 200000

/-- A pending version of another bundle holds the line (R184, check 6). -/
def bstBlocked (s : State) (line ducat : Nat) : Bool :=
  match s.pending line with
  | some (_, v) => v.ducat != ducat
  | none => false

/-- The first BST of a ducat to a home die asks the coordinator to record it (R365). -/
def askReg (s : State) (d : DieId) (ducat : Nat) (c : CtxId) : State :=
  if (SMap.find (s.die d).regs ducat).isSome then s
  else postB (s.modDie d (fun k => { k with regs := SMap.set k.regs ducat 0 })) ⟨.reg, d, ducatDie ducat, ducat, c, 0, 0⟩

/-- Creates the pending version of a line as a copy of its current version (R184, R362); `none` when the region has no
free slot or entry. -/
def newPending (s : State) (line ducat : Nat) : Option State :=
  let d := homeOf line
  let k := s.die d
  let known := s.companion line
  if decide (k.rscap ≤ k.slots.length) || (known.isNone && decide (k.ctcap ≤ k.comp.length)) then none
  else
    let s := recallLines s (line * 128) 128
    let n := lowestFree k.slots 0
    let slot : Slot := ⟨verPending, ducat, 0, 0, line * 128, s.bytesAt (line * 128) 128, []⟩
    let entry : Nat × Companion :=
      match known with
      | some (i, e) => (i, { e with pnd := some n })
      | none => (lowestFree k.comp 0, ⟨line, 2 ^ 28, 0, 0, none, some n⟩)
    some (s.modDie d (fun k => { k with slots := SMap.set k.slots n slot, comp := SMap.set k.comp entry.1 entry.2 }))

/-- Writes bytes into the pending version of a line, for a job. -/
def writePending (s : State) (asid g : Nat) (bs : List Byte) : State :=
  match s.pending (lineOf g) with
  | some (n, v) =>
    s.modDie (gaDie g) (fun k =>
      { k with slots := SMap.set k.slots n { v with data := patch v.data (g % 128) bs, jobs := v.jobs.erase asid ++ [asid] } })
  | none => s

/-- Checks 6 and 7 of R184 and the store. DESIGN CHOICE (log 131): the 100 µs are those of the wait for the line, whichever bundles
hold it meanwhile. -/
def bstStore (s : State) (ducat off g : Nat) (bs : List Byte) : State :=
  let line := lineOf g
  if bstBlocked s line ducat then
    match s.me.wait with
    | some ⟨.bstConflict l _ _, since⟩ =>
      if l = line && decide (bstLimit ≤ s.now - since) then trap s 0x38 off else waitFor s (.bstConflict line ducat off)
    | _ => waitFor s (.bstConflict line ducat off)
  else
    let made := if (s.pending line).isSome then some s else newPending s line ducat
    match made with
    | none => trap s 0x39 ducat
    | some s => retire (askReg (writePending s s.me.sys.asid g bs) (gaDie g) ducat s.cur) 4

/-- BST (R184): checks 1 to 5 in order, then `bstStore`. -/
def execBst (p : Pred) (d : BitVec 2) (sz : Size) (x : BitVec 5) (h : BitVec 4) (y : BitVec 5) (s : State) :
    Host.Outcome State Fault Refusal :=
  .next (word s p (fun s =>
    match SMap.find s.me.d d.toNat with
    | none => trap s 0x13 d.toNat
    | some r =>
      if r.role = .aborted then abortedTrap s d.toNat r.ducat
      else
        let hd := s.me.getH h.toNat
        let off := s.x y
        let n := Size.bytes sz
        match accessAt hd h.toNat off n with
        | .error (code, eva) => trap s code eva
        | .ok g =>
          -- bundles do not reach space 7 (Tables 1.8, 1.12)
          let denied := if gaSpace hd.gbase = 7 then some ((agentDenied s g n).getD (0x51, g)) else none
          match denied with
          | some e => trap s e.1 e.2
          | none =>
            if !hd.w then trap s 0x11 (hd.va off)
            else if hd.vf then trap s 0x19 off.toNat
            else if !hd.bnd then trap s 0x38 off.toNat
            else
              match watchCore s s.cur g n with
              | some b => trap s 0x28 (watchEvaCore b)
              | none =>
                if fenced s (pkgOf s.myDie) .engine g n then trap s 0x51 g
                else
                match heldBy s s.me.sys.asid true g with
                | some w => waitFor s w
                | none =>
                  -- stores before a fence that orders stores perform first (R345)
                  settle s (fun b => decide (b.epoch < s.me.epoch)) (fun s =>
                    bstStore s r.ducat off.toNat g (leBytes n (s.x x).toNat))))

/-- BST_CONFLICT_TIMEOUT: a wait of check 6 that has lasted 100 µs traps BUNDC (R184). -/
def execBstConflictTimeout (c : CtxId) (s : State) : Host.Outcome State Fault Refusal :=
  .next (match (s.ctx c).wait with
    | some ⟨.bstConflict line ducat off, since⟩ =>
      if bstBlocked s line ducat && decide (bstLimit ≤ s.now - since) && !(s.ctx c).desched then
        trapEntry s c 0x38 off false false
      else s
    | _ => s)

/-- REG reaches the coordinator: it records the participant, or answers ABORT when the bundle is over (R365). -/
def execReg (i : Nat) (s : State) : Host.Outcome State Fault Refusal :=
  .next (deliverB s i .reg (fun _ => true) (fun s m =>
    let refuse (s : State) : State := postB s ⟨.abort, m.dst, m.src, m.ducat, m.ctx, 0, 0⟩
    match s.bundle m.ducat with
    | some b =>
      if b.st = .aborting || b.st = .done then refuse s
      else postB (setBundle s m.ducat { b with parts := b.parts.erase m.src ++ [m.src] })
            ⟨.rack, m.dst, m.src, m.ducat, m.ctx, 0, 0⟩
    | none => refuse s))

/-- RACK reaches the participant: the BSTs of the ducat count as having reached the home (R365). -/
def execRack (i : Nat) (s : State) : Host.Outcome State Fault Refusal :=
  .next (deliverB s i .rack (fun _ => true) (fun s m =>
    s.modDie m.dst (fun k => { k with regs := if (SMap.find k.regs m.ducat).isSome then SMap.set k.regs m.ducat 1 else k.regs })))

/-! ## BCLOSE, BABORT -/

/-- Closes a d register. -/
def closeD (s : State) (d : Nat) : State := s.modMe (fun c => { c with d := SMap.erase c.d d })

/-- BCLOSE of an open d: the tag, the close of d, the message CLOSE; an opener's is a release, and its bundle is
CLOSING from here (R186, R364). -/
def bcloseOpen (s : State) (d : Nat) (r : DReg) (tag : Nat) : State :=
  if (s.core s.myCore).tagBusy tag then waitFor s (.tagBusy tag)
  else
    let body (s : State) : State :=
      let s := closeD (s.modCore s.myCore (fun k => k.takeTag tag s.cur)) d
      match s.bundle r.ducat with
      | none =>
        match SMap.find s.orphans r.ducat with
        | some b =>
          retire { s with orphans := SMap.set s.orphans r.ducat { b with tags := b.tags ++ [(s.myCore, tag, s.cur)] } } 4
        | none => retire (s.modCore s.myCore (fun k => k.clearTag tag none)) 4
      | some b =>
        let b := { b with tags := b.tags ++ [(s.myCore, tag, s.cur)]
                          st := if r.role = .opener && b.st = .opened then .closing else b.st }
        retire (postB (setBundle s r.ducat b)
          ⟨.close, s.myDie, ducatDie r.ducat, r.ducat, s.cur, tag, b2n (r.role == .opener)⟩) 4
    if r.role = .opener then release s body else body s

/-- BCLOSE (R186). A closed d traps BOUNDS with EVA = d, as R183 and R184 name a d that is in the wrong state
(log 21). -/
def execBclose (p : Pred) (d : BitVec 2) (tag : BitVec 6) (s : State) : Host.Outcome State Fault Refusal :=
  .next (word s p (fun s =>
    match SMap.find s.me.d d.toNat with
    | none => trap s 0x13 d.toNat
    | some r => if r.role = .aborted then abortedTrap s d.toNat r.ducat else bcloseOpen s d.toNat r tag.toNat))

/-- Every home that a ducat has a pending version at has had its RACK (R365). -/
def bstsReached (s : State) (ducat : Nat) : Bool := s.dies.all (fun e => SMap.find e.2.regs ducat != some 0)

/-- Sends PREPARE to every participant and to the coordinator itself once every recorded holder has closed (R364). -/
def tryPrepare (s : State) (ducat : Nat) (b : Bundle) : State :=
  if b.st = .closing && decide (b.holders.length ≤ b.closed.length) then
    let c := ducatDie ducat
    let b := { b with st := .preparing, parts := b.parts.erase c ++ [c] }
    b.parts.foldl (fun s p => postB s ⟨.prepare, c, p, ducat, b.opener, 0, 0⟩) (setBundle s ducat b)
  else setBundle s ducat b

/-- CLOSE reaches the coordinator, after every BST of the holder has reached its home; a joiner's tag clears (R186,
R365). -/
def execClose (i : Nat) (s : State) : Host.Outcome State Fault Refusal :=
  .next (deliverB s i .close (fun m => bstsReached s m.ducat) (fun s m =>
    match s.bundle m.ducat with
    | none => s
    | some b =>
      let key : CoreId × Nat × CtxId := (coreOf m.ctx, m.a, m.ctx)
      let joiner := m.b == 0
      -- the tag of a bundle that a silent die aborts clears with FENCED (R187, R370)
      let err := if b.st = .aborting then b.silent.map (fun d => ((0x51, silentGa d) : Cause)) else none
      let s := if joiner && b.tags.contains key then s.modCore (coreOf m.ctx) (fun k => k.clearTag m.a err) else s
      let b := { b with closed := b.closed ++ [m.ctx], tags := if joiner then b.tags.erase key else b.tags }
      tryPrepare s m.ducat b))

/-- The lines that have a pending version of a ducat at a die: slot numbers and slots. -/
def pendingSlots (s : State) (d : DieId) (ducat : Nat) : List (Nat × Slot) :=
  (s.die d).slots.filter (fun e => e.2.ducat == ducat && (e.2.state == verPending || e.2.state == verPrepared))

/-- Every cached copy of a line in the domain is invalidated, SI copies and snoop-filter entries included (R366). -/
def dropCopies (s : State) (line : Nat) : State :=
  let s := homePurge (mergeAll s line) line
  { s with cores := s.cores.map (fun e => (e.1, { e.2 with si := SMap.erase e.2.si line })) }

/-- PREPARE reaches a participant (R366): cached copies of its lines are invalidated, the lines are PREPARED, and it
answers with its HSS and the digest bits of its lines. -/
def execPrepare (i : Nat) (s : State) : Host.Outcome State Fault Refusal :=
  .next (deliverB s i .prepare (fun _ => true) (fun s m =>
    let l := pendingSlots s m.dst m.ducat
    let s := l.foldl (fun s e => dropCopies s (lineOf e.2.ga)) s
    let s := s.modDie m.dst (fun k =>
      { k with slots := k.slots.map (fun e => (e.1,
        if e.2.ducat == m.ducat && e.2.state == verPending then { e.2 with state := verPrepared } else e.2)) })
    postB s ⟨.prepared, m.dst, m.src, m.ducat, m.ctx, (s.die m.dst).hss, l.foldl (fun g e => g ||| bloom (lineOf e.2.ga)) 0⟩))

/-- COMMIT is sent once every participant has answered: stamp and digest are fixed, and the coordinator has issued the stamp
(R366). -/
def tryCommit (s : State) (ducat : Nat) (b : Bundle) : State :=
  if b.st = .preparing && b.parts.all (fun p => b.prepared.any (fun e => e.1 == p)) then
    let c := ducatDie ducat
    let stamp := b.prepared.foldl (fun n e => max n e.2.1) (s.die c).hss + 1
    let digest := b.prepared.foldl (fun n e => n ||| e.2.2) 0
    let b := { b with st := .committing, stamp := stamp, digest := digest }
    b.parts.foldl (fun s p => postB s ⟨.commit, c, p, ducat, b.opener, stamp, digest⟩)
      ((setBundle s ducat b).modDie c (fun k => { k with hss := max k.hss stamp }))
  else setBundle s ducat b

/-- PREPARED reaches the coordinator (R366). -/
def execPrepared (i : Nat) (s : State) : Host.Outcome State Fault Refusal :=
  .next (deliverB s i .prepared (fun _ => true) (fun s m =>
    match s.bundle m.ducat with
    | some b => if b.st = .preparing then tryCommit s m.ducat { b with prepared := b.prepared ++ [(m.src, m.a, m.b)] } else s
    | none => s))

/-- One line rotates (R368): the pending data, with stamp and digest, become current; the former current takes the
pending slot as the prior; the former prior slot is freed. The jobs that stored into it mark the granule (R390). -/
def rotateLine (s : State) (c : CtxId) (stamp digest : Nat) (n : Nat) (v : Slot) : State :=
  let line := lineOf v.ga
  match s.companion line with
  | none => s
  | some (i, e) =>
    let old := s.bytesAt v.ga 128
    let s := v.jobs.foldl (fun s a => markDirty s a v.ga) (l2Write s line (BitVec.allOnes 32))
    let s := s.put v.ga v.data
    let s := { s with hits := s.hits ++ watchHits s (.engine (coreOf c) 0) v.ga 128 }
    s.modDie (homeOf line) (fun k =>
      let slots := match e.prv with | some m => SMap.erase k.slots m | none => k.slots
      { k with slots := SMap.set slots n ⟨verPrior, e.ctag % 2 ^ 28, e.cstamp, e.cdigest, v.ga, old, []⟩
               comp := SMap.set k.comp i
                 { e with ctag := 2 ^ 28 + v.ducat, cstamp := stamp, cdigest := digest, prv := some n, pnd := none } })

/-- All of a ducat's lines at a die rotate, as one step (R366). -/
def rotateAt (s : State) (d : DieId) (ducat : Nat) (c : CtxId) (stamp digest : Nat) : State :=
  let s := (pendingSlots s d ducat).foldl (fun s e => rotateLine s c stamp digest e.1 e.2) s
  s.modDie d (fun k => { k with hss := max k.hss stamp, regs := SMap.erase k.regs ducat
                                applied := SMap.set k.applied ducat (stamp, digest) })

/-- What a COMMIT writes at a die: the lines of the ducat, and what their jobs' dirty bits need. -/
def commitGas (s : State) (d : DieId) (ducat : Nat) : List Nat :=
  (pendingSlots s d ducat).flatMap (fun e => e.2.ga :: e.2.jobs.flatMap (fun a => dirtyGas s a e.2.ga))

/-- COMMIT reaches a participant (R366, R368), once the device owns the regions that it writes (R284). -/
def execCommit (i : Nat) (s : State) : Host.Outcome State Fault Refusal :=
  .next (deliverB s i .commit (fun m => !(commitGas s m.dst m.ducat).any (procOwned s)) (fun s m =>
    postB (rotateAt s m.dst m.ducat m.ctx m.a m.b) ⟨.committed, m.dst, m.src, m.ducat, m.ctx, 0, 0⟩))

/-- The bundle is done once every surviving participant has answered. -/
def tryDone (s : State) (ducat : Nat) (b : Bundle) : State :=
  if b.st = .committing && b.parts.all (fun p => b.committed.contains p) then bundleDone s ducat b true
  else if b.st = .aborting && b.parts.all (fun p => b.abortedBy.contains p) then bundleDone s ducat b false
  else setBundle s ducat b

/-- COMMITTED reaches the coordinator (R364). -/
def execCommitted (i : Nat) (s : State) : Host.Outcome State Fault Refusal :=
  .next (deliverB s i .committed (fun _ => true) (fun s m =>
    match s.bundle m.ducat with
    | some b => tryDone s m.ducat { b with committed := b.committed ++ [m.src] }
    | none => s))

/-- A participant frees every pending slot of a ducat (R369). -/
def discardAt (s : State) (d : DieId) (ducat : Nat) : State :=
  let gone := (pendingSlots s d ducat).map (fun e => e.1)
  s.modDie d (fun k =>
    { k with slots := k.slots.filter (fun e => !gone.contains e.1)
             comp := k.comp.map (fun e => (e.1, match e.2.pnd with
               | some n => if gone.contains n then { e.2 with pnd := none } else e.2
               | none => e.2))
             regs := SMap.erase k.regs ducat })

/-- ABORT reaches a participant (R369). -/
def execAbort (i : Nat) (s : State) : Host.Outcome State Fault Refusal :=
  .next (deliverB s i .abort (fun _ => true) (fun s m =>
    postB (discardAt s m.dst m.ducat) ⟨.aborted, m.dst, m.src, m.ducat, m.ctx, 0, 0⟩))

/-- ABORTED reaches the coordinator (R364). -/
def execAborted (i : Nat) (s : State) : Host.Outcome State Fault Refusal :=
  .next (deliverB s i .aborted (fun _ => true) (fun s m =>
    match s.bundle m.ducat with
    | some b => if b.st = .aborting then tryDone s m.ducat { b with abortedBy := b.abortedBy ++ [m.src] } else s
    | none => s))

/-- A holder aborts: d is closed at once and the coordinator begins to abort (R187). -/
def holderAborts (s : State) (d : Nat) (r : DReg) : State :=
  let s := closeD s d
  match s.bundle r.ducat with
  | some b => if b.st = .opened || b.st = .closing then abortBundle s r.ducat b else s
  | none => s

/-- BABORT (R187): the context takes no step until the discarding has completed; a closed d traps as for BCLOSE
(log 21). -/
def execBabort (p : Pred) (d : BitVec 2) (s : State) : Host.Outcome State Fault Refusal :=
  .next (word s p (fun s =>
    match s.me.wait with
    | some ⟨.babort ducat, _⟩ => if s.unfinished ducat then s else retire s 4
    | _ =>
      match SMap.find s.me.d d.toNat with
      | none => trap s 0x13 d.toNat
      | some r =>
        if r.role = .aborted then abortedTrap s d.toNat r.ducat
        else
          let s := holderAborts s d.toNat r
          if s.unfinished r.ducat then waitFor s (.babort r.ducat) else retire s 4))

/-! ## Read groups -/

/-- RGBEG (R189). -/
def execRgbeg (p : Pred) (s : State) : Host.Outcome State Fault Refusal :=
  .next (word s p (fun s => retire (s.modMe (fun c => { c with rg := some ⟨false, false, 0, []⟩ })) 4))

/-- RGEND's result (R190). -/
def rgendWord (g : Option ReadGroup) : Word :=
  match g with
  | none => 3
  | some g => wordOf (g.lines.length * 2 ^ 16 + g.vf * 2 ^ 8 + (if g.ov then 2 else if g.fr then 1 else 0))

/-- RGEND (R190). -/
def execRgend (p : Pred) (x : BitVec 5) (s : State) : Host.Outcome State Fault Refusal :=
  .next (word s p (fun s => finish (s.modMe (fun c => { c with rg := none })) 4 1 (.x x.toNat (rgendWord s.me.rg))))

/-! ## CSCRUB -/

/-- CSCRUB of a page (Table 21.4): its entries and prior slots are freed, unless a lease-table entry maps it with BND
or a line has a pending version; 0x13 when the page is left unchanged. -/
def cscrubPage (s : State) (d : DieId) (v : Nat) : State :=
  let g := gaOf v
  let k := s.die d
  let mine := k.comp.filter (fun e => decide (g ≤ e.2.line * 128) && decide (e.2.line * 128 < g + 4096))
  let mapped := s.dies.any (fun e => e.2.leases.any (fun f =>
    f.bnd && decide (f.gbase < g + 4096) && decide (g < f.gbase + pageBytes f.psize)))
  if g % 4096 != 0 || gaDie g != d || mapped || mine.any (fun e => e.2.pnd.isSome) then
    s.modDie d (fun k => { k with cscrub := 0x13 })
  else
    let keys := mine.map (fun e => e.1)
    let prv := mine.filterMap (fun e => e.2.prv)
    s.modDie d (fun k =>
      { k with comp := k.comp.filter (fun e => !keys.contains e.1), slots := k.slots.filter (fun e => !prv.contains e.1)
               cscrub := 0 })

/-- CSCRUB (R371). -/
def execCscrub (d : DieId) (v : Word) (s : State) : Host.Outcome State Fault Refusal := .next (cscrubPage s d v.toNat)

/-! ## Silence (R370) -/

/-- The first die of package `p` that a bundle names as participant or holder. -/
def Bundle.involves (b : Bundle) (p : PkgId) : Option DieId :=
  (b.parts ++ b.holders.map dieOf).find? (fun d => pkgOf d == p)

/-- A coordinator of a surviving package resolves one bundle against a silent package: it aborts before COMMIT is sent,
and goes on committing, or aborting, without the silent participants after. -/
def resolveOwn (s : State) (ducat : Nat) (p : PkgId) : State :=
  match s.bundle ducat with
  | none => s
  | some b =>
    match b.involves p with
    | none => s
    | some d =>
      let b := { b with silent := some d, parts := b.parts.filter (fun q => pkgOf q != p) }
      match b.st with
      | .committing => tryDone s ducat b
      | .aborting => tryDone s ducat b
      | _ => abortBundle s ducat b

/-- The stamp and digest of a COMMIT that some die outside a silent package holds for a ducat. -/
def commitHeld (s : State) (ducat : Nat) (p : PkgId) : Option (Nat × Nat) :=
  s.dies.findSome? (fun e => if pkgOf e.1 = p then none else SMap.find e.2.applied ducat)

/-- A die is a participant of a ducat: it has registered, or holds a pending version (R365). -/
def participates (s : State) (d : DieId) (ducat : Nat) : Bool :=
  (SMap.find (s.die d).regs ducat).isSome || !(pendingSlots s d ducat).isEmpty

/-- A bundle whose coordinator is silent: every survivor commits when one of them holds COMMIT, else aborts. The tags
of its BCLOSEs clear with FENCED, naming the coordinator; every d that holds the ducat of an abort is aborted; the arbiter
records the ducat. -/
def resolveOrphan (s : State) (own : PkgId) (ducat : Nat) (p : PkgId) : State :=
  let survivors := (s.dies.map (fun e => e.1)).filter (fun d => pkgOf d != p && participates s d ducat)
  let held := commitHeld s ducat p
  let b := ((s.bundle ducat).orElse (fun _ => SMap.find s.orphans ducat)).getD (Bundle.new 0)
  let s := survivors.foldl (fun s d =>
    match held with
    | some (stamp, digest) => rotateAt s d ducat b.opener stamp digest
    | none => discardAt s d ducat) s
  -- what the silent coordinator sent of it is resolved with it
  let s := { s with bmsgs := s.bmsgs.filter (fun m => m.ducat != ducat || m.kind == .jack) }
  record (bundleDone s ducat { b with silent := some (ducatDie ducat) } held.isSome) own 0 (if held.isSome then 3 else 4) ducat

/-- Messages between a package and one it has fenced are lost; a join waiting on the silent die traps FENCED. -/
def dropSilent (s : State) (own p : PkgId) : State :=
  { s with bmsgs := s.bmsgs.filter (fun m =>
      !((pkgOf m.src == own && pkgOf m.dst == p) || (pkgOf m.src == p && pkgOf m.dst == own))) }

/-- BUNDLE_SILENCE_RESOLVE (R370): package `own` has fenced package `p`. -/
def bundlesOnSilence (s : State) (own p : PkgId) : State :=
  let s := dropSilent s own p
  let mine := s.dies.flatMap (fun e => if pkgOf e.1 = own then e.2.bundles.map (fun b => b.1) else [])
  let s := mine.foldl (fun s k => resolveOwn s k p) s
  let away (ducat : Nat) : Bool := pkgOf (ducatDie ducat) == p
  let held := s.dies.flatMap (fun e =>
    if pkgOf e.1 = own then
      ((e.2.slots.filter (fun v => v.2.state == verPending || v.2.state == verPrepared)).map (fun v => v.2.ducat)).filter away
    else if pkgOf e.1 = p then e.2.bundles.map (fun b => b.1) else [])
  let open' := s.ctxs.flatMap (fun e =>
    if pkgOf (dieOf e.1) = own then ((e.2.d.filter (fun r => r.2.role != .aborted)).map (fun r => r.2.ducat)).filter away else [])
  (held ++ open' ++ (s.orphans.map (fun b => b.1)).filter away).eraseDups.foldl (fun s k => resolveOrphan s own k p) s

end Sys2Proof.Machine
end

