-- ==== Sys2Proof/Machine/Channels.lean ====
section
/-! DEFINITION. Channels (R113, R114, R245 to R248): the handler table, how words reach an inbox, SENDW, WAITCH and the
start of a handler's run. -/

namespace Sys2Proof.Machine

/-! ## The handler table -/

/-- Entry c of a core's handler table. -/
def Core.chan (k : Core) (ch : Nat) : Chan := SMap.getD k.chans ch Chan.reset
/-- Changes an entry. -/
def modChan (s : State) (k : CoreId) (ch : Nat) (f : Chan → Chan) : State :=
  s.modCore k (fun x => { x with chans := SMap.set x.chans ch (f (x.chan ch)) })

/-- EN as it is in effect: an entry whose context holds a tile task waits for that task to complete (R246). -/
def chanOpen (s : State) (k : CoreId) (ch : Nat) : Bool :=
  let e := (s.core k).chan ch
  e.en && (s.ctx (16 * k + e.ctx)).task.isNone

/-- A channel is runnable (R247). -/
def chanRunnable (s : State) (k : CoreId) (ch : Nat) : Bool :=
  let e := (s.core k).chan ch
  chanOpen s k ch && !e.msk && !e.inbox.isEmpty

/-- The context is reserved for channels (R246). -/
def reserved (s : State) (k : CoreId) (ctx : Nat) : Bool := (s.core k).chans.any (fun e => e.2.en && e.2.ctx == ctx)

/-- RUN: a run of the channel's handler is in progress (Table 11.1). -/
def chanRuns (s : State) (k : CoreId) (ch : Nat) : Bool :=
  (List.range 16).any (fun i => let x := s.ctx (16 * k + i); x.run && x.chan == some ch)

/-- Word 1 of an entry as it reads. -/
def chanWord1 (s : State) (k : CoreId) (ch : Nat) : Nat :=
  let e := (s.core k).chan ch
  b2n e.en * 2 ^ 63 + b2n e.msk * 2 ^ 62 + e.prio * 2 ^ 59 + e.ctx * 2 ^ 55 + b2n e.pls * 2 ^ 54 + e.asid * 2 ^ 32
    + b2n (chanRuns s k ch) * 2 ^ 4 + e.inbox.length

/-! ## Words -/

/-- The core of a channel address (R113). -/
def addrCore (a : Nat) : CoreId := bitsOf a 6 14
/-- The channel of a channel address. -/
def addrChan (a : Nat) : Nat := bitsOf a 0 6

/-- A word of a sender enters an inbox, before the words of the same cc whose senders have higher COREIDs (R247). -/
def Chan.enter (e : Chan) (now src : Nat) (w : Lane) : Chan :=
  let late := if e.lateAt = now then e.late.drop (e.late.length - e.inbox.length) else []
  let n := (late.takeWhile (fun v => decide (v ≤ src))).length
  let i := e.inbox.length - late.length + n
  { e with inbox := e.inbox.take i ++ w :: e.inbox.drop i, lateAt := now, late := late.take n ++ src :: late.drop n }

/-- A word that no context sends enters an inbox, or one of a context of COREID `src`. -/
def enterWord (s : State) (k : CoreId) (ch src : Nat) (w : Lane) : State :=
  modChan s k ch (fun e => { e.enter s.now src w with peer := none })

/-- The word of a context's SENDW enters an inbox, which notes the sender's job (R266), and the SENDW completes. -/
def sendWord (s : State) (c : CtxId) (k : CoreId) (ch : Nat) (w : Lane) : State :=
  (modChan (enterWord s k ch (coreId s c) w) k ch (fun e => { e with peer := some (s.ctx c).sys.asid })).modCtx c (fun x =>
    ({ x with sent := some x.blk }.advance 4).tickStep)

/-- The place, among senders of one cc, of a word that no context sends: after every context's (log 115). -/
def noSender : Nat := 2 ^ 25

/-- A target no word reaches: its package is absent or fenced, or the core has not started (R113, R403). -/
def sendGone (s : State) (from' : PkgId) (k : CoreId) : Bool :=
  pkgGone s from' (pkgOf (dieOfCore k)) || !(s.core k).started

/-- A dispatcher's own word, sent as SENDW would: it enters, waits on a full inbox, or is discarded (R254, R277). -/
def postWord (s : State) (d : DieId) (addr w : Nat) : State :=
  let k := addrCore addr
  let ch := addrChan addr
  if sendGone s (pkgOf d) k || !chanOpen s k ch then s
  else if ((s.core k).chan ch).inbox.length < 4 then enterWord s k ch noSender (BitVec.ofNat 32 w)
  else s.modDie d (fun x => { x with words := x.words ++ [(addr % 2 ^ 20, w)] })

/-- The word of a context that waits in SENDW for the inbox, with the cc at which it began to wait. -/
def Ctx.sending (x : Ctx) (k : CoreId) (ch : Nat) : Option (Nat × Lane) :=
  match x.wait with
  | some ⟨.sendFull k' ch' w, since⟩ => if k' = k && ch' = ch && !x.desched then some (since, w) else none
  | _ => none

/-- The context that has waited longest for the inbox, and the one of lowest COREID among equals (log 115). -/
def firstSending (s : State) (k : CoreId) (ch : Nat) : Option (CtxId × Nat × Lane) :=
  (s.ctxs.filterMap (fun e => (e.2.sending k ch).map (fun w => (e.1, w)))).foldl (fun best e =>
    match best with
    | none => some e
    | some b =>
      if e.2.1 < b.2.1 || (e.2.1 = b.2.1 && decide (coreId s e.1 < coreId s b.1)) then some e else best) none

/-- A place of an inbox is free: the first word of a context that waits for it enters, and its SENDW completes; with none, the
first that a dispatcher holds back (R247). -/
def takeWaiting (s : State) (k : CoreId) (ch : Nat) : State :=
  match firstSending s k ch with
  | some (c, _, w) => sendWord s c k ch w
  | none =>
  match s.dies.find? (fun e => e.2.words.any (fun w => addrCore w.1 == k && addrChan w.1 == ch)) with
  | none => s
  | some e =>
    match e.2.words.findIdx? (fun w => addrCore w.1 == k && addrChan w.1 == ch) with
    | none => s
    | some i =>
      let w := (e.2.words.getD i (0, 0)).2
      enterWord (s.modDie e.1 (fun x => { x with words := listDrop x.words i })) k ch noSender (BitVec.ofNat 32 w)

/-- In the cc in which it entered, the last word of a full inbox gives its place to one of a sender of lower COREID: the SENDW
that sent it waits as if it had met the full inbox (R247). A sender that has done more since keeps its place (log 115). -/
def giveWay (s : State) (k : CoreId) (ch src : Nat) : Option State :=
  let e := (s.core k).chan ch
  match e.late.getLast?, e.inbox.getLast? with
  | some v, some w =>
    let c := v % 2 ^ 18
    let x := s.ctx c
    match x.sent with
    | some b =>
      if e.lateAt = s.now && decide (src < v) && decide (v < noSender) && x.between && x.wait.isNone
          && x.blk == ({ x with blk := b }.advance 4).blk then
        some (modChan (s.modCtx c (fun x =>
            { x with blk := b, stepNo := x.stepNo - 1, sent := none, wait := some ⟨.sendFull k ch w, s.now⟩ }))
          k ch (fun e => { e with inbox := e.inbox.dropLast, late := e.late.dropLast }))
      else none
    | none => none
  | _, _ => none

/-- SENDW (R113). The word waits in the sender while the inbox is full; a channel whose EN is 0 discards it. -/
def execSendw (p : Pred) (a b : BitVec 5) (s : State) : Host.Outcome State Fault Refusal :=
  .next (word s p (fun s =>
    let v := (s.x a).toNat
    let k := addrCore v
    let ch := addrChan v
    if bitsOf v 20 44 != 0 then trap s 0x13 v
    else if !s.me.sys.pl && decide (1 ≤ ch) && decide (ch ≤ 7) then trapWord s 0x03 (.sendw p a b)
    else if sendGone s (pkgOf s.myDie) k then trap s 0x51 v
    else
      release s (fun s =>
        if !chanOpen s k ch then retire s 4
        else
          let w : Lane := BitVec.ofNat 32 (s.x b).toNat
          if ((s.core k).chan ch).inbox.length < 4 then sendWord s s.cur k ch w
          else
            match giveWay s k ch (coreId s s.cur) with
            | some s => sendWord s s.cur k ch w
            | none => waitFor s (.sendFull k ch w))))

/-- WAITCH (R114): the receipt is an acquire. -/
def execWaitch (p : Pred) (d : BitVec 5) (s : State) : Host.Outcome State Fault Refusal :=
  .next (word s p (fun s =>
    match s.me.chan with
    | none => trapWord s 0x01 (.waitch p d)
    | some ch =>
      match ((s.core s.myCore).chan ch).inbox with
      | [] => waitFor s .inbox
      | w :: ws =>
        let s := takeWaiting (modChan s s.myCore ch (fun e => { e with inbox := ws })) s.myCore ch
        finish (acquire s) 4 1 (.x d.toNat (wordOf w.toNat))))

/-- CHANNEL_WORD_ARRIVAL: a word from outside the cores arrives (R247); one that meets a full inbox waits with its
sender, and the step changes nothing. -/
def execChannelWordArrival (k : CoreId) (ch : BitVec 6) (w : Lane) (s : State) : Host.Outcome State Fault Refusal :=
  .next (if !(s.core k).started || !chanOpen s k ch.toNat || decide (4 ≤ ((s.core k).chan ch.toNat).inbox.length) then s
    else enterWord s k ch.toNat noSender w)

/-! ## Runs -/

/-- A context as its next run begins: registers and opaque registers of R88, at a header that is about to be entered;
system registers as they stand. -/
def Ctx.begin' (c : Ctx) (addr : Nat) : Ctx :=
  { Ctx.reset with
    sys := c.sys, wreport := c.wreport, pushSeq := c.pushSeq, ltstat := c.ltstat, plstat := c.plstat, adv := c.adv
    pushes := c.pushes, blk := { Block.reset with pc := addr, entering := true }, run := true, runNo := c.runNo + 1 }

/-- The header a run begins at is checked by R100; the run begins with the trap when it fails (Table 11.2). While a host owns
a region that the check reads, the context waits with the check before it (R284). -/
def startAt (s : State) (c : CtxId) (addr : Nat) : State :=
  match headerWait s c addr with
  | some w => s.modCtx c (fun x => { x with held := some ⟨0, addr, false, false⟩, wait := some ⟨w, s.now⟩ })
  | none =>
    match checkTarget s c addr with
    | (s', .ok _) => s'
    | (s', .error (code, va, fetch)) => trapEntry s' c code va false fetch

/-- The channel that a free context takes: the highest PRIO, then the first after the one that last ran there (R248). -/
def nextChannel (s : State) (k : CoreId) (ctx : Nat) : Option Nat :=
  let last := SMap.getD (s.core k).lastCh ctx 63
  let ready := ((List.range 64).map (fun i => (last + 1 + i) % 64)).filter (fun ch =>
    chanRunnable s k ch && ((s.core k).chan ch).ctx == ctx)
  ready.foldl (fun best ch =>
    match best with
    | none => some ch
    | some b => if ((s.core k).chan b).prio < ((s.core k).chan ch).prio then some ch else best) none

/-- HANDLER_START (R248). -/
def execHandlerStart (k : CoreId) (ctx : BitVec 4) (s : State) : Host.Outcome State Fault Refusal :=
  .next (
    let c := 16 * k + ctx.toNat
    let x := s.ctx c
    if x.run || x.task.isSome || !(s.core k).started then s
    else
      match nextChannel s k ctx.toNat with
      | none => s
      | some ch =>
        let e := (s.core k).chan ch
        let y := { x.sys with pl := e.pls, ppl := false, ie := true, pie := false, skip := false, pri := e.prio, asid := e.asid }
        let s := s.modCore k (fun q => { q with lastCh := SMap.set q.lastCh ctx.toNat ch })
        startAt (s.modCtx c (fun x => { x.begin' e.addr with sys := y, chan := some ch })) c e.addr)

/-- The word of a context that waits for a full inbox is discarded, and its SENDW completes (R247). -/
def Ctx.sendDropped (c : Ctx) (k : CoreId) (ch : Nat) : Ctx :=
  match c.sending k ch with
  | some _ => (c.advance 4).tickStep
  | none => c

/-- A write of a handler-table word (R245, R247). Clearing EN discards the words that wait for a full inbox. -/
def chanWrite (s : State) (k : CoreId) (ch : Nat) (word1 : Bool) (v : Nat) : State :=
  if !word1 then modChan s k ch (fun e => { e with addr := v % 2 ^ 56 })
  else
    let s := modChan s k ch (fun e =>
      { e with en := bitOf v 63, msk := bitOf v 62, prio := bitsOf v 59 3, ctx := bitsOf v 55 4, pls := bitOf v 54
               asid := bitsOf v 32 15 })
    if bitOf v 63 then s
    else
      { s with ctxs := s.ctxs.map (fun e => (e.1, e.2.sendDropped k ch))
               dies := s.dies.map (fun e =>
          (e.1, { e.2 with words := e.2.words.filter (fun w => !(addrCore w.1 == k && addrChan w.1 == ch)) })) }

/-- HANDLER_TABLE_WRITE (R247). -/
def execHandlerTableWrite (k : CoreId) (ch : BitVec 6) (word1 : Bool) (v : Word) (s : State) :
    Host.Outcome State Fault Refusal :=
  .next (chanWrite s k ch.toNat word1 v.toNat)

end Sys2Proof.Machine
end

