-- ==== Sys2Proof/Machine/Tasks.lean ====
section
/-! DEFINITION. The end of runs and tasks (R34, R116, R281), barriers (R118, R263), the end of launches (R254) and RETH. -/

namespace Sys2Proof.Machine

/-! ## Is a region done? -/

/-- Sinks (R200). -/
def isSink (cfg : Nat) : Bool := [0x67, 0x81, 0x82, 0xA1, 0xC0, 0xC1].contains (cfgOp cfg)

/-- Every sink has consumed EOS since placement (R200). -/
def Region.sinksDone (r : Region) : Bool := r.sites.all (fun e => !isSink e.2.cfg || e.2.sawEos)

/-- A port operator of the region names a queue-table entry, QPEEK among them (R256, R267). -/
def Region.portNamed (r : Region) (e : Nat) : Bool :=
  r.sites.any (fun i => [0x80, 0x81, 0x82, 0x83].contains (cfgOp i.2.cfg) && cfgAux i.2.cfg % 64 == e)

/-- The region holds a token on a link, at a site, on the path to an SA port, or at a port (R34). -/
def Region.holdsToken (r : Region) (qs : SMap Queue) : Bool :=
  r.links.any (fun l => !l.2.isEmpty)
    || r.sites.any (fun e => (e.2.self.isSome && !e.2.reload) || !e.2.held.isEmpty || !e.2.buf.isEmpty || !e.2.outq.isEmpty)
    || r.sas.any (fun a => !a.port0.isEmpty || !a.port1.isEmpty || !a.port2.isEmpty)
    || qs.any (fun q => r.portNamed q.1 && !q.2.portTokens.isEmpty)

/-- DONE of R265: sealed (R383), or every sink has consumed EOS and no token is held. -/
def Region.finished (r : Region) (qs : SMap Queue) : Bool := r.sealed || (r.sinksDone && !r.holdsToken qs)

/-- The execute slice of a task is done, or it has none (R34, R383). -/
def Task.sliceDone (t : Task) : Bool :=
  match t.region with
  | none => true
  | some r => r.finished t.queues

/-! ## Launches -/

/-- A launch of a die by its number. -/
def Die.launch (d : Die) (n : Nat) : Option Launch := d.launches.find? (fun l => l.num == n)

/-- Changes a launch of its home die. -/
def modLaunch (s : State) (d : DieId) (n : Nat) (f : Launch → Launch) : State :=
  s.modDie d (fun x => { x with launches := x.launches.map (fun l => if l.num = n then f l else l) })

/-- Tile tasks of a launch. -/
def Launch.total (l : Launch) : Nat := l.gx * l.gy * l.gz

/-- A pin drops from an entry of a die (R277): `pin` names die and entry. -/
def dropPin (s : State) (pin : Nat) : State :=
  s.modDie (pin / 2 ^ 32) (fun d =>
    { d with leases := d.leases.map (fun e => if e.id = pin % 2 ^ 32 then { e with pins := e.pins - 1 } else e) })

/-- A launch that an abandoned resumption has ended leaves once no task of it is placed: its pins drop (R277). -/
def leaveLaunch (s : State) (d : DieId) (n : Nat) : State :=
  match (s.die d).launch n with
  | none => s
  | some l =>
    let placed := s.ctxs.any (fun e => match e.2.task with | some t => t.launch == n && t.hdie == d | none => false)
    if !l.gone || placed then s
    else l.pins.foldl dropPin (s.modDie d (fun x => { x with launches := x.launches.filter (fun k => k.num != n) }))

/-- A launch ends (R254): its pins drop, and with DEN set its status word goes to DONE. -/
def endLaunch (s : State) (d : DieId) (n status : Nat) : State :=
  match (s.die d).launch n with
  | none => s
  | some l =>
    let s := s.modDie d (fun x => { x with launches := x.launches.filter (fun k => k.num != n) })
    let s := l.pins.foldl dropPin s
    match l.done with
    | some addr => postWord s d addr (status * 2 ^ 28 + n % 2 ^ 28)
    | none => s

/-- The resumption of a group has been abandoned (R277): the launch ends with status ENDED and places nothing more, and it leaves
with its last task. -/
def abandonLaunch (s : State) (d : DieId) (n : Nat) : State :=
  match (s.die d).launch n with
  | none => s
  | some l =>
    let s := leaveLaunch (modLaunch s d n (fun k => { k with gone := true, next := k.total, done := none })) d n
    match l.done with
    | some addr => postWord s d addr (2 * 2 ^ 28 + n % 2 ^ 28)
    | none => s

/-! ## ENDT -/

/-- What the run of the running context leaves (R116): opaque registers invalid, the read group gone. A tile task's
bindings stay with its engine commands until it completes; no word can name them any more. -/
def Ctx.ended' (c : Ctx) : Ctx :=
  let c := c.landAll
  { c with h := [], s := [], f := [], y := [], d := [], rg := none, q := if c.task.isSome then c.q else []
           wait := none, imx := [], run := false, ended := c.task.isSome, chan := none, due := [] }

/-- The run ends. One that LEASEV marked ending seals a region that is not DONE (R281). -/
def finishRun (s : State) : State :=
  let c := s.cur
  let bad := s.me.ending
  let s := s.modMe Ctx.ended'
  match s.me.task with
  | some t => if bad && !t.sliceDone then sealRegion s c 0 else s
  | none => s

/-- Aborts the open ducats one by one, waiting for each as BABORT does, then ends the run. -/
def endDucats : Nat → State → State
  | 0, s => finishRun s
  | fuel + 1, s =>
    match s.me.d.find? (fun e => e.2.role != .aborted) with
    | none => finishRun s
    | some (d, r) =>
      let s := holderAborts s d r
      if s.unfinished r.ducat then waitFor s (.babort r.ducat) else endDucats fuel s

/-- ENDT's drain waits: for the copies that the context tagged, and for stores that a host's ownership holds back. -/
def drainWaits (s : State) (c : CtxId) : Bool :=
  (s.core (coreOf c)).copies.any (fun k => k.owner == c) || (s.ctx c).sbuf.any (storeHeld s)

/-- The steps of ENDT (R116), also those of a RETH that ends the task (R281): a release, which the context's updates are ordered by
(R136). -/
def endRun (s : State) : State :=
  match s.me.wait with
  | some ⟨.babort ducat, _⟩ => if s.unfinished ducat then s else endDucats 4 s
  | _ =>
    if drainWaits s s.cur then waitFor s .drain
    else
      let s := mergeOwn (drain (s.modMe Ctx.landAll) s.cur) s.cur
      match s.me.owed with
      | some g => trap (s.modMe (fun c => { c with owed := none })) 0x51 g
      | none => endDucats 4 s

/-- ENDT (R116). -/
def execEndt (p : Pred) (s : State) : Host.Outcome State Fault Refusal := .next (word s p endRun)

/-- RETH (R110, R281). -/
def execReth (p : Pred) (s : State) : Host.Outcome State Fault Refusal :=
  .next (word s p (fun s => privileged s (.reth p) (fun s => 
    if s.me.ending then endRun s else match rethWait s with | some w => waitFor s w | none => rethReturn s)))

/-! ## Completion of a task (R34, R261) -/

/-- The start values of R88, with TVEC = DEFTVEC as it then reads (R112). -/
def Sys.start (tvec : Nat) : Sys := { Sys.reset with tvec := wordOf tvec }

/-- A tile task leaves its context (R88). -/
def Ctx.leave (c : Ctx) (tvec : Nat) : Ctx :=
  { Ctx.reset with sys := Sys.start tvec, runNo := c.runNo, pushSeq := c.pushSeq }

/-- The engine commands of a context still running are abandoned, and their tags cleared (R169). -/
def abandon (s : State) (c : CtxId) : State :=
  s.modCore (coreOf c) (fun k =>
    let gone := k.ix.filter (fun m => m.owner == c)
    gone.foldl (fun k m => if recTagged m.record then k.clearTag (recTag m.record) none else k)
      { k with ix := k.ix.filter (fun m => m.owner != c) })

/-- The tokens that a queue's producing end of a chain holds, and the EEOS that a sealed port owes behind them (R383). -/
def Queue.tailTokens (k : Queue) (isSealed : Bool) : List Token :=
  if k.ends < 2 || k.inward then []
  else if k.ends = 2 then (if k.cut then [] else k.ctxQ)
  else k.regQ ++ (if k.cut && isSealed then [Token.eeos] else [])

/-- The chain that a queue of a task is an end of, as its other end's die names it. -/
def ChainTail.between (x : ChainTail) (t : Task) (k : Queue) (d : DieId) : Bool :=
  x.asid == t.asid && x.tx == t.tx && x.ty == t.ty && x.tz == t.tz && x.ckey == k.ckey && x.cdie == d

/-- What a completed task leaves of its chains: tokens at a producing end still cross (R154); those on their way to an end
that is no more are discarded. -/
def leaveChains (s : State) (d : DieId) (t : Task) : State :=
  let isSealed := match t.region with | some r => r.sealed | none => false
  t.queues.foldl (fun s q =>
    let ts := q.2.tailTokens isSealed
    if q.2.ends < 2 then s
    else if q.2.inward then s.modDie q.2.cdie (fun x => { x with tails := x.tails.filter (fun y => !y.between t q.2 d) })
    else if ts.isEmpty then s
    else s.modDie d (fun x => { x with tails := x.tails ++ [⟨t.asid, t.tx, t.ty, t.tz, q.2.ckey, q.2.cdie, ts⟩] })) s

/-- The context of a task is released, with quota and rectangle, which the task alone names; barrier slots go with the
group's last task on the die. -/
def releaseTask (s : State) (c : CtxId) (t : Task) : State :=
  let d := dieOf c
  let s := abandon (leaveChains s d t) c
  let s := s.modCtx c (fun x => x.leave (s.die d).deftvec)
  let s := { s with hits := s.hits.filter (fun h => h.ctx != c) }
  let others := s.ctxs.any (fun e => dieOf e.1 == d && (match e.2.task with
    | some u => u.launch == t.launch && u.hdie == t.hdie && u.group == t.group
    | none => false))
  if others then s
  else s.modDie d (fun x => { x with bars := x.bars.filter (fun b => !(b.2.launch == t.launch && b.2.hdie == t.hdie && b.2.group == t.group)) })

/-- A task counts as completed for its launch, which ends with its last (R254, R262). -/
def countTask (s : State) (t : Task) (bad : Bool) : State :=
  let s := modLaunch s t.hdie t.launch (fun l => { l with finished := l.finished + 1, bad := l.bad || bad })
  match (s.die t.hdie).launch t.launch with
  | some l =>
    if l.gone then leaveLaunch s t.hdie t.launch
    else if l.total ≤ l.finished then endLaunch s t.hdie t.launch (if l.bad then 2 else 0) else s
  | none => s

/-- TASK_COMPLETE (R34): once ENDT has run and the execute slice is done. -/
def execTaskComplete (c : CtxId) (s : State) : Host.Outcome State Fault Refusal :=
  .next (
    let x := s.ctx c
    match x.task with
    | none => s
    | some t =>
      if !x.ended || !t.sliceDone || x.desched || frozen s c then s
      else
        let bad := x.ending || (match t.region with | some r => r.sealed | none => false)
        let lost := match t.region with | some r => r.marks | none => 0
        countTask (releaseTask (traceLost s (dieOf c) lost) c t) t bad)

/-! ## Barriers (R118) -/

/-- The slot that a names: its number on the die, and the phase asked for. -/
def barSlot (s : State) (v : Nat) : Option (Nat × Nat × BarSlot) :=
  match s.me.task with
  | none => none
  | some t =>
    if bitsOf v 24 40 != 0 then none
    else
      match t.bars[bitsOf v 0 8]? with
      | none => none
      | some n => (SMap.find (s.die s.myDie).bars n).map (fun b => (n, bitsOf v 8 16, b))

/-- The task's index in its group. -/
def myIndex (s : State) : Nat := match s.me.task with | some t => t.tidx | none => 0

/-- An arrival of task i. -/
def BarSlot.arrive (b : BarSlot) (i : Nat) : BarSlot :=
  if b.count + 1 = b.expected then { b with count := 0, arrived := 0, phase := (b.phase + 1) % 2 ^ 16 }
  else { b with count := b.count + 1, arrived := b.arrived ||| 2 ^ i }

/-- BARV (R118). -/
def execBarv (p : Pred) (a : BitVec 5) (s : State) : Host.Outcome State Fault Refusal :=
  .next (word s p (fun s =>
    let v := (s.x a).toNat
    match barSlot s v with
    | none => trap s 0x13 v
    | some (n, phase, b) =>
      if phase != b.phase || bitOf b.arrived (myIndex s) then trap s 0x13 v
      else
        release s (fun s =>
          retire (s.modDie s.myDie (fun d => { d with bars := SMap.set d.bars n (b.arrive (myIndex s)) })) 4)))

/-- BARW (R118). -/
def execBarw (p : Pred) (a : BitVec 5) (s : State) : Host.Outcome State Fault Refusal :=
  .next (word s p (fun s =>
    let v := (s.x a).toNat
    match barSlot s v with
    | none => trap s 0x13 v
    | some (n, phase, b) => if b.phase = phase then waitFor s (.barw n phase) else retire (acquire s) 4))

end Sys2Proof.Machine
end

