-- ==== Sys2Proof/Machine/Placement.lean ====
section
/-! DEFINITION. Kernel descriptors and LAUNCH (R117, R252 to R256, R270), residency (R277) and the placement of groups
(R33, R258 to R261). -/

namespace Sys2Proof.Machine

/-! ## Queue tables (R255, R256) -/

/-- QREG. -/
def qtReg (e : Nat) : Nat := bitsOf e 0 4
/-- ENDS. -/
def qtEnds (e : Nat) : Nat := bitsOf e 8 2
/-- DIR: IN. -/
def qtIn (e : Nat) : Bool := bitOf e 10
/-- KIND: BOQ. -/
def qtBoq (e : Nat) : Bool := bitOf e 11
/-- TMO. -/
def qtTmo (e : Nat) : Nat := bitsOf e 16 16
/-- CKEY. -/
def qtKey (e : Nat) : Nat := bitsOf e 32 32
/-- CDIE. -/
def qtDie (e : Nat) : Nat := bitsOf e 64 8

/-- One entry keeps R255 and R256. DEDUCED (log 122): a nonzero Reserved bit of Table 11.4 is refused too, as R253 has it of
the descriptor's own. -/
def qtEntryOk (e : Nat) : Bool :=
  bitsOf e 4 4 == 0 && bitsOf e 12 4 == 0 && bitsOf e 72 56 == 0 && !(qtBoq e && qtEnds e != 0)
    && !(qtEnds e == 1 && qtIn e) && !(qtEnds e == 3 && qtReg e != 0)
    && (decide (2 ≤ qtEnds e) || (qtKey e == 0 && qtDie e == 0))

/-- No q register is named twice among ENDS 0 to 2. -/
def qtRegsOk (l : List Nat) : Bool :=
  let rs := (l.filter (fun e => qtEnds e != 3)).map qtReg
  rs.eraseDups.length == rs.length

/-- A queue table keeps R256. -/
def qtOk (l : List Nat) : Bool := l.all qtEntryOk && qtRegsOk l

/-- What a port operator may know of entry e of a table (R222). -/
def qtPort (l : List Nat) (e : Nat) : Option (Nat × Bool × Bool) := (l[e]?).map (fun w => (qtEnds w, qtIn w, qtBoq w))

/-- The queue of an entry, empty; `port` says whether a port operator names it. -/
def qtQueue (e : Nat) (port : Bool) : Queue :=
  { ends := qtEnds e, inward := qtIn e, boq := qtBoq e, tmo := qtTmo e, ckey := qtKey e, cdie := qtDie e
    ctxQ := [], regQ := [], stallC := 0, stallP := 0, cut := false, port := port }

/-- The q register bound to entry number n of a task on die d, empty (Table 6.1): CH tells that the far end lies on
another die. -/
def qtBinding (d : DieId) (n e : Nat) : Binding :=
  { dir := if qtEnds e = 1 then .loc else if qtIn e then .inn else .out, boq := qtBoq e, ch := qtEnds e == 2 && qtDie e != d
    tmo := qtTmo e, lp := 0, cur := none, endf := false, err := false, cnt := 0, asm := [], asmEng := false, entry := n }

/-- A table with its numbers. -/
def numbered (l : List Nat) : List (Nat × Nat) := (List.range l.length).zip l

/-- The queues of a table bound for a task with a region or none (R256). -/
def qtQueues (l : List Nat) (m : Option RegionImage) : SMap Queue :=
  let named (e : Nat) : Bool :=
    match m with
    | some m => m.sites.any (fun x => decide (0x80 ≤ cfgOp x.2) && decide (cfgOp x.2 ≤ 0x83) && cfgAux x.2 % 64 == e)
    | none => false
  (numbered l).map (fun e => (e.1, qtQueue e.2 (named e.1)))

/-- The q registers of a table bound for a task on die d. -/
def qtBindings (l : List Nat) (d : DieId) : SMap Binding :=
  ((numbered l).filter (fun e => qtEnds e.2 != 3)).foldl (fun q e => SMap.set q (qtReg e.2) (qtBinding d e.1 e.2)) []

/-! ## Descriptors (R252, R253) -/

/-- `n` bytes at a GA that system agents read; `none` when the read does not complete. No bytes take no read. -/
def tableBytes (s : State) (d : DieId) (g n : Nat) : Option (List Byte) :=
  if n = 0 then some []
  else match readOut s (pkgOf d) .engine g n with
  | .error _ => none
  | .ok _ => some (s.seenBytes g n)

/-- A lease list from a GA, entry i onwards; `none` when it breaks R270. -/
def leaseList (s : State) (d : DieId) (g : Nat) : Nat → Option (List LeaseRange)
  | 0 => none
  | fuel + 1 =>
    match tableBytes s d g 16 with
    | none => none
    | some b =>
      let w0 := leNat (b.take 8)
      let w1 := leNat (b.drop 8)
      if bitsOf w0 56 8 != 0 || bitsOf w0 0 12 != 0 || bitsOf w1 36 25 != 0 || bitsOf w1 0 36 == 0 then none
      else
        let r : LeaseRange := ⟨w0, bitsOf w1 0 36, bitOf w1 63, bitOf w1 62⟩
        if bitOf w1 61 then some [r] else (leaseList s d (g + 16) fuel).map (fun l => r :: l)

/-- A parcel of a job's code, without changing the lease table. -/
def codeParcel (s : State) (d : DieId) (asid va : Nat) : Option Nat :=
  let at' (e : LtEntry) : Option Nat :=
    let g := e.gbase + (va - e.va)
    if !e.x || decide (2 < gaSpace g) then none
    else match readOut s (pkgOf d) .engine g 2 with | .ok v => some v | .error _ => none
  if va % 2 = 1 || decide (2 ^ 56 ≤ va) then none
  else
    match leaseFind (s.die d) asid va with
    | some e => at' e
    | none => match walkPage s d asid va with | .leaf e => at' e | _ => none

/-- The header at ENTRY is present and has E = 1 (R253). -/
def entryOk (s : State) (d : DieId) (asid va : Nat) : Bool :=
  match codeParcel s d asid va, codeParcel s d asid (va + 2) with
  | some a, some b => match headerOf (a + b * 2 ^ 16) with | some (_, _, _, e, _) => e | none => false
  | _, _ => false

/-- Addresses that tell of every 2 MiB region and of both ends of a range. -/
def rangeGas (g n : Nat) : List Nat :=
  if n = 0 then [] else (List.range ((n - 1) / 2 ^ 21 + 1)).map (fun i => g + i * 2 ^ 21) ++ [g + n - 1]

/-- What reading a lease list from a GA reads. -/
def listGas (s : State) (d : DieId) (g : Nat) : Nat → List Nat
  | 0 => []
  | fuel + 1 =>
    match tableBytes s d g 16 with
    | none => [g]
    | some b =>
      let w1 := leNat (b.drop 8)
      if bitsOf (leNat (b.take 8)) 56 8 != 0 || bitsOf (leNat (b.take 8)) 0 12 != 0 || bitsOf w1 36 25 != 0 || bitsOf w1 0 36 == 0
          || bitOf w1 61 then [g, g + 15]
      else g :: (g + 15) :: listGas s d (g + 16) fuel

/-- What reading a parcel of a job's code reads: the page tables on a miss, and the parcel. -/
def codeGas (s : State) (d : DieId) (asid va : Nat) : List Nat :=
  let at' (e : LtEntry) : List Nat := if e.x then [e.gbase + (va - e.va)] else []
  if va % 2 = 1 || decide (2 ^ 56 ≤ va) then []
  else
    match leaseFind (s.die d) asid va with
    | some e => at' e
    | none => walkGas s d asid va ++ (match walkPage s d asid va with | .leaf e => at' e | _ => [])

/-- A field of a descriptor, by byte offset and length. -/
def dfield (b : List Byte) (lo n : Nat) : Nat := leNat ((b.drop lo).take n)

/-- Table 11.3's ranges and reserved bits, and what U may not ask for. -/
def descFieldsOk (b : List Byte) (pl : Bool) : Bool :=
  let ext (i : Nat) : Bool := let v := dfield b i 1; decide (1 ≤ v) && decide (v ≤ 64)
  decide (1 ≤ dfield b 0 2) && decide (1 ≤ dfield b 2 2) && decide (1 ≤ dfield b 4 2) && ext 6 && ext 7 && ext 8
    && decide (dfield b 6 1 * dfield b 7 1 * dfield b 8 1 ≤ 64) && decide (dfield b 9 1 < 8) && decide (dfield b 10 2 < 2 ^ 15)
    && decide (dfield b 12 2 ≤ 64) && decide (dfield b 14 1 ≤ 64) && decide (dfield b 15 1 ≤ 64)
    && bitsOf (dfield b 48 4) 20 11 == 0 && dfield b 52 4 / 2 == 0 && dfield b 64 64 == 0
    && (pl || (dfield b 52 4 == 0 && dfield b 56 8 == 0))

/-- REGION, QTAB or LLIST as a GA: itself under FLAGS.GA, else translated as XLAT would (R252). The object is then read
at consecutive GAs. -/
def descGa (s : State) (ga : Bool) (v align : Nat) : Option Nat :=
  if v % align != 0 then none
  else if ga then some (gaOf v)
  else match translate s s.cur v false with | .ok e => some (e.gbase + (v - e.va)) | .error _ => none

/-- What LAUNCH reads beside the descriptor: lease lists and tables of the translations, the image, the queue table, the
launch's own lease list, and the header at ENTRY. -/
def launchGas (s : State) (b : List Byte) : List Nat :=
  let d := s.myDie
  let ga := dfield b 52 4 % 2 == 1
  let reg := dfield b 24 8
  let walks (v : Nat) : List Nat := if ga then [] else translateGas s s.cur v
  let image : List Nat :=
    if reg = 0 then []
    else
      walks reg ++ (match descGa s ga reg 64 with
        | none => []
        | some g => rangeGas g 64 ++ (match tableBytes s d g 64 with | some h => rangeGas g (imageBytes h) | none => []))
  let qtab : List Nat :=
    if dfield b 15 1 = 0 then []
    else walks (dfield b 32 8) ++ (match descGa s ga (dfield b 32 8) 16 with | some g => rangeGas g (16 * dfield b 15 1) | none => [])
  let ranges := walks (dfield b 40 8) ++ (match descGa s ga (dfield b 40 8) 8 with | some g => listGas s d g 64 | none => [])
  if !descFieldsOk b s.me.sys.pl then []
  else image ++ qtab ++ ranges ++ codeGas s d (dfield b 10 2) (dfield b 16 8) ++ codeGas s d (dfield b 10 2) (dfield b 16 8 + 2)

/-- What LAUNCH reads with a descriptor: the launch, or `none` where R253 refuses it before the admission test. -/
def readLaunch (s : State) (b : List Byte) : Option Launch :=
  let d := s.myDie
  let ga := dfield b 52 4 % 2 == 1
  let nq := dfield b 15 1
  if !descFieldsOk b s.me.sys.pl then none
  else
    let reg := dfield b 24 8
    let regGa := if reg = 0 then some 0 else descGa s ga reg 64
    let qGa := if nq = 0 then (if dfield b 32 8 % 16 = 0 then some 0 else none) else descGa s ga (dfield b 32 8) 16
    match regGa, qGa, descGa s ga (dfield b 40 8) 8 with
    | some rg, some qg, some lg =>
      let image : Option (List Byte) :=
        if reg = 0 then some [] else (tableBytes s d rg 64).bind (fun h => tableBytes s d rg (imageBytes h))
      match image, tableBytes s d qg (16 * nq), leaseList s d lg 64 with
      | some im, some qt, some ls =>
        let entries := (List.range nq).map (fun i => dfield qt (16 * i) 16)
        let asid := dfield b 10 2
        if !qtOk entries || !entryOk s d asid (dfield b 16 8) then none
        else
          some { num := 0, gx := dfield b 0 2, gy := dfield b 2 2, gz := dfield b 4 2, bx := dfield b 6 1, by' := dfield b 7 1
                 bz := dfield b 8 1, prio := dfield b 9 1, asid := asid, spq := dfield b 12 2, nbar := dfield b 14 1
                 entry := dfield b 16 8, trapv := dfield b 56 8
                 done := if bitOf (dfield b 48 4) 31 then some (bitsOf (dfield b 48 4) 0 20) else none
                 lease := lg, ranges := ls, qtab := entries, image := im, launcher := s.cur, runNo := s.me.runNo, next := 0, gone := false
                 finished := 0, bad := false, resident := false, pins := []
                 todo := (ls.filter (fun r => !r.demand)).map (fun r => (r.base, r.base + r.npg * 4096)) }
      | _, _, _ => none
    | _, _, _ => none

/-! ## Groups (R33) -/

/-- Groups along one axis. -/
def along (g b : Nat) : Nat := (g + b - 1) / b
/-- Groups of a launch. -/
def Launch.groups (l : Launch) : Nat := along l.gx l.bx * along l.gy l.by' * along l.gz l.bz

/-- The coordinates of one axis of a box that lie inside the grid. -/
def axis (i b g : Nat) : List Nat := ((List.range b).map (fun k => i * b + k)).filter (fun v => decide (v < g))

/-- The tile coordinates of a group, in task order: x fastest, then y, then z. -/
def Launch.coords (l : Launch) (g : Nat) : List (Nat × Nat × Nat) :=
  let nx := along l.gx l.bx
  let ny := along l.gy l.by'
  (axis (g / (nx * ny)) l.bz l.gz).flatMap (fun z => (axis (g / nx % ny) l.by' l.gy).flatMap (fun y =>
    (axis (g % nx) l.bx l.gx).map (fun x => (x, y, z))))

/-! ## The placement rules (R259, R260) -/

/-- A rectangle: base column and row, width, height. -/
structure Rect where
  c : Nat
  r : Nat
  w : Nat
  h : Nat
deriving DecidableEq, Repr

/-- Two rectangles share a site. -/
def Rect.meets (a b : Rect) : Bool :=
  decide (a.c < b.c + b.w) && decide (b.c < a.c + a.w) && decide (a.r < b.r + b.h) && decide (b.r < a.r + a.h)

/-- Where one task goes: AC, context, banks and base. -/
structure Spot where
  ac : Nat
  ctx : Nat
  banks : List Nat
  base : Option (Nat × Nat)
deriving DecidableEq, Repr

/-- Parcels that the start left unstarted count as occupied (R403). -/
def deadParcels (d : Die) : List Rect :=
  ((List.range 24).filter (fun i => !d.parcels.getLsbD i)).map (fun i => ⟨8 * (i % 6), 8 * (i / 6), 8, 8⟩)

/-- The tasks on a die with their contexts. -/
def tasksOn (s : State) (d : DieId) : List (CtxId × Task) :=
  s.ctxs.filterMap (fun e => if dieOf e.1 = d then e.2.task.map (fun t => (e.1, t)) else none)

/-- The rectangles of the regions placed on a die. -/
def placedRects (s : State) (d : DieId) : List Rect :=
  (tasksOn s d).filterMap (fun e => e.2.region.map (fun r => ⟨r.bc, r.br, r.w, r.h⟩))

/-- The first base that qualifies, in ascending br and then bc (R260). -/
def placerBase (m : RegionImage) (taken : List Rect) : Option (Nat × Nat) :=
  ((List.range (33 - m.h)).flatMap (fun br => (List.range (49 - m.w)).map (fun bc => (bc, br)))).find? (fun b =>
    m.fits b.1 b.2 && taken.all (fun t => !t.meets ⟨b.1, b.2, m.w, m.h⟩))

/-- What placement looks at: whether the die counts as idle, the quota and slots asked for, the image, and for a
resumption the TB bits that each task's core must hold clear (R320). -/
structure Ask where
  idle : Bool
  spq : Nat
  nbar : Nat
  image : Option RegionImage
  tbs : List Word
deriving DecidableEq, Repr

/-- The lowest free context of a core not reserved for channels. -/
def freeContext (s : State) (d : DieId) (idle : Bool) (ac : Nat) (used : List Spot) : Option Nat :=
  let k := 64 * d + ac
  (List.range 16).find? (fun i =>
    !reserved s k i && !used.any (fun u => u.ac == ac && u.ctx == i)
      && (idle || (!(s.ctx (16 * k + i)).run && (s.ctx (16 * k + i)).task.isNone)))

/-- The free banks of a core, lowest first. -/
def freeBanks (s : State) (d : DieId) (idle : Bool) (ac : Nat) (used : List Spot) : List Nat :=
  let k := 64 * d + ac
  let taken := (if idle then [] else (tasksOn s d).flatMap (fun e => if coreOf e.1 = k then e.2.banks else []))
    ++ used.flatMap (fun u => if u.ac = ac then u.banks else [])
  (List.range 64).filter (fun b => !taken.contains b)

/-- The first core in round robin after `rr` that has a context and the quota, holding clear the bits of `tb`. -/
def pickCore (s : State) (d : DieId) (q : Ask) (tb : Word) (rr : Nat) (used : List Spot) : Option (Nat × Nat × List Nat) :=
  ((List.range 64).map (fun i => (rr + 1 + i) % 64)).findSome? (fun ac =>
    let k := s.core (64 * d + ac)
    if !k.started || (!q.idle && k.tb &&& tb != 0) then none
    else
      match freeContext s d q.idle ac used with
      | none => none
      | some i =>
        let b := freeBanks s d q.idle ac used
        if b.length < q.spq then none else some (ac, i, b.take q.spq))

/-- The spots of `n` tasks in task order, or `none` when some task finds none. -/
def planFrom (s : State) (d : DieId) (q : Ask) : Nat → Nat → List Spot → List Rect → Option (List Spot)
  | 0, _, used, _ => some used
  | n + 1, rr, used, taken =>
    match pickCore s d q (q.tbs.getD used.length 0) rr used with
    | none => none
    | some (ac, i, b) =>
      match q.image with
      | none => planFrom s d q n ac (used ++ [⟨ac, i, b, none⟩]) taken
      | some m =>
        match placerBase m taken with
        | none => none
        | some base => planFrom s d q n ac (used ++ [⟨ac, i, b, some base⟩]) (⟨base.1, base.2, m.w, m.h⟩ :: taken)

/-- Free barrier slots of a die, lowest first. -/
def freeSlots (d : Die) : List Nat := (List.range 256).filter (fun i => (SMap.find d.bars i).isNone)

/-- The rules of R259 and R260 for `n` tasks. -/
def plan (s : State) (d : DieId) (q : Ask) (n : Nat) : Option (List Spot) :=
  let die := s.die d
  if (if q.idle then 256 else (freeSlots die).length) < q.nbar then none
  else planFrom s d q n (if q.idle then 63 else die.rrptr) [] (deadParcels die ++ (if q.idle then [] else placedRects s d))

/-- The image of a launch as it stands, unchecked; `none` without one. -/
def Launch.raw (l : Launch) : Option RegionImage := if l.image.isEmpty then none else some (rawImage l.image)

/-- The admission test of R253. What else an image breaks is left to the loader (R254). -/
def admits (s : State) (d : DieId) (l : Launch) : Bool :=
  (plan s d ⟨true, l.spq, l.nbar, l.raw, []⟩ (min l.gx l.bx * min l.gy l.by' * min l.gz l.bz)).isSome

/-! ## LAUNCH -/

/-- Submits a descriptor's bytes: the status, and the launch number in [63:32]. Of several refusals the first in the
order DESCBAD, ASIDBAD, QFULL is returned. -/
def submit (s : State) (b : List Byte) : State × Word :=
  let d := s.myDie
  match (readLaunch s b).filter (admits s d) with
  | none => (s, 2)
  | some l =>
    if !s.me.sys.pl && l.asid != s.me.sys.asid then (s, 3)
    else if 16 ≤ ((s.die d).launches.filter (fun k => decide (k.next < k.groups))).length then (s, 1)
    else
      let n := ((s.die d).nextLaunch + 1) % 2 ^ 32
      (s.modDie d (fun x => { x with nextLaunch := n, launches := x.launches ++ [{ l with num := n }] }), wordOf (n * 2 ^ 32))

/-- LAUNCH (R117). The descriptor is read as a load reads, with its waits and errors, and the tables as the dispatcher
reads them, with the wait for a region that a host owns (R284). The handle of space 7 takes no 128-byte read (R30). -/
def execLaunch (p : Pred) (d a : BitVec 5) (hb : BitVec 4) (s : State) : Host.Outcome State Fault Refusal :=
  .next (word s p (fun s =>
    let h := s.me.getH hb.toNat
    let off := s.x a
    let agent := gaSpace h.gbase == 7
    let apart := !agent && off.toNat % 64 != 0
    match checkRead h hb.toNat off 128 false with
    | .error (code, eva) => if h.v && apart then trap s 0x14 off.toNat else trap s code eva
    | .ok g =>
      let denied := if agent then agentDenied s g 128 else if apart then some (0x14, off.toNat) else none
      match denied, loadWait s g with
      | some e, _ => trap s e.1 e.2
      | none, some w => waitFor s w
      | none, none =>
        match readOut s (pkgOf s.myDie) (.load s.me.sys.pl) g 128 with
        | .error code => trap s code g
        | .ok _ =>
          let b := s.seenBytes g 128
          match firstOwned s (launchGas s b) with
          | some w => waitFor s w
          | none =>
            release s (fun s =>
              let s := recallReads (coherentRead s s.myCore g 128) s.myCore (launchGas s b)
              let r := submit s (s.bytesAt g 128)
              finish r.1 4 1 (.x d.toNat r.2))))

/-! ## Residency (R277) -/

/-- The first range of a lease list that contains an address (R271). -/
def rangeAt (ls : List LeaseRange) (va : Nat) : Option LeaseRange :=
  ls.find? (fun r => decide (r.base ≤ va) && decide (va < r.base + r.npg * 4096))

/-- Where the range that decides an address may change above it. -/
def nextEdge (ls : List LeaseRange) (va fin : Nat) : Nat :=
  ls.foldl (fun m r =>
    let m := if va < r.base then min m r.base else m
    if va < r.base + r.npg * 4096 then min m (r.base + r.npg * 4096) else m) fin

/-- The walk of residency: each resident range in turn, leaf by leaf, pinning each entry once. The answer: what is left
to walk, the pins, and the reason and page where it stopped; reason 0 where a table lies in a region that a host owns
(R284). -/
def walkResident (s : State) (d : DieId) (asid : Nat) (ls : List LeaseRange) :
    Nat → List (Nat × Nat) → List Nat → State × List (Nat × Nat) × List Nat × Option (Nat × Nat)
  | 0, todo, pins => (s, todo, pins, none)
  | _ + 1, [], pins => (s, [], pins, none)
  | fuel + 1, (va, fin) :: todo, pins =>
    if fin ≤ va then walkResident s d asid ls fuel todo pins
    else if (match rangeAt ls va with | some r => r.demand | none => false) then
      walkResident s d asid ls fuel ((nextEdge ls va fin, fin) :: todo) pins
    else if (leaseFind (s.die d) asid va).isNone && (firstOwned s (walkGas s d asid va)).isSome then
      (s, (va, fin) :: todo, pins, some (0, va))
    else
      let s := recallReads s (64 * d) (walkGas s d asid va)
      let f := if 2 ^ 56 ≤ va then (s, 2) else fillPage s d asid va
      match f.2, leaseFind (f.1.die d) asid va with
      | 0, some e =>
        let pin := d * 2 ^ 32 + e.id
        let next := (e.va + pageBytes e.psize, fin) :: todo
        if pins.contains pin then walkResident f.1 d asid ls fuel next pins
        else
          walkResident (f.1.modDie d (fun x =>
            { x with leases := x.leases.map (fun k => if k.id = e.id then { k with pins := k.pins + 1 } else k) }))
            d asid ls fuel next (pins ++ [pin])
      | code, _ => (f.1, (va, fin) :: todo, pins, some (if code = 4 then 2 else 1, va))

/-- Leaves and edges of one turn of the walk; what is left waits for the next. -/
def walkFuel : Nat := 300000

/-- A residency request: the request registers, and the word to channel 1 of the lowest started AC whose entry has EN in
effect (R246), or an event (R277). -/
def requestResidency (s : State) (d home : DieId) (n reason va : Nat) : State :=
  let s := s.modDie d (fun x => { x with resva := va / 4096 * 4096 % 2 ^ 56, resreason := reason, resln := n, resHold := some (home, n) })
  let w := reason * 2 ^ 28 + n % 2 ^ 28
  match (List.range 64).find? (fun ac => (s.core (64 * d + ac)).started && chanOpen s (64 * d + ac) 1) with
  | some ac => postWord s d ((64 * d + ac) * 64 + 1) w
  | none => record s (pkgOf d) (dieSource d) 2 w

/-- The residency of a launch: the state, and whether it is complete. -/
def launchResident (s : State) (d : DieId) (l : Launch) : State × Bool :=
  if l.resident then (s, true)
  else
    let (s, todo, pins, stop) := walkResident s d l.asid l.ranges walkFuel l.todo l.pins
    let done := stop.isNone && todo.isEmpty
    let s := modLaunch s d l.num (fun k => { k with todo := todo, pins := pins, resident := done })
    match stop with
    | none => (s, done)
    | some (reason, va) => (if reason = 0 then s else requestResidency s d d l.num reason va, false)

/-! ## Placing a group (R258 to R261) -/

/-- The image as the loader takes it at a base, or `none` where it is CFGBAD (R85, R222). -/
def loadImage (l : Launch) (base : Nat × Nat) : Option RegionImage :=
  (parseImage l.image).filter (fun m => m.ok base.1 base.2 && m.portsOk (qtPort l.qtab))

/-- The next region number that no region of the die holds (R394). -/
def freeRegno (used : List Nat) : Nat → Nat → Nat
  | 0, n => n
  | fuel + 1, n => if used.contains n then freeRegno used fuel ((n + 1) % 2 ^ 16) else n

/-- Region numbers in use on a die. -/
def regnos (s : State) (d : DieId) : List Nat := (tasksOn s d).filterMap (fun e => e.2.region.map (fun r => r.regno))

/-- The B slices of a die's SA block, every block BACKGROUND (R229). -/
def clearSlices (s : State) (d : DieId) (index : Nat) : State :=
  let lo := sliceGa d index 0 0
  { s with mem := s.mem.filter (fun c => decide (c.1 < lo) || decide (lo + 2 ^ 21 ≤ c.1)) }

/-- A region placed at a base, numbered, with its SA storage cleared. A stop request still armed for its number named an
earlier region, and has lapsed (R399). -/
def placeRegion (s : State) (d : DieId) (m : RegionImage) (base : Nat × Nat) : State × Region :=
  let n := freeRegno (regnos s d) 65536 (s.die d).nextRegno
  let r := m.place base.1 base.2 n
  ((r.sas.foldl (fun s a => clearSlices s d a.index) s).modDie d (fun x =>
    { x with nextRegno := (n + 1) % 2 ^ 16, fstat := if x.fsarm && x.fsreg == n then 3 else x.fstat }), r)

/-- A task takes its spot: region, bound queues, and its context at the entry block (R88, R261). -/
def startTask (s : State) (d : DieId) (l : Launch) (m : Option RegionImage) (g i : Nat) (xyz : Nat × Nat × Nat) (p : Spot)
    (bars : List Nat) : State :=
  let c := 16 * (64 * d + p.ac) + p.ctx
  let (s, region) :=
    match m, p.base with
    | some m, some b => let r := placeRegion s d m b; (r.1, some r.2)
    | _, _ => (s, none)
  let t : Task :=
    { launch := l.num, hdie := d, group := g, tidx := i, tx := xyz.1, ty := xyz.2.1, tz := xyz.2.2, prio := l.prio, asid := l.asid
      lease := l.lease, banks := p.banks, bars := bars, queues := qtQueues l.qtab m, region := region
      lodcnt := 0, image := l.image }
  let y := { Sys.start (if l.trapv = 0 then (s.die d).deftvec else l.trapv) with
             pri := l.prio, lease := wordOf l.lease, asid := l.asid }
  startAt (s.modCtx c (fun x => { x.begin' l.entry with
    sys := y, task := some t, q := qtBindings l.qtab d, wreport := [], ltstat := 7, plstat := 0 })) c l.entry

/-- A launch whose image the loader rejects ends with CFGBAD; the launcher still in its run takes the trap between two
steps (R254). -/
def rejectLaunch (s : State) (d : DieId) (l : Launch) : State :=
  let s := endLaunch s d l.num 1
  let x := s.ctx l.launcher
  if x.run && x.runNo == l.runNo then s.modCtx l.launcher (fun x => { x with due := x.due ++ [(0x41, l.num)] }) else s

/-- The next group of a launch is placed whole, when it can be. The loader's verdict falls with the first task of the
launch, at its base (R254, log 79). -/
def placeGroup (s : State) (d : DieId) (l : Launch) : State :=
  let xyz := l.coords l.next
  let m := l.raw
  match plan s d ⟨false, l.spq, l.nbar, m, []⟩ xyz.length with
  | none => s
  | some spots =>
    let bad := l.next = 0 && (match spots.head?.bind (fun p => p.base) with | some b => (loadImage l b).isNone | none => false)
    if bad then rejectLaunch s d l
    else
      let bars := (freeSlots (s.die d)).take l.nbar
      let slot : BarSlot := ⟨l.num, d, l.next, 0, 0, 0, xyz.length⟩
      let s := s.modDie d (fun x =>
        { x with rrptr := (spots.getLast?.map (fun p => p.ac)).getD x.rrptr, bars := bars.foldl (fun b n => SMap.set b n slot) x.bars })
      let s := ((List.range xyz.length).zip (xyz.zip spots)).foldl (fun s e => startTask s d l m l.next e.1 e.2.1 e.2.2 bars) s
      modLaunch s d l.num (fun k => { k with next := k.next + 1 })

/-- The dispatcher serves one launch: residency, then the next group (R254, R258, R277). -/
def serveLaunch (s : State) (d : DieId) (n : Nat) : State :=
  match (s.die d).launch n with
  | none => s
  | some l =>
    let (s, ok) := launchResident s d l
    if ok then placeGroup s d l else s

/-- The oldest accepted launch of the highest priority that has unplaced groups (R258). -/
def nextLaunch (d : Die) : Option Launch :=
  (d.launches.filter (fun l => decide (l.next < l.groups))).foldl (fun best l =>
    match best with
    | none => some l
    | some b => if b.prio < l.prio then some l else best) none

end Sys2Proof.Machine
end

