-- ==== Sys2Proof/Machine/Chains.lean ====
section
/-! DEFINITION. Chains between queue-table entries of tasks (R154, R257, R384): the far end, the tokens that cross, what a
completed producer left, and fenced packages. -/

namespace Sys2Proof.Machine

/-! ## Chains (R257) -/

/-- The far end of a chained entry of a context's task: a task on the die it names, of the same job and tile coordinate,
with a chained entry of the same key and opposite direction that names this die; it may be of the same task. A frozen end is not
placed (R393). -/
def farEnd (s : State) (c : CtxId) (e : Nat) : Option (CtxId × Nat) :=
  match (s.ctx c).task, (s.ctx c).queue e with
  | some t, some k =>
    if k.ends < 2 then none
    else
      (tasksOn s k.cdie).findSome? (fun o =>
        if o.2.asid == t.asid && o.2.tx == t.tx && o.2.ty == t.ty && o.2.tz == t.tz && !frozen s o.1 then
          (o.2.queues.find? (fun q => decide (2 ≤ q.2.ends) && q.2.ckey == k.ckey && q.2.cdie == dieOf c
              && q.2.inward != k.inward)).map (fun q => (o.1, q.1))
        else none)
  | _, _ => none

/-- The tokens that a chained entry's own end holds. -/
def Queue.chainTokens (k : Queue) : List Token := if k.ends = 2 then k.ctxQ else k.regQ

/-- Replaces them. -/
def Queue.setChain (k : Queue) (ts : List Token) : Queue := if k.ends = 2 then { k with ctxQ := ts } else { k with regQ := ts }

/-- A token moved at a port of the region, when the end is the region's. -/
def notePort (s : State) (c : CtxId) (k : Queue) : State :=
  if k.ends != 3 then s
  else noteMove (s.modCtx c (fun x => match x.region with | some r => x.setRegion { r with moved := some s.fc } | none => x)) c

/-- Writes back a chained entry: a token has moved, at a port of the region or at the context's end (R265, R314). -/
def putChain (s : State) (c : CtxId) (e : Nat) (k : Queue) : State :=
  let s := notePort (s.modCtx c (fun x => x.setQueue e k)) c k
  if k.ends = 2 then noteAdvance s c else s

/-- The tokens of a producing end are discarded: its consumer is sealed or its package fenced (R257, R384). -/
def dropChain (s : State) (c : CtxId) (e : Nat) (k : Queue) : State :=
  let marks := (k.chainTokens.filter (fun t => t.mark.isSome)).length
  traceLost (putChain s c e { k.setChain [] with cut := k.ends == 2 || k.cut }) (dieOf c) marks

/-- The EEOS that a sealed pushing port still owes enters as soon as there is room (R383). -/
def owedEeos (s : State) (c : CtxId) (e : Nat) (k : Queue) : State :=
  let sealed := match (s.ctx c).region with | some r => r.sealed | none => false
  if k.ends == 3 && !k.inward && k.cut && sealed && decide (k.chainTokens.length < 32) then
    putChain s c e { k.setChain (k.chainTokens ++ [{ Token.eeos with arr := s.fc }]) with cut := false }
  else s

/-- The tokens that a completed producer left for a consuming end of context c, and their place among the tails of its die. -/
def tailFor (s : State) (c : CtxId) (k : Queue) : Option (Nat × ChainTail) :=
  match (s.ctx c).task with
  | none => none
  | some t =>
    let l := (s.die k.cdie).tails
    (l.findIdx? (fun y => y.between t k (dieOf c))).bind (fun i => (l[i]?).map (fun y => (i, y)))

/-- A consuming end takes the next token that a completed producer left, or discards them all once it is sealed (R384). -/
def takeTail (s : State) (c : CtxId) (e : Nat) (k : Queue) : State :=
  match tailFor s c k with
  | none => s
  | some (i, y) =>
    let keep (ts : List Token) : State :=
      s.modDie k.cdie (fun x => { x with tails := if ts.isEmpty then listDrop x.tails i else listSet x.tails i { y with tokens := ts } })
    if k.cut then traceLost (keep []) k.cdie (y.tokens.filter (fun t => t.mark.isSome)).length
    else
      match y.tokens with
      | [] => keep []
      | t :: ts =>
        if 32 ≤ k.chainTokens.length then s
        else putChain (keep ts) c e (k.setChain (k.chainTokens ++ [{ t with arr := s.fc + 1 }]))

/-- An earlier producer of the same chain, since completed, has tokens that have still to cross. -/
def tailAhead (s : State) (c : CtxId) (k : Queue) : Bool :=
  match (s.ctx c).task with
  | none => false
  | some t => (s.die (dieOf c)).tails.any (fun y => y.between t k k.cdie)

/-- A producing end sends its oldest token to the far end, when that has room. -/
def sendChain (s : State) (c : CtxId) (e : Nat) (k : Queue) : State :=
  match farEnd s c e with
  | none => owedEeos s c e k
  | some (o, f) =>
    match (s.ctx o).queue f with
    | none => s
    | some q =>
      if q.cut then dropChain s c e k
      else
        match k.chainTokens with
        | [] => owedEeos s c e k
        | t :: ts =>
          if 32 ≤ q.chainTokens.length then s
          else
            let s := putChain s c e (k.setChain ts)
            let s := putChain s o f (q.setChain (q.chainTokens ++ [{ t with arr := s.fc + 1 }]))
            match (s.ctx c).queue e with
            | some k => owedEeos s c e k
            | none => s

/-- CHAIN_TOKEN: end `e` of context c. A producing end sends; a consuming end takes what a completed producer left, and
receives EEOS, once, when its far package is fenced. An end whose own task is frozen does nothing (R387). -/
def chainStep (s : State) (c : CtxId) (e : Nat) : State :=
  match (s.ctx c).queue e with
  | none => s
  | some k =>
    if k.ends < 2 || frozen s c then s
    else if pkgGone s (pkgOf (dieOf c)) (pkgOf k.cdie) then
      if !k.inward then (if k.chainTokens.isEmpty then s else dropChain s c e k)
      else if k.cut || decide (32 ≤ k.chainTokens.length) then s
      else putChain s c e { k.setChain (k.chainTokens ++ [{ Token.eeos with arr := s.fc }]) with cut := true }
    else if k.inward then takeTail s c e k
    else if tailAhead s c k then s
    else sendChain s c e k

/-- CHAIN_TOKEN (R257). -/
def execChainToken (c : CtxId) (e : Nat) (s : State) : Host.Outcome State Fault Refusal := .next (chainStep s c e)

/-- Some chained entry of a context's task can move a token now. -/
def chainAble (s : State) (c : CtxId) : Bool :=
  match (s.ctx c).task with
  | none => false
  | some t => t.queues.any (fun q => decide (2 ≤ q.2.ends) && ((chainStep s c q.1).ctx c).task != (s.ctx c).task)

end Sys2Proof.Machine
end

