-- ==== Sys2Proof/Machine/Able.lean ====
section
/-! DEFINITION. What can still move: whether some site of a region can fire, some SA command or some engine command of a
context can advance, as the end of a drain (R314) and the states of a region (R265) ask. -/

namespace Sys2Proof.Machine

/-- The state that an event leaves. -/
def stateLeft (s : State) : Host.Outcome State Fault Refusal → State
  | .next t => t
  | _ => s

/-- Some site of the context's region can fire now (R191). -/
def siteAble (s : State) (c : CtxId) (r : Region) : Bool :=
  !r.sealed && !r.stopped && !frozen s c
    && r.sites.any (fun e => match fireSite (fireEnv s c) r e.1 fireOf with
      | .idle => false | .fault _ => true | .done _ fx => !(fireGas s c fx).any (procOwned s))

/-- Some command of an SA block of the context's region can start, advance or complete now, or an end token can be taken. -/
def saAble (s : State) (c : CtxId) (r : Region) : Bool :=
  let moves (o : Host.Outcome State Fault Refusal) : Bool := ((stateLeft s o).ctx c).region != (s.ctx c).region
  !frozen s c && (List.range r.sas.length).any (fun k =>
    moves (execMzero c k s) || moves (execMloadb c k s) || moves (execMmul c k s) || moves (execMmulp c k s)
      || moves (execMread c k s) || moves (execMrddiag c k s) || moves (execMbar c k s)
      || (List.range 3).any (fun p => moves (execAPortEos c k p s)))

/-- Something in the region of a context can move now. -/
def regionAble (s : State) (c : CtxId) : Bool :=
  match (s.ctx c).region with
  | none => false
  | some r => siteAble s c r || saAble s c r

/-- Some push, copy or index-engine command of a context can advance now: it, or a queue of the context, would change. -/
def engineAble (s : State) (c : CtxId) : Bool :=
  let k := coreOf c
  let x := s.ctx c
  let row (i j : Nat) : Bool := (rgathStep s k i j).core k != s.core k
  let moves (t : State) : Bool := (t.core k).ix != (s.core k).ix || (t.ctx c).task != x.task || (t.ctx c).q != x.q
  x.pushes.any (fun p => ((pushStep s c p.fibre p.idx).ctx c).pushes != x.pushes)
    || (s.core k).copies.any (fun m => m.owner == c && ((copyStep s k m.tag).core k).copies != (s.core k).copies)
    || (List.range (s.core k).ix.length).any (fun i =>
        match (s.core k).ix[i]? with
        | none => false
        | some m =>
          m.owner == c && (match m.kind with
            | 0 => moves (gathStep s k i)
            | 1 => moves (gathqStep s k i)
            | 2 => moves (scatStep s k i)
            | 3 => (List.range m.rows.length).any (row i)
            | _ => moves (nzscanStep s k i)))

end Sys2Proof.Machine
end

