-- ==== Sys2Proof/Machine/SysRegs.lean ====
section
/-! DEFINITION. The system registers that a context holds (Table 4.5): their values as words, what a write keeps, and
the order in which a task image holds them (R317). -/

namespace Sys2Proof.Machine

/-- STATUS (Table 4.6); MODE is M of the block now executing. -/
def Sys.status (y : Sys) (m : Bool) : Nat :=
  y.pri * 2 ^ 9 + b2n m * 2 ^ 8 + b2n y.skip * 2 ^ 7 + b2n y.pie * 2 ^ 5 + b2n y.ie * 2 ^ 4 + b2n y.ppl * 2 ^ 2 + b2n y.pl

/-- What MTS writes of STATUS: SKIP, PIE, IE, and PPL for 0 or 1 (Table 4.6). -/
def Sys.putStatus (y : Sys) (v : Nat) : Sys :=
  { y with skip := bitOf v 7, pie := bitOf v 5, ie := bitOf v 4, ppl := if bitsOf v 2 2 < 2 then bitOf v 2 else y.ppl }

/-- A register that is held by a context, by its number; `none` for every other number. Reserved bits read 0. -/
def Sys.read (y : Sys) (m : Bool) : Nat → Option Word
  | 0x000 => some (wordOf (y.status m))
  | 0x001 => some (wordOf (y.cause.toNat % 2 ^ 9))
  | 0x002 => some y.epc
  | 0x003 => some y.eva
  | 0x004 => some y.ehdr
  | 0x005 => some (wordOf (y.eitr.toNat % 2 ^ 13))
  | 0x006 => some y.tvec
  | 0x008 => some y.sscr0
  | 0x009 => some y.sscr1
  | 0x00A => some y.sscr2
  | 0x00B => some y.sscr3
  | 0x010 => some y.lease
  | 0x011 => some (wordOf y.asid)
  | 0x020 => some (wordOf (y.lodthr.toNat % 2 ^ 32 + y.lodthr.toNat / 2 ^ 63 * 2 ^ 63))
  | 0x030 => some y.watch0
  | 0x031 => some y.watch1
  | 0x032 => some y.watch2
  | 0x033 => some y.watch3
  | 0x041 => some y.timecmp
  | 0x045 => some (wordOf (y.bbhbase.toNat / 8 * 8))
  | _ => none

/-- The register after a write of v to it. Bit 15 of ASID stays 0 (R272). -/
def Sys.write (y : Sys) (n : Nat) (v : Word) : Sys :=
  match n with
  | 0x000 => y.putStatus v.toNat
  | 0x001 => { y with cause := wordOf (v.toNat % 2 ^ 9) }
  | 0x002 => { y with epc := v }
  | 0x003 => { y with eva := v }
  | 0x004 => { y with ehdr := v }
  | 0x005 => { y with eitr := wordOf (v.toNat % 2 ^ 13) }
  | 0x006 => { y with tvec := v }
  | 0x008 => { y with sscr0 := v }
  | 0x009 => { y with sscr1 := v }
  | 0x00A => { y with sscr2 := v }
  | 0x00B => { y with sscr3 := v }
  | 0x010 => { y with lease := v }
  | 0x011 => { y with asid := v.toNat % 2 ^ 15 }
  | 0x020 => { y with lodthr := wordOf (v.toNat % 2 ^ 32 + v.toNat / 2 ^ 63 * 2 ^ 63) }
  | 0x030 => { y with watch0 := v }
  | 0x031 => { y with watch1 := v }
  | 0x032 => { y with watch2 := v }
  | 0x033 => { y with watch3 := v }
  | 0x041 => { y with timecmp := v }
  | 0x045 => { y with bbhbase := wordOf (v.toNat / 8 * 8) }
  | _ => y

/-- The 20 registers of an image, in ascending number (Table 16.6). -/
def sysNumbers : List Nat :=
  [0x000, 0x001, 0x002, 0x003, 0x004, 0x005, 0x006, 0x008, 0x009, 0x00A, 0x00B, 0x010, 0x011, 0x020, 0x030, 0x031,
   0x032, 0x033, 0x041, 0x045]

/-- Restores a register from an image: all of STATUS but MODE comes back. -/
def Sys.restoreOne (y : Sys) (n v : Nat) : Sys :=
  if n = 0 then
    { y.putStatus v with pri := bitsOf v 9 3, pl := bitOf v 0, ppl := bitOf v 2 }
  else y.write n (wordOf v)

/-- Restores the registers from an image. -/
def Sys.restore (y : Sys) (vs : List Nat) : Sys := (sysNumbers.zip vs).foldl (fun y e => y.restoreOne e.1 e.2) y

end Sys2Proof.Machine
end

