-- ==== Sys2Proof/Machine/Image.lean ====
section
/-! DEFINITION. Task images under IMGFMT 1 (R315 to R319): their geometry, and how the state of a stopped task is laid
out in them. -/

namespace Sys2Proof.Machine

/-! ## Geometry (R316, R318) -/

/-- What the sizes of an image depend on. -/
structure Geo where
  w : Nat
  h : Nat
  tcap : Nat
  nsa : Nat
deriving DecidableEq, Repr

/-- How many of the low 8 bits are set. -/
def ones8 (v : Nat) : Nat := ((List.range 8).filter (bitOf v)).length

/-- CVT.SDB, NORM and ADD with LT = CSV: the operators of C in TCAP. -/
def quadOp (cfg : Nat) : Bool := cfgOp cfg == 0x48 || cfgOp cfg == 0xA3 || (cfgOp cfg == 0x01 && cfgLt cfg == 3)

/-- W, H, TCAP and the SA sites of a launch's region image (R318). -/
def geoOf (image : List Byte) : Geo :=
  if image.isEmpty then ⟨0, 0, 0, 0⟩
  else
    let m := rawImage image
    let ws := m.sites.map (fun e => e.2)
    let l := ws.foldl (fun n w => n + ones8 (cfgRoute w) + b2n (cfgOp w == 0x91)) 0
    let b := ws.foldl (fun n w => n + (if cfgOp w = 0x90 then cfgAux w % 64 + 1 else 0)) 0
    let c := (ws.filter quadOp).length
    ⟨m.w, m.h, (2 * l + 2 * ws.length + b + 6 * c + 7) / 8 * 8, m.saSites.length⟩

/-- TOFF. -/
def Geo.toff (g : Geo) : Nat := 0x48000 + 256 * g.w * g.h
/-- SAOFF. -/
def Geo.saoff (g : Geo) : Nat := g.toff + 72 * g.tcap
/-- Bytes of an SA section. -/
def saSection : Nat := 2625536
/-- SPOFF. -/
def Geo.spoff (g : Geo) : Nat := g.saoff + saSection * g.nsa
/-- Bytes of the image in use. -/
def Geo.used (g : Geo) (spq : Nat) : Nat := g.spoff + 16384 * spq
/-- PMISZ (R316). -/
def Geo.size (g : Geo) (spq : Nat) : Nat := (g.used spq + 4095) / 4096 * 4096

/-- The GA of a scratchpad bank of a core. -/
def bankGa (k : CoreId) (b : Nat) : Nat := mkGa (dieOfCore k) 2 (k % 64 * 2 ^ 20 + b * 2 ^ 14)

/-! ## Pieces -/

/-- Bytes at an offset of the image. -/
abbrev Piece := Nat × List Byte

/-- Bytes followed by zeros up to a length. -/
def padBytes (n : Nat) (b : List Byte) : List Byte := b ++ List.replicate (n - b.length) 0

/-- The code of a token kind (Table 1.4). -/
def kindCode : TokKind → Nat | .data => 0 | .eos => 1 | .eeos => 2 | .csv => 3

/-- The kind of a code. -/
def codeKind : Nat → TokKind | 0 => .data | 1 => .eos | 2 => .eeos | _ => .csv

/-- A handle record: zeros for an invalid handle. -/
def handleRecord (h : Handle) : List Byte :=
  if h.v then leBytes 8 h.anchor ++ leBytes 8 (hspan h).toNat ++ leBytes 16 h.gbase else leBytes 32 0

/-- Four doublewords of a record. -/
def recordBytes (r : List Nat) : List Byte := (List.range 4).flatMap (fun i => leBytes 8 (r.getD i 0))

/-- The header (Table 16.3). `kind` is 1 DRAINED or 2 FROZEN. -/
def headerPiece (t : Task) (g : Geo) (kind spq : Nat) : Piece :=
  let (cv, bc, br) := match t.region with | some r => (r.cfgver, r.bc, r.br) | none => (0, 0, 0)
  (0, leBytes 2 1 ++ leBytes 1 kind ++ leBytes 1 t.tidx ++ leBytes 4 t.launch ++ leBytes 2 t.asid ++ leBytes 2 t.hdie
    ++ leBytes 4 cv ++ leBytes 1 bc ++ leBytes 1 br ++ leBytes 1 g.w ++ leBytes 1 g.h ++ leBytes 4 0 ++ leBytes 8 t.group
    ++ leBytes 8 (g.used spq) ++ leBytes 24 0
    ++ [0x100, 0x500, 0x2500, 0x4500, 0x6900, g.saoff, g.spoff, 0x6500].flatMap (leBytes 8))

/-- The context section (Table 16.6). A block that is being entered has its header as current block and as resume
address, as a trap there would save them (R109). -/
def contextPieces (x : Ctx) : List Piece :=
  let b := x.blk
  [ (0x100, (List.range 32).flatMap (fun r => leBytes 8 (x.getX r).toNat)),
    (0x200, leBytes 8 (x.p.toNat / 2 * 2 + 1)),
    (0x208, leBytes 8 (if b.entering then b.pc else b.hdr)),
    (0x210, leBytes 8 (if b.entering then b2n b.ft * 4096 else b.iter)),
    (0x218, leBytes 8 x.wordPc),
    (0x220, leBytes 8 (b2n x.ended + b2n (x.trapDepth != 0) * 2 + b2n x.wait.isSome * 4 + b2n x.ending * 8)),
    (0x300, sysNumbers.flatMap (fun n => leBytes 8 ((x.sys.read b.m n).getD 0).toNat)) ]

/-- First element, remaining count and queue of the push in flight of a stream or fibre, else zeros. -/
def pushOf (x : Ctx) (fibre : Bool) (i : Nat) : Option Push := x.pushes.find? (fun p => p.fibre == fibre && p.idx == i)

/-- A stream (Table 16.7). A push whose stream is closed keeps the record's place (log 30). -/
def streamBytesOf (x : Ctx) (i : Nat) : List Byte :=
  let p := pushOf x false i
  let t := SMap.find x.s i
  let record := match t, p with | some t, _ => t.record | none, some p => p.record | none, none => []
  let h := match t, p with | some t, _ => t.hcopy | none, some p => p.hcopy | none, none => Handle.invalid
  let err := t.bind (fun t => t.err)
  recordBytes record ++ leBytes 8 ((t.map (fun t => t.pos)).getD 0) ++ leBytes 4 ((p.map (fun p => p.next)).getD 0)
    ++ leBytes 4 ((p.map (fun p => p.remaining)).getD 0) ++ leBytes 8 ((err.map (fun e => e.2)).getD 0)
    ++ leBytes 1 (b2n t.isSome + b2n err.isSome * 2) ++ leBytes 1 ((err.map (fun e => e.1)).getD 0)
    ++ leBytes 6 ((p.map (fun p => p.q)).getD 0) ++ handleRecord h

/-- A fibre (Table 16.7). -/
def fibreBytesOf (x : Ctx) (i : Nat) : List Byte :=
  let p := pushOf x true i
  let t := SMap.find x.f i
  let none' : Fibre := ⟨(p.map (fun p => p.record)).getD [], .invalid, .invalid, (p.map (fun p => p.hcopy)).getD .invalid, 0, 0, 0, 0, none, 0⟩
  let f := t.getD none'
  recordBytes f.record ++ leBytes 4 f.beg ++ leBytes 4 f.fin ++ leBytes 4 f.vpos ++ leBytes 4 f.cpos
    ++ leBytes 4 ((p.map (fun p => p.next)).getD 0) ++ leBytes 4 ((p.map (fun p => p.remaining)).getD 0)
    ++ leBytes 1 (b2n t.isSome + b2n f.err.isSome * 2) ++ leBytes 1 ((f.err.map (fun e => e.1)).getD 0)
    ++ leBytes 6 ((p.map (fun p => p.q)).getD 0) ++ leBytes 24 ((f.err.map (fun e => e.2)).getD 0) ++ leBytes 8 0
    ++ handleRecord f.ph ++ handleRecord f.ch ++ handleRecord f.vh

/-- The code of a role (Table 16.7). -/
def roleCode : Role → Nat | .opener => 1 | .joiner => 2 | .aborted => 3

/-- The opaque-register section (Table 16.7). -/
def opaquePieces (x : Ctx) : List Piece :=
  [ (0x500, (List.range 16).flatMap (fun i => handleRecord (x.getH i))),
    (0x700, (List.range 8).flatMap (streamBytesOf x)),
    (0xA00, (List.range 8).flatMap (fibreBytesOf x)) ]
    ++ x.y.map (fun e => (0x1000 + 160 * e.1, padBytes 128 e.2.desc ++ leBytes 8 e.2.ga ++ leBytes 1 1))
    ++ x.d.map (fun e => (0x1280 + 16 * e.1, leBytes 4 e.2.ducat ++ leBytes 1 (roleCode e.2.role)))
    ++ (match x.rg with
        | none => []
        | some g =>
          [ (0x12C0, leBytes 8 (1 + b2n g.fr * 2 + b2n g.ov * 4 + g.vf % 256 * 256 + g.lines.length * 65536)),
            (0x12D0, g.lines.flatMap (fun l => leBytes 8 (128 * l.1) ++ leBytes 8 l.2)) ])

/-- The lanes of a token as 64 bytes. -/
def lanes64 (ls : List Lane) : List Byte := padBytes 64 (laneBytes ls)

/-- The binding that names entry e. -/
def bindingOf (x : Ctx) (e : Nat) : Option (Nat × Binding) := x.q.find? (fun b => b.2.entry == e)

/-- The tokens of a queue in store order, and how many of them stand at each end; a LOCAL binding's assembly is its last
stored token (Table 16.8). -/
def storedTokens (b : Option Binding) (k : Queue) : List Token × Nat × Nat :=
  match b with
  | some b =>
    if b.dir = .loc then
      (k.ctxQ ++ (if b.asm.isEmpty then [] else [Token.mk' .data b.asm b.asmEng]), k.ctxQ.length, b2n (!b.asm.isEmpty))
    else (k.ctxTokens ++ k.portTokens, k.ctxTokens.length, k.portTokens.length)
  | none => (k.ctxTokens ++ k.portTokens, k.ctxTokens.length, k.portTokens.length)

/-- A binding record and its part of the token store (Tables 16.5 and 16.8). -/
def bindingPieces (x : Ctx) (e : Nat) (k : Queue) : List Piece :=
  let b := (bindingOf x e).map (fun b => b.2)
  let (ts, nc, nr) := storedTokens b k
  let kinds := (ts.zip (List.range ts.length)).foldl (fun n t => n + kindCode t.1.kind * 2 ^ (2 * t.2)) 0
  let cur := b.bind (fun b => b.cur)
  let held : List Lane :=
    match b with
    | some b => if b.dir = .out then b.asm else (match b.cur with | some t => t.lanes | none => [])
    | none => []
  let stat := match b with | some b => (End.stat (b, k)).toNat | none => 0
  [ (0x2500 + 128 * e, leBytes 8 stat ++ leBytes 1 nc ++ leBytes 1 nr ++ leBytes 6 k.tmo ++ leBytes 16 kinds
      ++ leBytes 32 ((cur.map (fun t => kindCode t.kind)).getD 0) ++ lanes64 held),
    (0x8000 + 4096 * e, ts.flatMap (fun t => lanes64 t.lanes)) ]

/-- The mask of the TB bits of a context. -/
def myTags (k : Core) (c : CtxId) : Word :=
  (List.range 64).foldl (fun m t =>
    match SMap.find k.tags t with
    | some g => if g.owner = c && k.tagBusy t then m ||| wordOf (2 ^ t) else m
    | none => m) 0

/-- The record of tag t: the copy under it, or an error that nothing has observed yet (Table 16.9). -/
def copyPiece (k : Core) (c : CtxId) (t : Nat) : List Piece :=
  let at' (row byte ga cause flags : Nat) (desc : List Nat) : List Piece :=
    [(0x4500 + 64 * t, recordBytes desc ++ leBytes 4 row ++ leBytes 4 byte ++ leBytes 8 ga ++ leBytes 1 flags
        ++ leBytes 1 cause ++ leBytes 1 (c % 16))]
  let err (e : Option (Nat × Nat)) : Nat × Nat := e.getD (0, 0)
  match k.copies.find? (fun m => m.tag == t && m.owner == c), SMap.find k.tags t with
  | some m, _ => at' m.row m.byte (err m.err).2 (err m.err).1 (1 + b2n m.err.isSome * 2 + b2n m.strided * 4) m.desc
  | none, some g => if g.owner = c && g.err.isSome then at' 0 0 (err g.err).2 (err g.err).1 2 [] else []
  | none, none => []

/-- The offset of the indices still to be consumed (Table 16.9). GATHQ and NZSCAN read no list. -/
def ixOffset (m : IxCmd) : Nat :=
  if m.kind = 1 || m.kind = 4 then 0 else unsig 64 (signed 64 m.start + (4 * m.pos : Nat))

/-- An index-engine record (Table 16.9). -/
def ixPiece (n : Nat) (m : IxCmd) : Piece :=
  let e := m.err.getD (0, 0)
  (0x5500 + 128 * n, recordBytes m.record ++ leBytes 4 m.word ++ leBytes 4 m.cnt ++ leBytes 4 m.pos
    ++ leBytes 4 (m.wpos + (if m.kind = 2 then m.popped.length else 0))
    ++ leBytes 8 e.2 ++ leBytes 1 (1 + b2n m.err.isSome * 2) ++ leBytes 1 e.1 ++ leBytes 6 0 ++ leBytes 8 (ixOffset m))

/-- The engine section (Table 16.9). -/
def enginePieces (k : Core) (c : CtxId) (x : Ctx) : List Piece :=
  let mine := k.ix.filter (fun m => m.owner == c)
  (List.range 64).flatMap (copyPiece k c)
    ++ ((List.range mine.length).zip mine).map (fun e => ixPiece e.1 e.2)
    ++ x.wreport.map (fun e => (0x5900 + 16 * e.1, leBytes 8 e.2.toNat ++ leBytes 1 1))
    ++ [(0x5940, leBytes 8 (myTags k c).toNat)]

/-! ## Regions (Tables 16.10 to 16.12) -/

/-- What stands on the path from SAFEED site i to its port, for the first site that feeds the port. -/
def Region.pathOf (r : Region) (i : Nat) : List Token :=
  let cfg := r.cfg i
  let same (w : Nat) : Bool := cfgOp w == 0xA1 && cfgAux w % 256 == cfgAux cfg % 256
  if cfgOp cfg = 0xA1 && (r.sites.find? (fun e => same e.2.cfg)).any (fun e => e.1 == i) then
    match r.sa (cfgAux cfg % 64) with
    | some a => a.port (bitsOf (cfgAux cfg) 6 2)
    | none => []
  else []

/-- The SAFEED site that a link feeds and whose path the image keeps. -/
def Region.feeder (r : Region) (l : Nat) : Option Nat :=
  (r.sites.find? (fun e => cfgOp e.2.cfg == 0xA1 && 1 ≤ cfgSel e.2.cfg 0 && cfgSel e.2.cfg 0 ≤ 8
    && r.link e.1 (cfgSel e.2.cfg 0) == some l)).map (fun e => e.1)

/-- The tokens of a link; those that SAFEED has passed to its port stand before those of its input link (log 32). -/
def Region.linkTokens (r : Region) (l : Nat) : List Token :=
  (match r.feeder l with | some i => r.pathOf i | none => []) ++ SMap.getD r.links l []

/-- The links that hold a token, and those that feed a port at which one stands. -/
def Region.heldLinks (r : Region) : List Nat :=
  let fed := r.sites.filterMap (fun e =>
    if cfgOp e.2.cfg = 0xA1 && !(r.pathOf e.1).isEmpty && 1 ≤ cfgSel e.2.cfg 0 && cfgSel e.2.cfg 0 ≤ 8 then
      r.link e.1 (cfgSel e.2.cfg 0) else none)
  let held := r.links.map (fun l => l.1)
  held ++ fed.filter (fun l => !held.contains l)

/-- Tokens that stand together: kind 0 a link, 1 SELF, 2 the held value, 3 BUF's contents or a quad's beats. -/
abbrev TokGroup := Nat × Nat × List Token

/-- The token area's groups in order. -/
def Region.tokGroups (r : Region) : List TokGroup :=
  let links : List TokGroup := r.heldLinks.map (fun l => (0, l, r.linkTokens l))
  let sites : List TokGroup := r.sites.flatMap (fun e =>
    [(1, e.1, e.2.self.toList), (2, e.1, e.2.held), (3, e.1, e.2.buf ++ e.2.outq)])
  (links ++ sites).filter (fun g => !g.2.2.isEmpty)

/-- Count and index of a group. -/
def placeOf (kind key : Nat) : List TokGroup → Nat → Nat × Nat
  | [], _ => (0, 0)
  | g :: gs, n => if g.1 = kind && g.2.1 = key then (g.2.2.length, n) else placeOf kind key gs (n + g.2.2.length)

/-- A token field. -/
def tokField (gs : List TokGroup) (kind key : Nat) : List Byte :=
  let p := placeOf kind key gs 0
  leBytes 4 p.1 ++ leBytes 4 p.2

/-- The links that some site's selectors name. -/
def Region.readLinks (r : Region) : List Nat :=
  r.sites.flatMap (fun e => (List.range 4).filterMap (fun x =>
    if 1 ≤ cfgSel e.2.cfg x && cfgSel e.2.cfg x ≤ 8 then r.link e.1 (cfgSel e.2.cfg x) else none))

/-- The direction whose field of bytes 88 to 151 holds an unread link of a site; ROUTE's far copy takes the first that
its mask leaves out (log 32). -/
def unreadDir (cfg key : Nat) : Option Nat :=
  if key % 9 < 8 then some (key % 9) else (List.range 8).find? (fun d => !bitOf (outMask cfg) d)

/-- The output links of a site that no site reads, by direction. -/
def Region.unread (r : Region) (i : Nat) : List (Nat × Nat) :=
  ((outKeys i (r.cfg i)).filter (fun l => !r.readLinks.contains l)).filterMap (fun l => (unreadDir (r.cfg i) l).map (fun d => (d, l)))

/-- Bytes 28 to 31 of a site record: CVT.SDB's tokens or FILT's lanes gathered. -/
def siteGathered (s : Site) : Nat :=
  if cfgOp s.cfg = 0x48 then s.buf.length
  else if cfgOp s.cfg = 0x69 then (match s.held with | t :: _ => t.lanes.length | [] => 0) else 0

/-- Byte 152: the beats of the current quad consumed or emitted; for SAREAD, 4 stands for the EOS it owes. -/
def Region.siteBeat (r : Region) (s : Site) : Nat :=
  if cfgOp s.cfg = 0xA3 then s.buf.length
  else if cfgOp s.cfg = 0x01 && cfgLt s.cfg = 3 then (if s.outq.isEmpty then s.buf.length / 2 else 4 - s.outq.length)
  else if cfgOp s.cfg = 0xA2 then
    (match r.sa (cfgAux s.cfg % 64) with | some a => if a.eosDue then 4 else a.beat | none => 0)
  else s.beat

/-- A site record (Table 16.11). Bytes 153 to 156 of its beat field hold the choice made on beat 0, whether a sink
has consumed EOS, and how many tokens at the end of its third field are still to be emitted (log 31). -/
def Region.sitePiece (r : Region) (gs : List TokGroup) (i : Nat) (s : Site) : Piece :=
  let slot (x : Nat) : List Byte :=
    if 1 ≤ cfgSel s.cfg x && cfgSel s.cfg x ≤ 8 then
      (match r.link i (cfgSel s.cfg x) with | some l => tokField gs 0 l | none => leBytes 8 0)
    else leBytes 8 0
  let out (d : Nat) : List Byte := match (r.unread i).find? (fun u => u.1 == d) with | some u => tokField gs 0 u.2 | none => leBytes 8 0
  let outs := (List.range 8).flatMap out
  (0x48000 + 256 * i,
    leBytes 16 s.cfg ++ leBytes 1 s.sub ++ leBytes 3 (b2n s.fsp) ++ leBytes 4 s.k ++ leBytes 4 s.n ++ leBytes 4 (siteGathered s)
      ++ (List.range 4).flatMap slot ++ tokField gs 1 i ++ tokField gs 2 i ++ tokField gs 3 i ++ outs
      ++ leBytes 1 (r.siteBeat s) ++ leBytes 2 s.choice ++ leBytes 1 (b2n s.sawEos) ++ leBytes 1 s.outq.length)

/-- The region globals (Table 16.10). -/
def Region.globals (r : Region) (g : Geo) : List Piece :=
  [(0x6900, leBytes 4 r.mbcnt ++ leBytes 1 r.fault ++ leBytes 3 (b2n r.sealed) ++ leBytes 4 g.tcap)]
    ++ r.sem.map (fun e => (0x6910 + 4 * e.1, leBytes 4 (e.2.1 + b2n e.2.2 * 65536)))
    ++ r.cb.map (fun e => (0x6950 + 40 * e.1, leBytes 8 e.2.length ++ e.2.flatMap (leBytes 8)))

/-- The number of a pair state (Table 16.12). -/
def pairCode : PairState → Nat | .idle => 0 | .wait => 1 | .run => 2 | .done => 3 | .errd => 4 | .cand => 5

/-- MMULPs of an SA that have reached its queue's head. -/
def Sa.reached (a : Sa) : Nat :=
  a.pairN - ((List.range a.queue.length).filter (fun i =>
    match a.queue[i]? with | some c => mcMop c.w == 3 && !a.mayRun i | none => false)).length

/-- The progress of the current command: a multiply's K-block, else the blocks that a load at the head has read. -/
def Sa.progress (a : Sa) : Nat := if a.mulPlace.isSome then a.n / 128 else a.load

/-- An SA section but for its B slices (Table 16.12). -/
def Sa.pieces (a : Sa) (off : Nat) : List Piece :=
  let a := a.accUe.foldl (fun a e => a.poison (e / 128) [e % 128]) a
  let started := match a.queue.head? with | some c => c.started | none => false
  let paired := match a.queue.head? with | some c => mcMop c.w == 3 | none => false
  [ (off, a.queue.flatMap (fun c => leBytes 16 (c.w + b2n c.cancelled * 128))),
    (off + 0x100, leBytes 8 a.queue.length),
    (off + 0x108, leBytes 8 (a.progress + b2n started * 2 ^ 16 + b2n paired * 2 ^ 17 + pairCode a.pair * 2 ^ 18)),
    (off + 0x110, leBytes 8 a.reached),
    (off + 0x400, leBytes 8 a.quad) ]
    ++ a.rowK.map (fun e => (off + 0x200 + 4 * e.1, leBytes 4 e.2))
    ++ a.acc.map (fun e => (off + 0x1000 + 256 * e.1, e.2.beats.flatMap laneBytes))

/-- The pieces of a region. -/
def Region.pieces (r : Region) (g : Geo) : List Piece :=
  let gs := r.tokGroups
  let toks := gs.flatMap (fun x => x.2.2)
  r.globals g ++ r.sites.map (fun e => r.sitePiece gs e.1 e.2)
    ++ [(g.toff, toks.flatMap (fun t => lanes64 t.lanes ++ leBytes 8 (kindCode t.kind)))]
    ++ (r.sas.zip (List.range r.sas.length)).flatMap (fun e => e.1.pieces (g.saoff + saSection * e.2))

/-- The barrier section (Table 16.5), held in task 0's image. -/
def barPieces (d : Die) (bars : List Nat) : List Piece :=
  (bars.zip (List.range bars.length)).filterMap (fun e =>
    (SMap.find d.bars e.1).map (fun b => (0x6500 + 16 * e.2, leBytes 2 b.phase ++ leBytes 6 b.count ++ leBytes 8 b.arrived)))

/-! ## Writing an image -/

/-- A range reads as blank. -/
def clearRange (m : List Host.Cell) (g n : Nat) : List Host.Cell := m.filter (fun c => decide (c.1 < g) || decide (g + n ≤ c.1))

/-- Copies a range of bytes of memory. -/
def copyRange (m : List Host.Cell) (src n dst : Nat) : List Host.Cell :=
  let cells := m.filter (fun c => decide (src ≤ c.1) && decide (c.1 < src + n))
  cells.foldl (fun m c => Mem.set m (dst + (c.1 - src)) c.2) (clearRange m dst n)

/-- A range of memory has been written: the destination of a page migration that has copied some of it follows (R286). -/
def landRange (s : State) (g n : Nat) (m : List Host.Cell) : State :=
  { s with mem := s.dies.foldl (fun m e =>
      let d := e.2
      let lo := max g d.msrc
      let hi := min (g + n) (d.msrc + d.mcopied * 128)
      if d.mstate != 0 && decide (lo < hi) then copyRange m lo (hi - lo) (d.mdst + (lo - d.msrc)) else m) m }

/-- Writes pieces at their offsets from a GA. -/
def putPieces (m : List Host.Cell) (base : Nat) (ps : List Piece) : List Host.Cell :=
  ps.foldl (fun m p => Mem.setBytes m (base + p.1) p.2) m

/-- The image of one task of a group at a GA. -/
def writeImage (s : State) (c : CtxId) (t : Task) (kind base : Nat) : State :=
  let g := geoOf t.image
  let k := coreOf c
  let x := s.ctx c
  let spq := t.banks.length
  let s := settleRange s base (g.size spq)
  let ps := headerPiece t g kind spq :: contextPieces x ++ opaquePieces x
    ++ t.queues.flatMap (fun q => bindingPieces x q.1 q.2) ++ enginePieces (s.core k) c x
    ++ (match t.region with | some r => r.pieces g | none => [])
  let m := putPieces (clearRange s.mem base (g.size spq)) base ps
  let m :=
    match t.region with
    | some r => (r.sas.zip (List.range r.sas.length)).foldl (fun m e =>
        copyRange m (sliceGa (dieOf c) e.1.index 0 0) (2 ^ 21) (base + g.saoff + saSection * e.2 + 0x81000)) m
    | none => m
  let m := (t.banks.zip (List.range spq)).foldl (fun m b => copyRange m (bankGa k b.1) 16384 (base + g.spoff + 16384 * b.2)) m
  landRange s base (g.size spq) m

end Sys2Proof.Machine
end

