-- ==== Sys2Proof/Machine/Restore.lean ====
section
/-! DEFINITION. Reading a task image back (R315 to R320): the header's checks, handles bound afresh, and each section
restored into a context that a resumption has placed. -/

namespace Sys2Proof.Machine

/-! ## Reading -/

/-- An n-byte field of the image at a GA. -/
def State.img (s : State) (base off n : Nat) : Nat := s.peek (base + off) n

/-- A range of memory reads as zeros. -/
def rangeBlank (m : List Host.Cell) (g n : Nat) : Bool := m.all (fun c => decide (c.1 < g) || decide (g + n ≤ c.1))

/-- The image stands for a task of the group that had completed: KIND is 0 (log 33). -/
def noImage (s : State) (base : Nat) : Bool := s.img base 2 1 == 0

/-- The image cannot be placed: an IMGFMT that the device does not support, or a reserved byte that is not 0 (R320). -/
def badImage (s : State) (base : Nat) : Bool :=
  s.img base 0 2 != 1 || s.img base 11 1 != 0 || s.img base 20 4 != 0 || s.img base 40 24 != 0
    || !rangeBlank s.mem (base + 128) 128 || !rangeBlank s.mem (base + 0x6D00) 4864

/-! ## Handles -/

/-- Where the banks of a quota went: the GA of each saved bank and of the bank that takes its place. -/
abbrev QuotaMap := List (Nat × Nat)

/-- A handle record as saved. -/
def savedHandle (s : State) (base off : Nat) : Handle :=
  let w := s.img base (off + 8) 8
  if !bitOf w 0 then Handle.invalid
  else
    { v := true, w := bitOf w 2, anchor := s.img base off 8, pbase := bitsOf w 12 44 * 4096, psize := bitsOf w 10 2
      gbase := s.img base (off + 16) 8, ord := bitsOf w 4 2, nt := bitOf w 6, sdb := bitOf w 7, bnd := bitOf w 8
      vf := bitOf w 9, x := bitOf w 3, entry := 0 }

/-- A saved handle bound to the new die's entry; one whose frame lies in the old quota keeps its offset in the new
(R320). The residency walk has made the page of every valid handle present, so that an entry is there. -/
def bindHandle (s : State) (d : DieId) (asid : Nat) (q : QuotaMap) (h : Handle) : Handle :=
  if !h.v then Handle.invalid
  else
    let quota := (q.find? (fun b => decide (b.1 ≤ h.gbase) && decide (h.gbase < b.1 + 16384))).map (fun b => b.2 + (h.gbase - b.1))
    match quota, leaseFind (s.die d) asid h.pbase with
    | some g, some e => { h with gbase := g, entry := e.id }
    | none, some e => handleOf e h.anchor (h.w && e.w)
    | _, none => { h with v := false }

/-- The offsets of the handle records of an image: registers, stream copies, fibre copies. -/
def handleOffsets : List Nat :=
  (List.range 16).map (fun i => 0x500 + 32 * i) ++ (List.range 8).map (fun i => 0x700 + 96 * i + 64)
    ++ (List.range 8).flatMap (fun i => [0xA00 + 192 * i + 96, 0xA00 + 192 * i + 128, 0xA00 + 192 * i + 160])

/-- The pages of the valid handles of an image, as ranges of one byte. -/
def savedPages (s : State) (base : Nat) : List (Nat × Nat) :=
  handleOffsets.filterMap (fun o => let h := savedHandle s base o; if h.v then some (h.pbase, h.pbase + 1) else none)

/-- The pages of the valid handles that are kept of a saved task's engine commands beside its image (log 89). -/
def Parked.pages (p : Parked) : List (Nat × Nat) :=
  let side (a : CopySide) : List Handle := match a.h with | some h => [h] | none => []
  (p.copies.flatMap (fun m => side m.src ++ side m.dst) ++ p.ix.flatMap (fun m => [m.dh, m.ih])
    ++ p.pushes.map (fun u => u.1.hcopy)).filterMap
    (fun h => if h.v then some (h.pbase, h.pbase + 1) else none)

/-! ## Context and opaque registers -/

/-- Four doublewords from an offset. -/
def imgRecord (s : State) (base off : Nat) : List Nat := (List.range 4).map (fun i => s.img base (off + 8 * i) 8)

/-- A recorded error. -/
def imgErr (s : State) (base cause ga : Nat) (flag : Bool) : Option (Nat × Nat) :=
  if flag then some (s.img base cause 1, s.img base ga 8) else none

/-- The opaque registers, with the pushes in flight (Table 16.7): a push whose register was opened anew meanwhile keeps its own
record (log 89). Streams and fibres number their opens afresh. -/
def restoreOpaque (s : State) (c : CtxId) (base : Nat) (bind : Handle → Handle) (kept : List (Push × Bool)) : State :=
  let hr (o : Nat) : Handle := bind (savedHandle s base o)
  let no0 := (s.ctx c).pushSeq
  let regs : SMap Handle := (List.range 16).filterMap (fun i => let h := hr (0x500 + 32 * i); if h.v then some (i, h) else none)
  let stream (i : Nat) : Option (Nat × Stream) :=
    let o := 0x700 + 96 * i
    let f := s.img base (o + 56) 1
    if bitOf f 0 then some (i, ⟨imgRecord s base o, hr (o + 64), s.img base (o + 32) 8, imgErr s base (o + 57) (o + 48) (bitOf f 1),
        no0 + i⟩)
    else none
  let fibre (i : Nat) : Option (Nat × Fibre) :=
    let o := 0xA00 + 192 * i
    let f := s.img base (o + 56) 1
    if bitOf f 0 then
      some (i, ⟨imgRecord s base o, hr (o + 96), hr (o + 128), hr (o + 160), s.img base (o + 32) 4, s.img base (o + 36) 4,
        s.img base (o + 40) 4, s.img base (o + 44) 4, imgErr s base (o + 57) (o + 64) (bitOf f 1), no0 + 8 + i⟩)
    else none
  let push (fib : Bool) (i o first copy : Nat) : List Push :=
    let n := s.img base (o + first + 4) 4
    let p : Push := ⟨fib, i, imgRecord s base o, hr (o + copy), s.img base (o + first) 4, n, s.img base (o + 58) 1, false, 0,
      no0 + (if fib then 8 + i else i), (s.ctx c).sys.asid⟩
    if n = 0 then []
    else
      match kept.find? (fun k => k.1.fibre == fib && k.1.idx == i) with
      | none => [p]
      | some (k, true) => [{ p with dead := k.dead, asid := k.asid }]
      | some (k, false) => [{ p with dead := k.dead, asid := k.asid, record := k.record, hcopy := bind k.hcopy, no := no0 + 16 }]
  let pushes := (List.range 8).flatMap (fun i => push false i (0x700 + 96 * i) 40 64)
    ++ (List.range 8).flatMap (fun i => push true i (0xA00 + 192 * i) 48 160)
  let vol (i : Nat) : Option (Nat × Vol) :=
    let o := 0x1000 + 160 * i
    if bitOf (s.img base (o + 136) 1) 0 then some (i, ⟨s.bytesAt (base + o) 128, s.img base (o + 128) 8⟩) else none
  let g := s.img base 0x12C0 8
  let rg : Option ReadGroup :=
    if bitOf g 0 then
      some ⟨bitOf g 1, bitOf g 2, bitsOf g 8 8, (List.range (bitsOf g 16 7)).map (fun i =>
        (s.img base (0x12D0 + 16 * i) 8 / 128, s.img base (0x12D8 + 16 * i) 8))⟩
    else none
  s.modCtx c (fun x =>
    { x with h := regs, s := (List.range 8).filterMap stream, f := (List.range 8).filterMap fibre
             y := (List.range 4).filterMap vol, rg := rg
             pushes := (pushes.zip (List.range pushes.length)).map (fun p => { p.1 with seq := no0 + 17 + p.2 })
             pushSeq := no0 + 17 + pushes.length })

/-- The ducats: one whose bundle no longer knows the task as a holder has been aborted meanwhile (R369). -/
def restoreDucats (s : State) (c : CtxId) (base : Nat) : State :=
  let one (i : Nat) : Option (Nat × DReg) :=
    let o := 0x1280 + 16 * i
    let n := s.img base o 4
    let alive := match s.bundle n with | some b => b.holders.contains c | none => false
    match s.img base (o + 4) 1 with
    | 1 => some (i, ⟨n, if alive then .opener else .aborted⟩)
    | 2 => some (i, ⟨n, if alive then .joiner else .aborted⟩)
    | 3 => some (i, ⟨n, .aborted⟩)
    | _ => none
  s.modCtx c (fun x => { x with d := (List.range 4).filterMap one })

/-- The context section (Table 16.6): general and system registers, and the place to resume at. A context in a trap handler is in
as many levels of it as when it was saved, `depth`, which the image does not say (R282, log 89). -/
def restoreContext (s : State) (c : CtxId) (base depth : Nat) : State :=
  let iter := s.img base 0x210 8
  let pc := s.img base 0x218 8
  let hdr := s.img base 0x208 8
  let flags := s.img base 0x220 8
  let ended := bitOf flags 0
  s.modCtx c (fun x =>
    { x with x := ((List.range 31).map (fun i => (i + 1, wordOf (s.img base (0x108 + 8 * i) 8)))).filter (fun e => e.2 != 0)
             p := BitVec.ofNat 8 (s.img base 0x200 1 / 2 * 2 + 1)
             sys := x.sys.restore ((List.range 20).map (fun i => s.img base (0x300 + 8 * i) 8))
             blk := { Block.reset with pc := pc, hdr := hdr, iter := bitsOf iter 0 12, entering := pc == hdr, ft := bitOf iter 12 }
             run := !ended, ended := ended, trapDepth := if bitOf flags 1 then max 1 depth else 0, ending := bitOf flags 3 })

/-- A context that resumes inside a block reads its header again; one that cannot takes the fault of its fetch. -/
def reenter (s : State) (c : CtxId) : State :=
  let x := s.ctx c
  if x.ended || x.blk.entering then s
  else
    match fetchHeader s c x.blk.hdr with
    | (s, .ok (some (rep, len, l, e, m))) => s.modCtx c (fun x => { x with blk := { x.blk with rep := rep, len := len, l := l, e := e, m := m } })
    | (s, .ok none) => trapEntry s c 0x02 x.blk.hdr false false
    | (s, .error (code, va)) => trapEntry s c code va false true

/-! ## Queues -/

/-- Token k of a run of stored tokens at an offset, `stride` bytes apart. -/
def imgLanes (s : State) (base off : Nat) : List Lane := bytesLanes (s.bytesAt (base + off) 64)

/-- A token restored: lanes count as read by an engine, so that popping it acquires (log 34). -/
def storedToken (s : State) (k : Nat) (ls : List Lane) : Token := ⟨codeKind k, ls, true, none, s.fc⟩

/-- Queue-table entry e with its binding (Table 16.8). -/
def restoreQueue (s : State) (c : CtxId) (base e : Nat) : State :=
  let o := 0x2500 + 128 * e
  let stat := s.img base o 8
  let nc := s.img base (o + 8) 1
  let nr := s.img base (o + 9) 1
  let kinds := s.img base (o + 16) 16
  let tok (i : Nat) : Token := storedToken s (bitsOf kinds (2 * i) 2) (imgLanes s base (0x8000 + 4096 * e + 64 * i))
  let held := imgLanes s base (o + 64)
  let lp := bitsOf stat 51 4
  let x := s.ctx c
  match x.queue e with
  | none => s
  | some k =>
    let b := bindingOf x e
    let isLoc : Bool := match b with | some b => decide (b.2.dir = .loc) | none => false
    let near := (List.range nc).map tok
    let far := if isLoc then [] else (List.range nr).map (fun i => tok (nc + i))
    let k := if k.ends != 0 then { k with ctxQ := near, regQ := far }
             else if k.inward then { k with ctxQ := near ++ far, regQ := [] } else { k with ctxQ := [], regQ := far ++ near }
    let s := s.modCtx c (fun x => x.setQueue e k)
    match b with
    | none => s
    | some (q, b) =>
      let asm := if b.dir = .out then held.take lp
                 else if b.dir = .loc && nr != 0 then (tok nc).lanes.take (bitsOf stat 41 4) else []
      let cur := if b.dir != .out && lp != 0 then some (storedToken s (s.img base (o + 32) 1) held) else none
      let b' : Binding :=
        { b with lp := if b.dir = .out then 0 else lp, cur := cur, endf := bitOf stat 58, err := bitOf stat 57
                 cnt := bitsOf stat 0 32, asm := asm, asmEng := !asm.isEmpty }
      s.modCtx c (fun x => { x with q := SMap.set x.q q b' })

/-! ## Engine commands -/

/-- The handle of a resumed engine command: the copy that it held when it was saved, bound afresh, else the register of
its number (log 89). -/
def savedCopyHandle (x : Ctx) (bind : Handle → Handle) (n : Nat) (kept : Option Handle) : Handle :=
  match kept with | some h => bind h | none => x.getH n

/-- A side of a resumed copy no longer has a valid handle: its entry was removed while the task was saved (R319). -/
def CopySide.dead (a : CopySide) : Bool := match a.h with | some h => !h.v | none => false

/-- The copy of a record, `kept` being the command as it was saved. One whose handle was shot down meanwhile has no request
left to make, and records HINV with the handle's number (R126, R319). -/
def imgCopy (s : State) (c : CtxId) (base t seq : Nat) (bind : Handle → Handle) (kept : Option Copy) : Copy :=
  let o := 0x4500 + 64 * t
  let desc := imgRecord s base o
  let d := copyDesc desc
  let f := s.img base (o + 48) 1
  let x := s.ctx c
  let row := s.img base (o + 32) 4
  let byte := s.img base (o + 36) 4
  let src : CopySide :=
    ⟨if d.sga then none else some (savedCopyHandle x bind d.sh (kept.bind (fun k => k.src.h))), d.soff, unsig 24 d.sstr⟩
  let dst : CopySide :=
    ⟨if d.dga then none else some (savedCopyHandle x bind d.dh (kept.bind (fun k => k.dst.h))), d.doff, unsig 24 d.dstr⟩
  let gone := src.dead || dst.dead
  let err := imgErr s base (o + 49) (o + 40) (bitOf f 1)
  { tag := t, owner := c, asid := x.sys.asid, desc := desc, strided := bitOf f 2, src := src, dst := dst
    rows := d.rows, len := d.len, row := if gone then d.rows else row, byte := byte, snap := kept.bind (fun k => k.snap)
    isStart := match kept with | some k => k.isStart | none => row == 0 && byte == 0
    err := if gone then firstErr err (some (0x12, if src.dead then d.sh else d.dh)) else err, seq := seq }

/-- An index-engine instruction's kind, q, E and operation, from its word. -/
def ixDecode (w : Nat) : Option (Nat × Nat × Nat × Nat) :=
  match decode (leBytes 4 w) with
  | .ok (.gath _ e q _ _, _) => some (0, q.toNat, b2n e, 0)
  | .ok (.gathq _ e q _ _, _) => some (1, q.toNat, b2n e, 0)
  | .ok (.scat _ op h _ _, _) => some (2, h.toNat, 0, scatCode op)
  | .ok (.rgath _ e q _ _, _) => some (3, q.toNat, b2n e, 0)
  | .ok (.nzscan _ p e q _ _, _) => some (4, q.toNat, b2n e, b2n p)
  | _ => none

/-- The indices still to be consumed, read again and checked as at issue (R319). An index that fails ends the command
with BOUNDS at its position; a read that fails, with its own cause; a handle whose entry was removed meanwhile, with HINV
and its number. -/
def rereadList (s : State) (c : CtxId) (m : IxCmd) (a : IxSource) : State × IxCmd :=
  if a.n = 0 then (s, m)
  else
    match ixListCheck a.h a.hn a.off a.n with
    | .error (0x12, n) => (s, { m with err := firstErr m.err (some (0x12, n)) })
    | .error _ => (s, { m with err := firstErr m.err (some (0x13, m.pos)) })
    | .ok _ =>
      match ixList s c a 0 a.n with
      | (s, .error e) => (s, { m with err := firstErr m.err (some e) })
      | (s, .ok l) =>
        let bad := (List.range l.length).find? (fun i =>
          match l[i]? with
          | some v => (ixFault m.record [v]).isSome || (match ixResolve s c m.kind m.dh m.record [v] with | .ok _ => false | .error _ => true)
          | none => false)
        match bad, ixResolve s c m.kind m.dh m.record l with
        | none, .ok rows => (s, { m with rows := List.replicate m.pos .null ++ rows })
        | some i, _ => (s, { m with err := firstErr m.err (some (0x13, m.pos + i)) })
        | none, .error _ => (s, { m with err := firstErr m.err (some (0x13, m.pos)) })

/-- Index-engine record n (Table 16.9), `kept` being the command as it was saved: it goes on through the handle copies it
had, bound afresh (R319), that of a fibre's CH among them. -/
def restoreIx (s : State) (c : CtxId) (base seq n : Nat) (bind : Handle → Handle) (kept : Option IxCmd) : State :=
  let o := 0x5500 + 128 * n
  let f := s.img base (o + 56) 1
  let word := s.img base (o + 32) 4
  match (if bitOf f 0 then ixDecode word else none) with
  | none => s
  | some (kind, q, flag, op) =>
    let x := s.ctx c
    let r := imgRecord s base o
    let cnt := s.img base (o + 36) 4
    let pos := s.img base (o + 40) 4
    let w := s.img base (o + 64) 8
    let listed := kind != 1 && kind != 4
    let fib := SMap.find x.f (recFb r)
    let (fh, fn, all) : Handle × Nat × Nat :=
      if recIsrc r = 0 then (x.getH (recIh r), recIh r, cnt)
      else
        match fib with
        | some f => (f.ch, bitsOf (f.record.getD 3 0) 4 4, min cnt (f.fin - ((signed 64 w - signed 64 (f.record.getD 1 0)) / 4 - pos).toNat))
        | none => (Handle.invalid, 0, cnt)
    let src : IxSource :=
      if !listed then ⟨Handle.invalid, 0, 0, 0⟩
      else
        match kept with
        | some k => ⟨bind k.ih, k.ihn, signed 64 w, k.rows.length - pos⟩
        | none => ⟨fh, fn, signed 64 w, all - pos⟩
    let dn := ixDataHandle kind q r
    let m : IxCmd :=
      { kind := kind, owner := c, asid := x.sys.asid, word := word, record := r, cnt := cnt, q := q, flag := flag, op := op
        dh := savedCopyHandle x bind dn (kept.map (fun k => k.dh)), ih := src.h, ihn := src.hn
        rows := List.replicate pos .null, start := if listed then unsig 64 (signed 64 w - (4 * pos : Nat)) else 0
        pos := pos, wpos := match kept with | some k => k.wpos | none => s.img base (o + 44) 4
        popped := match kept with | some k => k.popped | none => []
        found := match kept with | some k => k.found | none => false
        arrived := [], bad := match kept with | some k => if kind = 2 then k.bad else [] | none => []
        err := imgErr s base (o + 57) (o + 48) (bitOf f 1), seq := seq }
    let (s, m) := rereadList s c m src
    s.modCore (coreOf c) (fun k => { k with ix := k.ix ++ [m] })

/-- The engine section (Table 16.9). The commands keep among them the order they had: their numbers follow those of the
new core (R142, R236). A TB bit is set again while a command of the image or a bundle still holds its
tag; a tag that cleared while the task was saved keeps the error it cleared with, which the model holds for the task
under `park` (log 35). -/
def restoreEngines (s : State) (c : CtxId) (base park : Nat) (bind : Handle → Handle) (kept : Parked) : State :=
  let k := coreOf c
  let n0 := (s.core k).ixSeq
  let flag (t : Nat) : Nat := s.img base (0x4500 + 64 * t + 48) 1
  let live := (List.range 64).filter (fun t => bitOf (flag t) 0)
  let copies := live.map (fun t =>
    let old := kept.copies.find? (fun m => m.tag == t)
    imgCopy s c base t (n0 + (match old with | some m => m.seq | none => t)) bind old)
  let s := s.modCore k (fun q => { q with copies := q.copies ++ copies, ixSeq := n0 + kept.ixSeq + 80 })
  let s := (List.range 8).foldl (fun s i =>
    let old := kept.ix[i]?
    restoreIx s c base (n0 + (match old with | some m => m.seq | none => 64 + i)) i bind old) s
  let spent := copies.filter (fun m => decide (m.rows ≤ m.row))
  let held (t : Nat) : Bool :=
    live.contains t || (s.core k).ix.any (fun m => m.owner == c && recTagged m.record && recTag m.record == t)
      || s.dies.any (fun d => d.2.bundles.any (fun b => b.2.tags.contains (k, t, c)))
  let away := s.core (coreOf park)
  let mask := s.img base 0x5940 8
  let s := (List.range 64).foldl (fun s t =>
    if bitOf mask t then
      s.modCore k (fun q =>
        let q := q.takeTag t c
        if held t then q else q.clearTag t ((SMap.find away.tags t).bind (fun g => g.err)))
    else
      match imgErr s base (0x4500 + 64 * t + 49) (0x4500 + 64 * t + 40) (!bitOf (flag t) 0 && bitOf (flag t) 1) with
      | some e => s.modCore k (fun q => { q with tags := SMap.set q.tags t ⟨c, some e⟩ })
      | none => s) s
  -- a copy with no request left to make completes with its error
  let s := spent.foldl (fun s m => s.modCore k (fun q =>
    { q with copies := q.copies.filter (fun n => !(n.tag == m.tag && n.owner == c)) }.clearTag m.tag m.err)) s
  s.modCtx c (fun x => { x with wreport := (List.range 4).filterMap (fun i =>
    if bitOf (s.img base (0x5908 + 16 * i) 1) 0 then some (i, wordOf (s.img base (0x5900 + 16 * i) 8)) else none) })

/-! ## Regions -/

/-- The tokens of a token field. -/
def fieldTokens (s : State) (base toff off : Nat) : List Token :=
  let n := s.img base off 2
  let i := s.img base (off + 4) 4
  (List.range n).map (fun k =>
    let o := toff + 72 * (i + k)
    storedToken s (s.img base (o + 64) 1) (imgLanes s base o))

/-- The state of a site from its record (Table 16.11); `ue` when its storage holds an uncorrectable error, which the model keeps beside
the image. The record has no bit for a SELF token that EOS reloaded (R193): DESIGN CHOICE (log 138), any SELF token of a
self-initialised site that equals its CONST32 counts as one. -/
def imgSite (s : State) (base toff i : Nat) (ue : Bool) : Site :=
  let o := 0x48000 + 256 * i
  let cfg := s.img base o 16
  let op := cfgOp cfg
  let gathered := s.img base (o + 28) 4
  let beat := s.img base (o + 152) 1
  let held := fieldTokens s base toff (o + 72)
  let third := fieldTokens s base toff (o + 80)
  let self := (fieldTokens s base toff (o + 64)).head?
  let gathers := third.length - s.img base (o + 156) 1
  let one := cfgOp cfg == 0x01 || op == 0xA3 || op == 0xA2
  { cfg := cfg, sub := s.img base (o + 16) 1, fsp := op == 0x65, k := s.img base (o + 20) 4, n := s.img base (o + 24) 4
    self := self, reload := match self with | some t => cfgIt cfg && t.lanes == (initToken cfg).lanes | none => false
    held := if op = 0x69 then held.map (fun t => { t with lanes := t.lanes.take gathered }) else held
    buf := third.take gathers, outq := third.drop gathers, beat := if one then 0 else beat
    choice := s.img base (o + 153) 2, last := none, emitted := 0, sawEos := bitOf (s.img base (o + 155) 1) 0, ue := ue
    fired := none, shots := 0 }

/-- Places tokens on a link. -/
def Region.fillLink (r : Region) (l : Nat) (ts : List Token) : Region :=
  if ts.isEmpty then r else { r with links := SMap.set r.links l ts }

/-- The links that a site's record holds: its inputs, and its outputs that no site reads. -/
def Region.restoreLinks (r : Region) (s : State) (base toff i : Nat) : Region :=
  let o := 0x48000 + 256 * i
  let cfg := r.cfg i
  let r' := (List.range 4).foldl (fun (q : Region) x =>
    if 1 ≤ cfgSel cfg x && cfgSel cfg x ≤ 8 then
      (match r.link i (cfgSel cfg x) with
       | some l =>
         let ts := fieldTokens s base toff (o + 32 + 8 * x)
         -- what a link has no room for stands on SAFEED's path to its port (log 32)
         let far := if cfgOp cfg = 0xA1 then ts.length - 2 else 0
         let q := if far = 0 then q else q.modSa (cfgAux cfg % 64) (fun a => a.setPort (bitsOf (cfgAux cfg) 6 2) (ts.take far))
         q.fillLink l (ts.drop far)
       | none => q)
    else q) r
  (r.unread i).foldl (fun q u => q.fillLink u.2 (fieldTokens s base toff (o + 88 + 8 * u.1))) r'

/-- The pair state of a number. A pair that waited starts its timer anew (Table 14.4). -/
def codePair : Nat → PairState | 2 => .run | 3 => .done | 4 => .errd | 5 => .cand | _ => .idle

/-- An SA block from its section (Table 16.12): the command queue, progress, accumulators. MMULPs are numbered again
from those that have reached the head. `kept` is what the model holds of the block beside its section: commands keep their
numbers, after `seq`, and what ABT was when they became ready (R230); their timers start anew (R300). The accumulator words in error stay so (R388). -/
def imgSa (s : State) (base off seq : Nat) (c : CtxId) (kept : Option ParkedSa) (a : Sa) : Sa :=
  let cmd (i : Nat) : SaCmd :=
    let w := s.img base (off + 16 * i) 16
    let old := kept.bind (fun k => k.queue[i]?)
    ⟨w - b2n (bitOf w 7) * 128, false, bitOf w 7, none, seq + (match old with | some m => m.seq | none => 79), c,
      (old.bind (fun m => m.ready)).map (fun e => (e.1, s.fc))⟩
  let nq := bitsOf (s.img base (off + 0x100) 8) 0 5
  let cur := s.img base (off + 0x108) 8
  let kb := bitsOf cur 0 16
  let rows : SMap Nat := (List.range 128).filterMap (fun i => let v := s.img base (off + 0x200 + 4 * i) 4; if v = 0 then none else some (i, v))
  let quad := s.img base (off + 0x400) 2
  let queue := (List.range nq).map cmd
  let headOn := bitOf cur 16
  let mulAt := queue.findIdx? (fun m => mcMop m.w == 2 || mcMop m.w == 3)
  let readAt := queue.findIdx? (fun m => mcMop m.w == 4 || mcMop m.w == 6)
  let on (i : Nat) : Bool :=
    (match kept.bind (fun k => k.queue[i]?) with | some m => m.started | none => false) || (i == 0 && headOn)
      || (mulAt == some i && (kb != 0 || !rows.isEmpty) && (i == 0 || readAt == some 0))
      || (readAt == some i && quad != 0)
  let queue := (queue.zip (List.range nq)).map (fun e => { e.1 with started := on e.2 })
  let mul := match mulAt with | some i => on i | none => false
  let n := if mul then 128 * kb + (rows.filter (fun e => decide (kb < e.2))).length else 0
  let cell (e : Nat) : Option (Nat × Quad) :=
    if rangeBlank s.mem (base + off + 0x1000 + 256 * e) 256 then none
    else some (e, csvQuad ((List.range 4).map (fun b => imgLanes s base (off + 0x1000 + 256 * e + 64 * b))))
  let a : Sa := { a with
    queue := queue, n := n, rowK := rows, quad := quad
    load := match kept with | some k => k.load | none => if mul then 0 else kb
    loadErr := kept.bind (fun k => k.loadErr)
    pair := codePair (bitsOf cur 18 6), acc := (List.range 2048).filterMap cell
    firstErr := kept.bind (fun k => k.firstErr), accUe := (kept.map (fun k => k.accUe)).getD [] }
  let behind := ((List.range nq).filter (fun i => match a.queue[i]? with | some m => mcMop m.w == 3 && !a.mayRun i | none => false)).length
  let total := s.img base (off + 0x110) 4 + behind
  let pairs := (a.queue.filter (fun m => mcMop m.w == 3)).length
  { a with pairN := total, queue := (a.queue.foldl (fun (acc : List SaCmd × Nat) m =>
      if mcMop m.w = 3 then (acc.1 ++ [{ m with num := some acc.2 }], acc.2 + 1) else (acc.1 ++ [m], acc.2)) ([], total - pairs)).1 }

/-- SA k of a restored region follows what its partner's count and state say of halves that are gone: they were
cancelled, or errored when the partner's last pair did (log 35). -/
def Region.settlePairs (r : Region) (k : Nat) : Region :=
  match r.sa k, r.partner k with
  | some a, some (_, o) =>
    let mine := a.reached
    let theirs := o.reached - (if o.queue.any (fun m => mcMop m.w == 3 && (m.num.getD 0) < o.reached) then 1 else 0)
    let gone := (List.range (theirs - mine)).map (fun i => mine + i)
    r.setSa k (if o.pair = .errd then { a with pairErr := gone } else { a with pairCancel := gone })
  | _, _ => r

/-- The beat and the owed EOS of an SA's reader. -/
def readerBeat (s : State) (base : Nat) (r : Region) (k : Nat) (a : Sa) : Sa :=
  match r.sites.find? (fun e => cfgOp e.2.cfg == 0xA2 && cfgAux e.2.cfg % 64 == k) with
  | some e => let b := s.img base (0x48000 + 256 * e.1 + 152) 1; if b = 4 then { a with eosDue := true } else { a with beat := b }
  | none => a

/-- The region of an image in the place that a resumption gave it. -/
def restoreRegion (s : State) (c : CtxId) (base : Nat) (g : Geo) (r : Region) (seq : Nat) (kept : Parked) : Region :=
  let r : Region := { r with
    sites := r.sites.map (fun e => (e.1, imgSite s base g.toff e.1 (kept.ueSites.contains e.1))), links := []
    mbcnt := s.img base 0x6900 4, fault := s.img base 0x6904 1, sealed := bitOf (s.img base 0x6905 1) 0
    sem := (List.range 16).filterMap (fun i => let v := s.img base (0x6910 + 4 * i) 4; if v = 0 then none else some (i, (v % 65536, bitOf v 16)))
    cb := (List.range 16).filterMap (fun i =>
      let o := 0x6950 + 40 * i
      let n := s.img base o 1
      if n = 0 then none else some (i, (List.range n).map (fun j => s.img base (o + 8 + 8 * j) 8))) }
  let ks := List.range r.sas.length
  let r : Region := { r with sas := (r.sas.zip ks).map (fun e =>
    readerBeat s base r e.2 (imgSa s base (g.saoff + saSection * e.2) seq c kept.sas[e.2]? e.1)) }
  let r := (r.sites.map (fun e => e.1)).foldl (fun q i => q.restoreLinks s base g.toff i) r
  (ks.foldl Region.settlePairs r).noteReady s.fc

/-- What a sealed region's ports still owe: popping ports absorb, and a full queue owes its EEOS (R383). -/
def Region.resealQueues (r : Region) (qs : SMap Queue) : SMap Queue :=
  if !r.sealed then qs
  else
    let (pops, pushes) := r.ports
    qs.map (fun q =>
      let last := q.2.portTokens.getLast?.map (fun t => t.kind)
      (q.1, if pops.contains q.1 then { q.2 with cut := true }
            else if pushes.contains q.1 && decide (32 ≤ q.2.portTokens.length) && last != some .eeos then { q.2 with cut := true }
            else q.2))

end Sys2Proof.Machine
end

