-- ==== Sys2Proof/Machine/Preempt.lean ====
section
/-! DEFINITION. Pre-emption, freeze and resumption (R312 to R320, R387, R388), and the dispatcher's placing of groups
(R258), in which a resumption takes part. -/

namespace Sys2Proof.Machine

/-! ## The group named -/

/-- The tasks on a die of a group. -/
def groupOn (s : State) (d : DieId) (launch hdie group : Nat) : List (CtxId × Task) :=
  (tasksOn s d).filter (fun e => e.2.launch == launch && e.2.hdie == hdie && e.2.group == group)

/-- The running group that PMLNCH and PMGIDX name, by its home die: one of this die's own launches first. -/
def namedGroup (s : State) (d : DieId) : Option DieId :=
  let x := s.die d
  let on := (tasksOn s d).filter (fun e => e.2.launch == x.pmlnch && e.2.group == x.pmgidx)
  match on.find? (fun e => e.2.hdie == d) with
  | some _ => some d
  | none => on.head?.map (fun e => e.2.hdie)

/-- PMISZ: of the named launch of this die, or of a task on it (R312, R316). -/
def pmisz (s : State) (d : DieId) : Nat :=
  match (s.die d).launch (s.die d).pmlnch with
  | some l => (geoOf l.image).size l.spq
  | none =>
    match (tasksOn s d).find? (fun e => e.2.launch == (s.die d).pmlnch) with
    | some e => (geoOf e.2.image).size e.2.banks.length
    | none => 0

/-- The tile tasks of a group. -/
def groupCoords (s : State) (hdie launch group : Nat) : List (Nat × Nat × Nat) :=
  match (s.die hdie).launch launch with
  | some l => l.coords group
  | none => []

/-- How many tasks a group has in all, completed ones among them. -/
def groupSize (s : State) (hdie launch group : Nat) : Nat := (groupCoords s hdie launch group).length

/-! ## Stopping contexts (R313, R387) -/

/-- The context stands where it may stop before its next step: ended, or in a wait that pre-emption abandons; a freeze stops
it before any word (log 36). A trap that waits for its handler's region is taken first. -/
def mayStop (x : Ctx) (freeze : Bool) : Bool :=
  x.held.isNone && (!x.run || x.stopped || (match x.wait with
    | some w => w.kind.abandoned
    | none => freeze && x.imx.isEmpty))

/-- The step from `x0` to `x` ended an iteration of the body, or was a taken transfer or RETH (R313). Entry into a trap
handler is no such point. -/
def stopEdge (x0 x : Ctx) : Bool :=
  x.imx.isEmpty && x.wait.isNone && decide (x.trapDepth ≤ x0.trapDepth)
    && (x.blk.iter != x0.blk.iter || decide (x.trapDepth < x0.trapDepth) || (x.blk.entering && x.trapDepth == x0.trapDepth))

/-- A stopped context's store buffer drains and its updates merge (R313, R356). A store to a region that a host owns stays behind
until its region comes back. -/
def drainStopped (s : State) (c : CtxId) : State :=
  if (s.ctx c).sbuf.any (storeHeld s) then s else mergeOwn (drain s c) c

/-- The context stops (R313): results of earlier words are written and the store buffer drained. -/
def stopContext (s : State) (c : CtxId) : State :=
  drainStopped (s.modCtx c (fun x => { x.landAll with desched := true, preempt := false })) c

/-- Once every context of the group has stopped, a drain begins: every CTR's FSP is cleared and a pair in WAIT gives up its
timer (R314). A freeze does neither. -/
def beginDrain (s : State) (d : DieId) : State :=
  match (s.die d).pmop with
  | none => s
  | some o =>
    let on := groupOn s d o.launch o.hdie o.group
    if o.resume || !on.all (fun e => (s.ctx e.1).desched) then s
    else
      let calm (r : Region) : Region :=
        { r with sites := r.sites.map (fun e => (e.1, { e.2 with fsp := e.2.fsp && cfgOp e.2.cfg != 0x65 }))
                 sas := r.sas.map (fun a => if a.pair = .wait then { a with pair := .idle } else a) }
      let s := if o.freeze then s else on.foldl (fun s e => s.modCtx e.1 (fun x =>
        match x.region with | some r => x.setRegion (calm r) | none => x)) s
      s.modDie d (fun x => { x with pmop := some { o with started := s.fc } })

/-- Stops every context of the group that may stop now. -/
def stopReady (s : State) (d : DieId) : State :=
  match (s.die d).pmop with
  | none => s
  | some o =>
    let on := groupOn s d o.launch o.hdie o.group
    let before := on.all (fun e => (s.ctx e.1).desched)
    let s := on.foldl (fun s e =>
      let x := s.ctx e.1
      if !x.desched && mayStop x o.freeze then stopContext s e.1 else s) s
    if before then s else beginDrain s d

/-- After a step of context c that began as `x0`: a context asked to stop does so at the end of an iteration, at a taken
transfer or RETH, or once it waits (R313). -/
def preemptCheck (x0 : Ctx) (s : State) (c : CtxId) : State :=
  let x := s.ctx c
  match (s.die (dieOf c)).pmop with
  | none => s
  | some o =>
    if !x.preempt || x.desched || !(stopEdge x0 x || mayStop x o.freeze) then s
    else beginDrain (stopContext s c) (dieOf c)

/-- The waiting load of an agent's register completes, which may end an iteration (R128, R313). -/
def loadEnds (s : State) (c : CtxId) (r : Nat) (v : Word) : State := preemptCheck (s.ctx c) (loadDone s c r v) c

/-! ## PMCTL -/

/-- PREEMPT or FREEZE (R312, R313, R319, R387). A write while an operation is BUSY does nothing (log 37); an image area
that the die cannot write reads BADIMG and nothing is done (log 38). -/
def pmBegin (s : State) (d : DieId) (freeze : Bool) : State :=
  let x := s.die d
  let status (n : Nat) : State := s.modDie d (fun x => { x with pmstat := n })
  if x.pmop.isSome || !x.started then s
  else
    match namedGroup s d with
    | none => status 9
    | some hdie =>
      if 256 ≤ x.saved.length then status 10
      else if x.pmimg % 4096 != 0 || fenced s (pkgOf d) .engine x.pmimg (pmisz s d * max 1 (groupSize s hdie x.pmlnch x.pmgidx)) then status 8
      else
        let o : PmOp :=
          { launch := x.pmlnch, hdie := hdie, group := x.pmgidx, img := x.pmimg, freeze := freeze
            deadline := if x.pmdl = 0 then none else some (s.now + x.pmdl), started := s.fc, resume := false, todo := [], pinned := [] }
        let s := s.modDie d (fun x => { x with pmop := some o, pmstat := 1 })
        let s := (groupOn s d o.launch o.hdie o.group).foldl (fun s e => s.modCtx e.1 (fun x => { x with preempt := true })) s
        stopReady s d

/-- PMCTL_PREEMPT (R312, R313). -/
def execPmctlPreempt (d : DieId) (s : State) : Host.Outcome State Fault Refusal := .next (pmBegin s d false)

/-- PMCTL_FREEZE (R312, R387). -/
def execPmctlFreeze (d : DieId) (s : State) : Host.Outcome State Fault Refusal := .next (pmBegin s d true)

/-- The drain falls through to a freeze, or PMDL has expired (R314). -/
def pmFreeze (s : State) (d : DieId) : State :=
  stopReady (s.modDie d (fun x => { x with pmop := x.pmop.map (fun o => { o with freeze := true }) })) d

/-- PMDL_EXPIRY (R314). -/
def execPmdlExpiry (d : DieId) (s : State) : Host.Outcome State Fault Refusal :=
  .next (match (s.die d).pmop with
    | some o =>
      match o.deadline with
      | some t => if o.resume || o.freeze || decide (s.now < t) then s else pmFreeze s d
      | none => s
    | none => s)

/-! ## Saving a group (R315 to R319) -/

/-- The number under which a saved task stands in the bundles, launches and the model's own records until it resumes:
no context of the domain has it. -/
def parkId (launch hdie group tidx : Nat) : CtxId := (((launch * 2 ^ 8 + hdie) * 2 ^ 48 + group) * 2 ^ 6 + tidx + 1) * 2 ^ 40

/-- A context's part in bundles, launches, fills, walks and pool operations passes to another number; `run` is the new one's
run. -/
def renameCtx (s : State) (old new run : Nat) : State :=
  let f (c : CtxId) : CtxId := if c = old then new else c
  let bundle (b : Bundle) : Bundle :=
    { b with opener := f b.opener, holders := b.holders.map f, closed := b.closed.map f
             tags := b.tags.map (fun t => if t.2.2 = old then (coreOf new, t.2.1, new) else t) }
  let launch (l : Launch) : Launch :=
    if l.launcher = old && l.runNo = (s.ctx old).runNo then { l with launcher := new, runNo := run } else l
  let pool (o : PoolOp) : PoolOp :=
    { o with who := match o.who with | .vfree c => .vfree (f c) | .plpush c n => .plpush (f c) n | w => w }
  let die (d : Die) : Die :=
    { d with bundles := d.bundles.map (fun b => (b.1, bundle b.2)), launches := d.launches.map launch
             fills := d.fills.map (fun x => { x with who := x.who.map f }), poolOps := d.poolOps.map pool
             walks := d.walks.map (fun w => { w with askers := w.askers.map (fun a => { a with ctx := f a.ctx }) }) }
  { s with dies := s.dies.map (fun e => (e.1, die e.2))
           orphans := s.orphans.map (fun b => (b.1, bundle b.2))
           bmsgs := s.bmsgs.map (fun m => { m with ctx := f m.ctx }) }

/-- Tags that a context's BCLOSEs hold. -/
def bundleTags (s : State) (c : CtxId) : List Nat :=
  (s.dies.flatMap (fun d => d.2.bundles) ++ s.orphans).flatMap (fun b =>
    (b.2.tags.filter (fun t => t.2.2 == c)).map (fun t => t.2.1))

/-- The matches of a context's watchpoints not yet latched are latched. -/
def latchHits (s : State) (c : CtxId) : State :=
  let mine := s.hits.filter (fun h => h.ctx == c)
  let s := { s with hits := s.hits.filter (fun h => h.ctx != c) }
  s.modCtx c (fun x => mine.foldl (fun x h => latchHit x h.n h.eva none) x)

/-- What the model keeps of a context's engine commands, SA blocks and sites beside its image. -/
def parkedOf (s : State) (c : CtxId) : Parked :=
  let k := s.core (coreOf c)
  { copies := k.copies.filter (fun m => m.owner == c), ix := k.ix.filter (fun m => m.owner == c), ixSeq := k.ixSeq
    pushes := (s.ctx c).pushes.map (fun p => (p, match (if p.fibre then ((SMap.find (s.ctx c).f p.idx).map (fun t => t.no))
                                                   else ((SMap.find (s.ctx c).s p.idx).map (fun t => t.no))) with
      | some n => n == p.no | none => false))
    sas := match (s.ctx c).region with
      | some r => r.sas.map (fun a => ⟨a.queue, a.firstErr, a.load, a.loadErr, a.accUe⟩)
      | none => []
    ueSites := match (s.ctx c).region with
      | some r => (r.sites.filter (fun e => e.2.ue)).map (fun e => e.1)
      | none => []
    depth := (s.ctx c).trapDepth }

/-- SA block k completes the steps of every A block already taken: each row has applied its blocks of the current K-block,
in both halves of a pair alike (R237, R387). A fetch that fails ends the command as R239 gives; malformed blocks count and
fault as at any time (R226). -/
def settleSa (s : State) (c : CtxId) (k : Nat) : State :=
  match (s.ctx c).region with
  | none => s
  | some r =>
    match (r.sa k).bind (fun a => a.mulPlace.bind (fun i => (a.queue[i]?).map (fun m => (a, i, m)))) with
    | none => s
    | some (a, i, m) =>
      let hs : Halves := if mcMop m.w = 2 then [(k, i)] else (r.pairHalves k i).2
      if r.sealed || a.ablk.isEmpty || hs.any (fun h => decide (h.1 < k)) then s
      else
        match stepKblock s (dieOf c) r hs k (a.n / 128) with
        | .error r => putRegion s c r
        | .ok (r, mal) =>
          let s := putRegion s c (r.countMalformed mal)
          if 0 < mal && r.meos then sealRegion s c 5 else s

/-- Every SA block of a frozen region. -/
def settleRegion (s : State) (c : CtxId) : State :=
  match (s.ctx c).region with
  | none => s
  | some r => (List.range r.sas.length).foldl (fun s k => settleSa s c k) s

/-- One task of a group is saved and leaves its context. -/
def saveTask (s : State) (c : CtxId) (t : Task) (kind base : Nat) : State :=
  let k := coreOf c
  let park := parkId t.launch t.hdie t.group t.tidx
  let s := latchHits s c
  let s := match t.region with | some r => traceLost s (dieOf c) r.marks | none => s
  let s := writeImage s c ((s.ctx c).task.getD t) kind base
  let held := bundleTags s c
  let x := s.ctx c
  let s := renameCtx s c park 0
  let s := s.modCore (coreOf park) (fun q => held.foldl (fun q t => q.takeTag t park) q)
  let s := s.modCtx park (fun y => { y with due := x.due, owed := x.owed, ltstat := x.ltstat, plstat := x.plstat })
  let mask := myTags (s.core k) c
  let s := s.modCore k (fun q =>
    { q with copies := q.copies.filter (fun m => m.owner != c), ix := q.ix.filter (fun m => m.owner != c)
             tb := q.tb &&& ~~~mask, tags := q.tags.filter (fun e => e.2.owner != c) })
  s.modCtx c (fun x => x.leave (s.die (dieOf c)).deftvec)

/-- Saves a group whole (R315 to R317): images, the barrier section in task 0's, headers of KIND 0 for tasks that had
completed (log 33); then everything it held is released and the record of saved groups grows (R316, R319). -/
def saveGroup (s : State) (d : DieId) (o : PmOp) (kind : Nat) : State :=
  let on := groupOn s d o.launch o.hdie o.group
  match on with
  | [] => s.modDie d (fun x => { x with pmop := none, pmstat := 9 })
  | (_, t0) :: _ =>
    let g := geoOf t0.image
    let spq := t0.banks.length
    let size := g.size spq
    let n := max (groupSize s o.hdie o.launch o.group) (on.foldl (fun m e => max m (e.2.tidx + 1)) 0)
    let bars := barPieces (s.die d) t0.bars
    let parked : SMap Parked := on.foldl (fun m e => SMap.set m e.2.tidx (parkedOf s e.1)) []
    let s := settleRange s o.img (n * size)
    let s := landRange s o.img (n * size) ((List.range n).foldl (fun m i =>
      putPieces m (o.img + i * size) [headerPiece { t0 with tidx := i, region := none } ⟨0, 0, 0, 0⟩ 0 0]) (clearRange s.mem o.img (n * size)))
    let s := on.foldl (fun s e => saveTask s e.1 ((s.ctx e.1).task.getD e.2) kind (o.img + e.2.tidx * size)) s
    let s := landRange s o.img size (putPieces s.mem o.img bars)
    let quotas := (List.range n).map (fun i => match on.find? (fun e => e.2.tidx == i) with
      | some e => (coreOf e.1, e.2.banks)
      | none => (0, []))
    let s := leaveLaunch s o.hdie o.launch
    s.modDie d (fun x =>
      { x with pmop := none, pmstat := 1 + kind
               bars := x.bars.filter (fun b => !(b.2.launch == o.launch && b.2.hdie == o.hdie && b.2.group == o.group))
               saved := x.saved ++ [⟨o.img, size, n, o.launch, o.hdie, o.group, quotas, parked⟩] })

/-- Every context of the group has stopped, and no store of theirs is left in a buffer. -/
def allStopped (s : State) (on : List (CtxId × Task)) : Bool :=
  on.all (fun e => let x := s.ctx e.1; x.desched && x.sbuf.isEmpty)

/-- Stores left behind perform, once their regions are back. -/
def drainLeft (s : State) (on : List (CtxId × Task)) : State :=
  on.foldl (fun s e => if (s.ctx e.1).desched && !(s.ctx e.1).sbuf.isEmpty then drainStopped s e.1 else s) s

/-- The fc since which nothing of the group has moved. -/
def quietSince (s : State) (o : PmOp) (on : List (CtxId × Task)) : Nat :=
  on.foldl (fun m e =>
    let x := s.ctx e.1
    max (max m x.adv) (match x.region with | some r => r.moved.getD 0 | none => 0)) o.started

/-- Every started SA command stands at a K-block or quad boundary, and every engine command at a request or token
boundary (R314). -/
def atBoundary (s : State) (on : List (CtxId × Task)) : Bool :=
  on.all (fun e =>
    (match (s.ctx e.1).region with
     | some r => r.sas.all (fun a => a.n % 128 == 0 && a.beat == 0 && a.load == 0)
     | none => true)
      && !(s.core (coreOf e.1)).copies.any (fun m => m.owner == e.1 && m.snap.isSome))

/-- A BCLOSE of the context has a commit under way (R314). -/
def commitUnderWay (s : State) (c : CtxId) : Bool :=
  s.dies.any (fun d => d.2.bundles.any (fun b =>
    (b.2.st == .preparing || b.2.st == .committing) && b.2.tags.any (fun t => t.2.2 == c)))

/-- Something of the group can still move: a site can fire, a command can advance, a token of a chain can cross, or a commit is
under way (R314). -/
def canMove (s : State) (on : List (CtxId × Task)) : Bool :=
  on.any (fun e => regionAble s e.1 || engineAble s e.1 || chainAble s e.1 || commitUnderWay s e.1)

/-- The bytes that the images of a group take, on the die that saves it. -/
def imageArea (s : State) (o : PmOp) (on : List (CtxId × Task)) : Nat :=
  match on with
  | [] => 0
  | (_, t) :: _ =>
    max (groupSize s o.hdie o.launch o.group) (on.foldl (fun m e => max m (e.2.tidx + 1)) 0) * (geoOf t.image).size t.banks.length

/-- Part of a range lies in a region that a host owns: the dispatcher's reads and writes of it wait (R284). -/
def areaOwned (s : State) (g n : Nat) : Bool := (firstOwned s (rangeGas g n)).isSome

/-- The operation of a die names an image area that can no longer be reached (R27). -/
def areaGone (s : State) (d : DieId) (img n : Nat) : Bool := fenced s (pkgOf d) .engine img (max 1 n)

/-- A save whose image area was fenced meanwhile moves nothing (R27): PMCTL reads BADIMG and the group goes on where it stopped
(log 38). -/
def pmGiveUp (s : State) (d : DieId) (on : List (CtxId × Task)) : State :=
  let again (r : Region) : Region :=
    { r with sites := r.sites.map (fun e => (e.1, { e.2 with fsp := e.2.fsp || cfgOp e.2.cfg == 0x65 })) }
  let s := on.foldl (fun s e => s.modCtx e.1 (fun x =>
    let x := { x with desched := false }
    match x.region with | some r => x.setRegion (again r) | none => x)) s
  s.modDie d (fun x => { x with pmop := none, pmstat := 8 })

/-- PREEMPT_DRAIN_END (R314): nothing has moved for 64 fc and nothing can; the image is saved as DRAINED, or the group is
frozen. -/
def execPreemptDrainEnd (d : DieId) (s : State) : Host.Outcome State Fault Refusal :=
  .next (match (s.die d).pmop with
    | none => s
    | some o =>
      let on := groupOn s d o.launch o.hdie o.group
      let s := drainLeft s on
      if o.resume || o.freeze || !allStopped s on || decide (s.fc < quietSince s o on + 64) || canMove s on
          || areaOwned s o.img (imageArea s o on) then s
      else if areaGone s d o.img (imageArea s o on) then pmGiveUp s d on
      else if atBoundary s on then saveGroup s d o 1
      else pmFreeze s d)

/-- FREEZE_COMPLETE (R387, R388): the stop wave has reached everything of the group, and its state is saved as FROZEN. -/
def execFreezeComplete (d : DieId) (s : State) : Host.Outcome State Fault Refusal :=
  .next (match (s.die d).pmop with
    | none => s
    | some o =>
      let on := groupOn s d o.launch o.hdie o.group
      if o.resume || !o.freeze then s
      else
        let s := drainLeft (stopReady s d) on
        if !allStopped s on || areaOwned s o.img (imageArea s o on) then s
        else if areaGone s d o.img (imageArea s o on) then pmGiveUp s d on
        else saveGroup (on.foldl (fun s e => settleRegion s e.1) s) d o 2)

/-- PMCTL_WAIT: the load of PMCTL completes once no operation is BUSY (R312). -/
def execPmctlWait (c : CtxId) (d : DieId) (x : BitVec 5) (s : State) : Host.Outcome State Fault Refusal :=
  .next (match (s.ctx c).wait with
    | some ⟨.pmctl e r, _⟩ =>
      if e != d || r != x.toNat || (s.die d).pmstat == 1 then s else loadEnds s c r (wordOf (s.die d).pmstat)
    | _ => s)

/-! ## Resumption (R320) -/

/-- What RESUME reads of an area: the first image's header, and the images of the group that it names (R320). -/
def resumeGas (s : State) (base : Nat) : List Nat :=
  let hdie := s.seen (base + 10) 1
  base :: (match (s.die hdie).launch (s.seen (base + 4) 4) with
    | some l => rangeGas base ((geoOf l.image).size l.spq * (l.coords (s.seen (base + 24) 8)).length)
    | none => [])

/-- RESUME: the images are checked, and the group waits to be placed (R320). -/
def pmResume (s : State) (d : DieId) : State :=
  let x := s.die d
  let base := x.pmimg
  let s := settleRange s base 4096
  let launch := s.img base 4 4
  let hdie := s.img base 10 1
  let group := s.img base 24 8
  if x.pmop.isSome || !x.started then s
  else
    match (s.die hdie).launch launch with
    | none => s.modDie d (fun x => { x with pmstat := 8 })
    | some l =>
      let n := if l.gone then 0 else (l.coords group).length
      let size := (geoOf l.image).size l.spq
      let s := settleRange s base (size * n)
      if fenced s (pkgOf d) .engine base (size * max 1 n) || (List.range n).any (fun i => badImage s (base + i * size))
          || n = 0 || (List.range n).all (fun i => noImage s (base + i * size)) then
        s.modDie d (fun x => { x with pmstat := 8 })
      else
        let o : PmOp :=
          { launch := launch, hdie := hdie, group := group, img := base, freeze := false, deadline := none, started := s.fc
            resume := true, todo := (l.ranges.filter (fun r => !r.demand)).map (fun r => (r.base, r.base + r.npg * 4096)), pinned := [] }
        s.modDie d (fun x => { x with pmop := some o, pmstat := 1 })

/-- PMCTL_RESUME. -/
def execPmctlResume (d : DieId) (s : State) : Host.Outcome State Fault Refusal := .next (pmResume s d)

/-- The record of the group on the die that saved it. -/
def savedRecord (s : State) (o : PmOp) : Option Saved :=
  s.dies.findSome? (fun e => e.2.saved.find? (fun v => v.launch == o.launch && v.hdie == o.hdie && v.group == o.group))

/-- One task of a resumed group takes its spot, and every section of its image is restored there. Its resumption is an
acquire (R356). -/
def restoreTask (s : State) (d : DieId) (o : PmOp) (l : Launch) (m : Option RegionImage) (tidx : Nat) (xyz : Nat × Nat × Nat)
    (p : Spot) (bars : List Nat) : State :=
  let c := 16 * (64 * d + p.ac) + p.ctx
  let g := geoOf l.image
  let base := o.img + tidx * g.size l.spq
  let park := parkId o.launch o.hdie o.group tidx
  let record := savedRecord s o
  let old := (record.map (fun v => v.quotas.getD tidx (0, []))).getD (0, [])
  let kept := (record.bind (fun v => SMap.find v.parked tidx)).getD ⟨[], [], [], 0, [], [], 0⟩
  let quota : QuotaMap := (old.2.map (bankGa old.1)).zip (p.banks.map (bankGa (coreOf c)))
  let (s, region) : State × Option Region :=
    match m, p.base with
    | some m, some b => let r := placeRegion s d m b; (r.1, some r.2)
    | _, _ => (s, none)
  let t : Task :=
    { launch := l.num, hdie := o.hdie, group := o.group, tidx := tidx, tx := xyz.1, ty := xyz.2.1, tz := xyz.2.2, prio := l.prio
      asid := l.asid, lease := l.lease, banks := p.banks, bars := bars
      queues := qtQueues l.qtab m, region := region, lodcnt := 0, image := l.image }
  let s := s.modCtx c (fun x => { x.begin' 0 with task := some t, q := qtBindings l.qtab d, wreport := [] })
  let s := renameCtx s park c (s.ctx c).runNo
  let mem := (p.banks.zip (List.range p.banks.length)).foldl (fun m b =>
    copyRange m (base + g.spoff + 16384 * b.2) 16384 (bankGa (coreOf c) b.1)) s.mem
  let s : State := { s with mem := mem }
  let s := restoreContext s c base kept.depth
  let bind := bindHandle s d l.asid quota
  let s := restoreOpaque s c base bind kept.pushes
  let s := restoreDucats s c base
  let s := (List.range l.qtab.length).foldl (fun s e => restoreQueue s c base e) s
  let seq := (s.core (coreOf c)).ixSeq
  let s := restoreEngines s c base park bind kept
  let s : State :=
    match region with
    | none => s
    | some r =>
      let slices : List (Sa × Nat) := r.sas.zip (List.range r.sas.length)
      let mem := slices.foldl (fun m e =>
        copyRange m (base + g.saoff + saSection * e.2 + 0x81000) (2 ^ 21) (sliceGa d e.1.index 0 0)) s.mem
      let s : State := { s with mem := mem }
      let r := restoreRegion s c base g r seq kept
      s.modCtx c (fun x => { x with task := x.task.map (fun t => { t with region := some r, queues := r.resealQueues t.queues }) })
  let y := s.ctx park
  let s := s.modCtx c (fun x => { x with due := y.due, owed := y.owed, ltstat := y.ltstat, plstat := y.plstat })
  reenter (acquireCore { s with ctxs := SMap.erase s.ctxs park, cores := SMap.erase s.cores (coreOf park) } (coreOf c)) c

/-- The saved tasks of a group that a resumption places, by task index, and where each one's image stands. -/
def savedTasks (s : State) (o : PmOp) (l : Launch) : List (Nat × Nat) :=
  let n := (l.coords o.group).length
  ((List.range n).map (fun i => (i, o.img + i * (geoOf l.image).size l.spq))).filter (fun e => !noImage s e.2)

/-- The pages of every valid handle of a saved group: of its images, and of the copies kept for its engine commands. -/
def savedGroupPages (s : State) (o : PmOp) (l : Launch) : List (Nat × Nat) :=
  (savedTasks s o l).flatMap (fun e => savedPages s e.2
    ++ (match (savedRecord s o).bind (fun v => SMap.find v.parked e.1) with | some p => p.pages | none => []))

/-- A resumption makes the launch's resident ranges and the page of every valid saved handle resident and pins them;
a page that it cannot make resident is asked of system software (R277, R320). The answer says whether all are. -/
def resumeResident (s : State) (d : DieId) (o : PmOp) (l : Launch) : State × Bool :=
  let (s, todo, pins, stop) := walkResident s d l.asid l.ranges walkFuel o.todo o.pinned
  let (s, left, pins, stop) :=
    match stop, todo with
    | none, [] => walkResident s d l.asid [] walkFuel (savedGroupPages s o l) pins
    | _, _ => (s, todo, pins, stop)
  let s := s.modDie d (fun x => { x with pmop := some { o with todo := todo, pinned := pins } })
  match stop with
  | some (reason, va) => (if reason = 0 then s else requestResidency s d o.hdie l.num reason va, false)
  | none => (s, left.isEmpty)

/-- A resumption's turn: residency, then the rules of R259 with the TB condition of R320, then the restore. -/
def resumeStep (s : State) (d : DieId) (o : PmOp) : State :=
  match (s.die o.hdie).launch o.launch with
  | none => s.modDie d (fun x => { x with pmop := none, pmstat := 8 })
  | some l =>
    let xyz := l.coords o.group
    let ts := (savedTasks s o l).map (fun e => e.1)
    let at' (i : Nat) : Nat := o.img + i * (geoOf l.image).size l.spq
    if l.gone || areaGone s d o.img (xyz.length * (geoOf l.image).size l.spq) then
      o.pinned.foldl dropPin (s.modDie d (fun x => { x with pmop := none, pmstat := 8 }))
    else
    let (s, ok) := if areaOwned s o.img (xyz.length * (geoOf l.image).size l.spq) then (s, false) else resumeResident s d o l
    let pins := match (s.die d).pmop with | some p => p.pinned | none => []
    if !ok then s
    else
      let m := l.raw
      match plan s d ⟨false, l.spq, l.nbar, m, ts.map (fun i => wordOf (s.img (at' i) 0x5940 8))⟩ ts.length with
      | none => s
      | some spots =>
        let bars := (freeSlots (s.die d)).take l.nbar
        let slot (e : Nat × Nat) : Nat × BarSlot :=
          let b := o.img + 0x6500 + 16 * e.2
          (e.1, ⟨o.launch, o.hdie, o.group, s.peek b 2, s.peek (b + 2) 1, s.peek (b + 8) 8, xyz.length⟩)
        let slots := (bars.zip (List.range bars.length)).map slot
        let s := s.modDie d (fun x =>
          { x with rrptr := (spots.getLast?.map (fun p => p.ac)).getD x.rrptr
                   bars := slots.foldl (fun b e => SMap.set b e.1 e.2) x.bars })
        let s := (ts.zip spots).foldl (fun s e => restoreTask s d o l m e.1 (xyz.getD e.1 (0, 0, 0)) e.2 bars) s
        let s := modLaunch s o.hdie o.launch (fun k => { k with pins := k.pins ++ pins })
        let keep (v : Saved) : Bool := !(v.launch == o.launch && v.hdie == o.hdie && v.group == o.group)
        let dies := s.dies.map (fun e => (e.1, { e.2 with saved := e.2.saved.filter keep }))
        State.modDie { s with dies := dies } d (fun x => { x with pmop := none, pmstat := 4 })

/-! ## GROUP_PLACE (R258) -/

/-- GROUP_PLACE: the dispatcher serves the group that is next: a resumption before every unplaced group of its priority.
While a residency request or a word of its own is pending it places nothing (R258, R277). -/
def execGroupPlace (d : DieId) (s : State) : Host.Outcome State Fault Refusal :=
  .next (
    let x := s.die d
    if !x.started || x.resHold.isSome || !x.words.isEmpty then s
    else
      let best := nextLaunch x
      let resume := x.pmop.bind (fun o => if o.resume then ((s.die o.hdie).launch o.launch).map (fun l => (o, l.prio)) else none)
      match resume, best with
      | some (o, p), some b => if p < b.prio then serveLaunch s d b.num else resumeStep s d o
      | some (o, _), none => resumeStep s d o
      | none, some b => serveLaunch s d b.num
      | none, none => s)

end Sys2Proof.Machine
end

