-- ==== Sys2Proof/Machine/LeaseAgent.lean ====
section
/-! DEFINITION. The lease agent (R278, R279), the answer to a residency request (R277), page migration (R286, R287),
the migration agent's dirty-bitmap reads (R391), the hotness table's clear (R285) and the waiting loads of CCFLUSH
(R401). -/

namespace Sys2Proof.Machine

/-! ## Fills -/

/-- A finished fill gives its result to LTSTAT, unless a later one of the context has finished before it; the context's earlier ones
that are still pending will give none (R278). -/
def fillDone (s : State) (d : DieId) (f : Fill) (code : Nat) : State :=
  match f.who with
  | none => s.modDie d (fun x => { x with portLt := code })
  | some c =>
    let s := { s with dies := s.dies.map (fun e => (e.1, { e.2 with fills := e.2.fills.map (fun g =>
      if g.who = some c && decide (g.num < f.num) then { g with late := true } else g) })) }
    if f.late then s else s.modCtx c (fun x => { x with ltstat := code })

/-- LTFILL (R278): the oldest fill asked of the die walks the page table and leaves its result in LTSTAT. It waits while a
host owns a region that the walk reads (R284). -/
def fillStep (s : State) (d : DieId) : State :=
  match (s.die d).fills with
  | [] => s
  | f :: rest =>
    if (firstOwned s (walkGas s d f.asid f.va)).isSome then s
    else
      let s := recallReads s (64 * d) (walkGas s d f.asid f.va)
      let r := fillPage (s.modDie d (fun x => { x with fills := rest })) d f.asid f.va
      fillDone r.1 d f r.2

/-- LTFILL. -/
def execLtfill (d : DieId) (s : State) : Host.Outcome State Fault Refusal := .next (fillStep s d)

/-- A store to LTFILL by a context, for its job, or through a management port: a value with other bits set is ignored (Table
12.3). DESIGN CHOICE (log 132): the port has no job of its own, and the model fills for job 0. -/
def askFill (s : State) (d : DieId) (who : Option CtxId) (v : Nat) : State :=
  if v % 4096 != 0 || decide (2 ^ 56 ≤ v) then s
  else
    let n := s.dies.foldl (fun n e => e.2.fills.foldl (fun n f => if f.who = who then max n (f.num + 1) else n) n) 0
    let asid := match who with | some c => (s.ctx c).sys.asid | none => 0
    s.modDie d (fun x => { x with fills := x.fills ++ [⟨who, n, v, asid, false⟩] })

/-- The context's last fill has still to be made, by any die: LTSTAT is the context's, not a die's. -/
def fillPending (s : State) (c : CtxId) : Bool := s.dies.any (fun d => d.2.fills.any (fun f => f.who == some c && !f.late))

/-- LTSTAT: the waiting load of a context completes once the context's last fill has finished (R278). -/
def execLtstat (c : CtxId) (x : BitVec 5) (s : State) : Host.Outcome State Fault Refusal :=
  .next (match (s.ctx c).wait with
    | some ⟨.ltstat _ r, _⟩ =>
      if r != x.toNat || fillPending s c then s else loadEnds s c r (wordOf (s.ctx c).ltstat)
    | _ => s)

/-! ## RESCTL (R277) -/

/-- The answer clears the request. -/
def clearRequest (s : State) (d : DieId) : State :=
  s.modDie d (fun x => { x with resva := 0, resreason := 0, resln := 0, resHold := none })

/-- The resumption that a request belongs to, if it is not a launch of this die that still has to become resident. -/
def heldResume (s : State) (d : DieId) (home : DieId) (n : Nat) : Option PmOp :=
  let unplaced := home == d && (match (s.die d).launch n with | some l => !l.resident | none => false)
  if unplaced then none else (s.die d).pmop.filter (fun o => o.resume && o.hdie == home && o.launch == n)

/-- RETRY: the walk is repeated from the failing page. -/
def resRetry (s : State) (d : DieId) : State :=
  match (s.die d).resHold with
  | none => s
  | some (home, n) =>
    let s := clearRequest s d
    match heldResume s d home n, (s.die home).launch n with
    | some o, some l => (resumeResident s d o l).1
    | none, some l => (launchResident s d l).1
    | _, none => s

/-- RESCTL_RETRY. -/
def execResctlRetry (d : DieId) (s : State) : Host.Outcome State Fault Refusal := .next (resRetry s d)

/-- ABANDON: the launch ends with status ENDED. A resumption is given up: its own pins drop and PMCTL reads IDLE (log 41), and the
launch's pins drop with its last task (R277). -/
def resAbandon (s : State) (d : DieId) : State :=
  match (s.die d).resHold with
  | none => s
  | some (home, n) =>
    let s := clearRequest s d
    match heldResume s d home n with
    | some o => abandonLaunch (o.pinned.foldl dropPin (s.modDie d (fun x => { x with pmop := none, pmstat := 0 }))) home n
    | none => endLaunch s home n 2

/-- RESCTL_ABANDON. -/
def execResctlAbandon (d : DieId) (s : State) : Host.Outcome State Fault Refusal := .next (resAbandon s d)

/-! ## Page migration (R286) -/

/-- A frame that a migration may name: aligned to its size, in spaces 0 and 1, inside the die's extent. -/
def frameOk (s : State) (g n : Nat) : Bool :=
  decide (g < 2 ^ 56) && g % n == 0 && decide (gaSpace g ≤ 1)
    && decide (gaOff g + n ≤ spaceExtent (s.die (gaDie g)) (gaSpace g))

/-- GO: a bad range, or a migration under way, leaves MCTL reading BOUNDS; else every pending write to the source
reaches its home and the copy begins. A page has one of the three sizes below 1 GiB. -/
def migrateGo (s : State) (d : DieId) : State :=
  let x := s.die d
  if x.mstate != 0 || !(x.mlen == 2 ^ 12 || x.mlen == 2 ^ 16 || x.mlen == 2 ^ 21)
      || !frameOk s x.msrc x.mlen || !frameOk s x.mdst x.mlen then
    s.modDie d (fun x => { x with mcode := 0x13 })
  else (settleRange s x.msrc x.mlen).modDie d (fun x => { x with mstate := 1, mcode := 0, mcopied := 0 })

/-- MCTL_GO. -/
def execMctlGo (d : DieId) (s : State) : Host.Outcome State Fault Refusal := .next (migrateGo s d)

/-- The copy has lines left. -/
def migrating (s : State) (d : DieId) : Bool :=
  let x := s.die d
  x.mstate != 0 && decide (x.mcopied * 128 < x.mlen)

/-- The copy engine copies the next line; one that cannot be read or written leaves its code in MCTL. The directory
keeps the source as the home, and the destination line has no copies anywhere. It waits for a region that a host owns
(R284). -/
def migrateLine (s : State) (d : DieId) : State :=
  if !migrating s d then s
  else
    let x := s.die d
    let src := x.msrc + 128 * x.mcopied
    let dst := x.mdst + 128 * x.mcopied
    let failed (s : State) (code : Nat) : State :=
      s.modDie d (fun x => { x with mcode := if x.mcode = 0 then code else x.mcode, mcopied := x.mcopied + 1 })
    if procOwned s src || procOwned s dst then s
    else
    match agentFetch s d src 128 with
    | (s, .error (code, _)) => failed s code
    | (s, .ok _) =>
      if fenced s (pkgOf d) .engine dst 128 then failed s 0x51
      else
        let s := settleRange s dst 128
        (s.put dst (s.bytesAt src 128)).modDie d (fun x => { x with mcopied := x.mcopied + 1 })

/-- MCTL_WAIT: while the copy runs it copies its next line (log 42); a load of MCTL completes once it has ended. -/
def execMctlWait (c : CtxId) (d : DieId) (x : BitVec 5) (s : State) : Host.Outcome State Fault Refusal :=
  .next (
    if migrating s d then migrateLine s d
    else
      match (s.ctx c).wait with
      | some ⟨.mctl e r, _⟩ => if e != d || r != x.toNat then s else loadEnds s c r (wordOf (s.die d).mcode)
      | _ => s)

/-! ## In flight under a lease-table entry (R120) -/

/-- Some request in flight was issued through a handle, or is a buffered store, that meets a condition: buffered stores,
loads that wait with their requests made, unfinished copies and pushes. An index-engine command has none between its steps
(log 110). -/
def inFlight (s : State) (byHandle : DieId → Handle → Bool) (byStore : DieId → BufStore → Bool) : Bool :=
  let ctx (c : CtxId) (x : Ctx) : Bool :=
    x.sbuf.any (byStore (dieOf c)) || x.pushes.any (fun p => p.hcopy.v && !p.dead && byHandle (dieOf c) p.hcopy)
      || (match x.loading with | some h => byHandle (dieOf c) h | none => false)
  let side (k : CoreId) (a : CopySide) : Bool := match a.h with | some h => byHandle (dieOfCore k) h | none => false
  let core (k : CoreId) (x : Core) : Bool := x.copies.any (fun m => side k m.src || side k m.dst)
  s.ctxs.any (fun e => ctx e.1 e.2) || s.cores.any (fun e => core e.1 e.2)

/-- A page of a handle or entry meets a frame. -/
def meetsFrame (gbase psize lo n : Nat) : Bool := decide (gbase < lo + n) && decide (lo < gbase + pageBytes psize)

/-- No lease-table entry of the domain maps the source, every request issued under one has completed, and so has the
copy. Pending updates hold nothing back: END merges them. -/
def endReady (s : State) (d : DieId) : Bool :=
  let lo := (s.die d).msrc
  let n := (s.die d).mlen
  let within (g : Nat) : Bool := decide (lo ≤ g) && decide (g < lo + n)
  !migrating s d && !s.dies.any (fun e => e.2.leases.any (fun m => meetsFrame m.gbase m.psize lo n))
    && !inFlight s (fun _ h => meetsFrame h.gbase h.psize lo n) (fun _ b => b.parts.any (fun p => within p.1))

/-- END: forwarding stops and the source is retired. What is still held back from the source reaches its home first;
nothing else happens while requests or the copy are outstanding. -/
def migrateEnd (s : State) (d : DieId) : State :=
  let s := if (s.die d).mstate != 0 && !migrating s d then settleRange s (s.die d).msrc (s.die d).mlen else s
  if (s.die d).mstate != 0 && endReady s d then s.modDie d (fun x => { x with mstate := 0, mcopied := 0 }) else s

/-- MCTL_END. -/
def execMctlEnd (d : DieId) (s : State) : Host.Outcome State Fault Refusal := .next (migrateEnd s d)

/-! ## The migration agent (R391) -/

/-- The GA of the word that controls dirty tracking of the job DASID on a die (R389). -/
def dasidGa (s : State) (d : DieId) : Nat := (s.die d).asidbase + 16 * (s.die d).dasid + 8

/-- The dirty bitmap of the job DASID on a die: base and granule shift, when tracking is on. -/
def dirtyMap (s : State) (d : DieId) : Option (Nat × Nat) :=
  let w1 := s.seen (dasidGa s d) 8
  if bitOf w1 63 then some (bitsOf w1 12 44 * 4096, if bitOf w1 62 then 21 else 12) else none

/-- DCLRV: every write permission on the lines of the 64 granules is revoked, M and O copies written back and E and M
copies left S in the directory and the L1s; then the word is returned and cleared, as an access by the home that recalls pending
updates. With tracking off it reads 0. -/
def dirtyTake (s : State) (d : DieId) : State × Nat :=
  match dirtyMap s d with
  | none => (s, 0)
  | some (base, sh) =>
    let w := (s.die d).dclr
    let at' := base + 8 * w
    let inside (line : Nat) : Bool :=
      let g := line * 128
      gaDie g == d && decide (gaSpace g ≤ 1) && (gaSpace g * 2 ^ 37 + gaOff g) / 2 ^ sh / 64 == w
    let calm (e : DirLine) : DirLine := match e.st with | .I => e | .S => e | _ => ⟨.S, none, e.dies⟩
    let s := ((s.dirty.map (fun e => e.1)).filter inside).foldl writeBack s
    let s := { s with dir := s.dir.map (fun (e : Nat × DirLine) => if inside e.1 then (e.1, calm e.2) else e)
                      cores := s.cores.map (fun (e : Nat × Core) =>
                        (e.1, { e.2 with l1 := e.2.l1.map (fun (l : Nat × Bool) => if inside l.1 then (l.1, false) else l) })) }
    let s := claimLines s at' 8
    (s.poke at' 8 0, s.peek at' 8)

/-- What DCLRV reads: the word that controls tracking, and the bitmap word that it returns. -/
def dclrvGas (s : State) (d : DieId) : List Nat :=
  dasidGa s d :: (match dirtyMap s d with | some (base, _) => [base + 8 * (s.die d).dclr] | none => [])

/-- The agent's access meets a region that a host owns, and waits (R284). -/
def dclrvOwned (s : State) (d : DieId) : Bool := (firstOwned s (dclrvGas s d)).isSome

/-- DCLRV: the waiting load of a context completes. -/
def execDclrv (c : CtxId) (d : DieId) (x : BitVec 5) (s : State) : Host.Outcome State Fault Refusal :=
  .next (match (s.ctx c).wait with
    | some ⟨.dclrv e r, _⟩ =>
      if e != d || r != x.toNat || dclrvOwned s d then s else let t := dirtyTake s d; loadEnds t.1 c r (wordOf t.2)
    | _ => s)

/-! ## Hotness table, counter cache -/

/-- A store of 1 to HCTL clears the hotness table and its count (R285). -/
def hotClear (s : State) (k : CoreId) : State := s.modCore k (fun x => { x with hot := [], hctl := 0 })

/-- HCTL_CLEAR. -/
def execHctlClear (k : CoreId) (s : State) : Host.Outcome State Fault Refusal := .next (hotClear s k)

/-- CCFLUSH_WAIT: the waiting load of CCFLUSH returns 0 once every entry has written (R401). -/
def execCcflushWait (c : CtxId) (k : CoreId) (x : BitVec 5) (s : State) : Host.Outcome State Fault Refusal :=
  .next (match (s.ctx c).wait with
    | some ⟨.ccflush e r, _⟩ => if e != k || r != x.toNat || ccPending s k then s else loadEnds s c r 0
    | _ => s)

/-! ## PLPUSH and PLSTAT (R331) -/

/-- A store to PLPUSH by a context, or through the die's management port, joins the operations of the Shawm that holds the pool
record. -/
def plPush (s : State) (d : DieId) (who : Option CtxId) (v : Nat) : State :=
  match who with
  | some c => askPool s ⟨gaOf (s.die d).plrec, some v, 1, .plpush c (pushNumber s c), (s.ctx c).sys.asid⟩
  | none => askPool s ⟨gaOf (s.die d).plrec, some v, 1, .port d (storerNumber s (.port d 0)), 0⟩

/-- PLPUSH. -/
def execPlpush (c : CtxId) (d : DieId) (v : Word) (s : State) : Host.Outcome State Fault Refusal :=
  .next (plPush s d (some c) v.toNat)

/-- A push of the context has not been performed. -/
def pushPending (s : State) (c : CtxId) : Bool := pushNumber s c != 0

/-- PLSTAT: the waiting load of a context completes once its last push has been performed. -/
def execPlstat (c : CtxId) (d : DieId) (x : BitVec 5) (s : State) : Host.Outcome State Fault Refusal :=
  .next (match (s.ctx c).wait with
    | some ⟨.plstat e r, _⟩ =>
      if e != d || r != x.toNat || pushPending s c then s else loadEnds s c r (wordOf (s.ctx c).plstat)
    | _ => s)

end Sys2Proof.Machine
end

