-- ==== Sys2Proof/Machine/Shoot.lean ====
section
/-! DEFINITION. Shoot-downs: HSHOOT (R125, R126, R308) and VSHOOT (R180), in the live machine and in saved images
(R319). -/

namespace Sys2Proof.Machine

/-! ## HSHOOT -/

/-- Bits [9:0] and [63:56] are 0 and the base is aligned to the named size (R125). -/
def shootOperandOk (v : Nat) : Bool := v % 2 ^ 10 == 0 && decide (v < 2 ^ 56) && bitsOf v 12 44 * 4096 % pageBytes (bitsOf v 10 2) == 0

/-- The lease-table entries of the domain for a translation, by die and entry. -/
def shotEntries (s : State) (asid va psize : Nat) : List (Nat × Nat) :=
  s.dies.flatMap (fun e => (e.2.leases.filter (fun m => m.asid == asid && m.va == va && m.psize == psize)).map (fun m => (e.1, m.id)))

/-- The handle without V, when it was made from one of the entries of its die. -/
def Handle.shoot (es : List (Nat × Nat)) (d : DieId) (h : Handle) : Handle :=
  if h.v && es.contains (d, h.entry) then { h with v := false } else h

/-- A context's handle registers and the handle copies of its streams and fibres, those that exposed mode has still to write
among them. A push already issued keeps its own
copy and completes (R157). -/
def Ctx.shoot (es : List (Nat × Nat)) (d : DieId) (c : Ctx) : Ctx :=
  { c with h := c.h.map (fun e => (e.1, e.2.shoot es d))
           s := c.s.map (fun e => (e.1, { e.2 with hcopy := e.2.hcopy.shoot es d }))
           pend := c.pend.map (fun q => match q.wr with
             | .h r h => { q with wr := .h r (h.shoot es d) }
             | .f r v => { q with wr := .f r { v with ph := v.ph.shoot es d, ch := v.ch.shoot es d, vh := v.vh.shoot es d } }
             | _ => q)
           f := c.f.map (fun e => (e.1, { e.2 with ph := e.2.ph.shoot es d, ch := e.2.ch.shoot es d, vh := e.2.vh.shoot es d })) }

/-- An index-engine command loses the handle and ends at its next request (R308). DESIGN CHOICE (log 123): RGATH has no data
handle; it ends the same way, with EVA 0, when a row still to be appended was translated by a removed entry. -/
def IxCmd.shoot (es : List (Nat × Nat)) (d : DieId) (m : IxCmd) : IxCmd :=
  let row : IxRow → Bool | .row _ _ n => es.contains (d, n) | _ => false
  { m with dh := m.dh.shoot es d, ih := m.ih.shoot es d
           err := if m.kind = 3 && (m.rows.drop m.pos).any row then firstErr m.err (some (0x12, 0)) else m.err }

/-- The commands of a core's index engine. -/
def Core.shoot (es : List (Nat × Nat)) (d : DieId) (k : Core) : Core := { k with ix := k.ix.map (IxCmd.shoot es d) }

/-- A handle kept of a saved task loses V as its record in the image does: it is of the same page and job (R319). -/
def Handle.shootSaved (va psize : Nat) (h : Handle) : Handle :=
  if h.v && h.pbase == va && h.psize == psize then { h with v := false } else h

/-- What is kept of a saved task, of the job that is shot down. -/
def Parked.shoot (asid va psize : Nat) (p : Parked) : Parked :=
  let side (a : CopySide) : CopySide := { a with h := a.h.map (Handle.shootSaved va psize) }
  { p with copies := p.copies.map (fun m => if m.asid = asid then { m with src := side m.src, dst := side m.dst } else m)
           pushes := p.pushes.map (fun u => if u.1.asid = asid then ({ u.1 with hcopy := u.1.hcopy.shootSaved va psize }, u.2) else u)
           ix := p.ix.map (fun m =>
             if m.asid = asid then { m with dh := m.dh.shootSaved va psize, ih := m.ih.shootSaved va psize } else m) }

/-- The image areas recorded on the dies of the domain: the base of each saved task (R319). -/
def savedBases (s : State) : List Nat :=
  s.dies.flatMap (fun e => e.2.saved.flatMap (fun v => (List.range v.tasks).map (fun i => v.img + i * v.size)))

/-- Clears V in the handle records of one saved image, of the same job and page. -/
def shootImage (asid va psize : Nat) (s : State) (base : Nat) : State :=
  if s.img base 8 2 % 2 ^ 15 != asid then s
  else
    handleOffsets.foldl (fun s o =>
      let h := savedHandle s base o
      if h.v && h.pbase == va && h.psize == psize then s.poke (base + o + 8) 8 (s.img base (o + 8) 8 - 1) else s) s

/-- The removal: the entries leave every die and every handle made from them loses V. -/
def shootDown (s : State) (asid va psize : Nat) : State :=
  let es := shotEntries s asid va psize
  let kept (v : Saved) : Saved := { v with parked := v.parked.map (fun p => (p.1, p.2.shoot asid va psize)) }
  let s := { s with dies := s.dies.map (fun e =>
                      (e.1, { e.2 with leases := e.2.leases.filter (fun m => !es.contains (e.1, m.id)), saved := e.2.saved.map kept }))
                    ctxs := s.ctxs.map (fun e => (e.1, e.2.shoot es (dieOf e.1)))
                    cores := s.cores.map (fun e => (e.1, e.2.shoot es (dieOfCore e.1))) }
  (savedBases s).foldl (shootImage asid va psize) s

/-- Requests issued under removed entries are in flight. -/
def shotBusy (s : State) (es : List (Nat × Nat)) : Bool :=
  inFlight s (fun d h => es.contains (d, h.entry)) (fun d b => b.entries.any (fun n => es.contains (d, n)))

/-- HSHOOT ends once no request under the entries is in flight; its completion is an acquire. -/
def shootWait (s : State) (es : List (Nat × Nat)) : State :=
  if shotBusy s es then waitFor s (.shoot es) else retire (acquire s) 4

/-- HSHOOT (R125). Pending deltas merge with it: an update made under a removed entry has then performed (R126). -/
def execHshoot (p : Pred) (a : BitVec 5) (s : State) : Host.Outcome State Fault Refusal :=
  .next (word s p (fun s => privileged s (.hshoot p a) (fun s =>
    let v := (s.x a).toNat
    match s.me.wait with
    | some ⟨.shoot es, _⟩ => shootWait s es
    | _ =>
      if !shootOperandOk v then trap s 0x13 v
      else
        release s (fun s =>
          let va := bitsOf v 12 44 * 4096
          let es := shotEntries s s.me.sys.asid va (bitsOf v 10 2)
          shootWait (shootDown (mergeEvery s) s.me.sys.asid va (bitsOf v 10 2)) es))))

/-! ## VSHOOT -/

/-- Accesses through CLB entries of the volume are under way: a word has its frame and has still to act on it, or a
walk is still reading the tree. -/
def volumeBusy (s : State) (ga : Nat) : Bool :=
  s.ctxs.any (fun e => match e.2.reply with | some (0, _, g) => g == ga | _ => false)
    || s.dies.any (fun e => e.2.walks.any (fun w => w.desc == ga))

/-- Closes the volume records of one saved image that were opened on the descriptor. -/
def closeImage (ga : Nat) (s : State) (base : Nat) : State :=
  (List.range 4).foldl (fun s i =>
    let o := 0x1000 + 160 * i
    let b := s.img base (o + 136) 1
    if bitOf b 0 && s.img base (o + 128) 8 == ga then s.poke (base + o + 136) 1 (b - 1) else s) s

/-- The CLB entries of the volume leave every CLB; y registers opened on it close, live or saved. -/
def volumeDown (s : State) (ga : Nat) : State :=
  let s := clbDrop s (fun m => m.desc == ga)
  let s := { s with ctxs := s.ctxs.map (fun e => (e.1, { e.2 with y := e.2.y.filter (fun v => v.2.ga != ga) })) }
  (savedBases s).foldl (closeImage ga) s

/-- VSHOOT ends once no access to the volume is under way; its completion is an acquire. -/
def volumeWait (s : State) (ga : Nat) : State :=
  if volumeBusy s ga then waitFor s (.vshoot ga) else retire (acquire (clbDrop s (fun m => m.desc == ga))) 4

/-- VSHOOT (R180). Pending deltas merge with it: an UPDC made through a removed entry has then performed. -/
def execVshoot (p : Pred) (a : BitVec 5) (s : State) : Host.Outcome State Fault Refusal :=
  .next (word s p (fun s => privileged s (.vshoot p a) (fun s =>
    let v := (s.x a).toNat
    match s.me.wait with
    | some ⟨.vshoot ga, _⟩ => volumeWait s ga
    | _ => if 2 ^ 56 ≤ v then trap s 0x13 v else release s (fun s => volumeWait (volumeDown (mergeEvery s) v) v))))

end Sys2Proof.Machine
end

