-- ==== Sys2Proof/Machine/Agents.lean ====
section
/-! DEFINITION. The agents in space 7 of a die (R29, R30): what a load of each register returns and what a store to it
does, the stop of the fabric (R399), the trace agent (R395) and the rows that are writes of agent registers. -/

namespace Sys2Proof.Machine

/-! ## Stopping the fabric (R399) -/

/-- The region of a number placed on a die, with its context. -/
def regionNumbered (s : State) (d : DieId) (n : Nat) : Option (CtxId × Region) :=
  (tasksOn s d).findSome? (fun e => match e.2.region with | some r => if r.regno = n then some (e.1, r) else none | none => none)

/-- Every region of the die but the one of number `keep` may fire again. -/
def releaseRegions (s : State) (d : DieId) (keep : Option Nat) : State :=
  (tasksOn s d).foldl (fun s e =>
    match e.2.region with
    | some r => if some r.regno = keep then s else s.modCtx e.1 (fun x => x.setRegion { r with stopped := false })
    | none => s) s

/-- A store to FSTOPRQ: arming waits for the boundary of the region named, and a number that no placed region holds has
lapsed; clearing ARM lets the region fire again. -/
def stopRequest (s : State) (d : DieId) (v : Nat) : State :=
  let arm := bitOf v 63
  let n := bitsOf v 0 16
  let s := releaseRegions s d (if arm then some n else none)
  let stat := if !arm then 0 else match regionNumbered s d n with
                                  | some (_, r) => if r.stopped then 2 else 1
                                  | none => 3
  s.modDie d (fun x => { x with fsarm := arm, fsreg := n, fstat := stat })

/-- FSTOPRQ. -/
def execFstoprq (d : DieId) (v : Word) (s : State) : Host.Outcome State Fault Refusal := .next (stopRequest s d v.toNat)

/-- A region's reconfiguration boundary: no token held, no SA command queued or started, no CTR in an activation. -/
def Region.boundary (r : Region) (qs : SMap Queue) : Bool :=
  !r.holdsToken qs && r.sas.all (fun a => a.queue.isEmpty)
    && r.sites.all (fun e => !(cfgOp e.2.cfg == 0x65 && e.2.sub == 1 && decide (e.2.k < e.2.n)))

/-- FSTAT as it reads: a request whose region has left its placement has lapsed. -/
def fstatOf (s : State) (d : DieId) : Nat :=
  let x := s.die d
  if x.fsarm && (regionNumbered s d x.fsreg).isNone then 3 else x.fstat

/-- FABRIC_STOP: the armed region stops when it stands at its boundary. -/
def fabricStopStep (s : State) (d : DieId) : State :=
  let x := s.die d
  if !x.fsarm || x.fstat != 1 then s
  else
    match regionNumbered s d x.fsreg with
    | none => s.modDie d (fun x => { x with fstat := 3 })
    | some (c, r) =>
      let qs := match (s.ctx c).task with | some t => t.queues | none => []
      if r.boundary qs then (s.modCtx c (fun y => y.setRegion { r with stopped := true })).modDie d (fun x => { x with fstat := 2 })
      else s

/-- FABRIC_STOP. -/
def execFabricStop (d : DieId) (s : State) : Host.Outcome State Fault Refusal := .next (fabricStopStep s d)

/-! ## Trace agent (R395, R396) -/

/-- A store to TRBASE sets the buffer and restarts the count of TRHEAD. -/
def setTrbase (s : State) (d : DieId) (v : Nat) : State := s.modDie d (fun x => { x with trbase := gaOf v, trhead := 0 })

/-- TRBASE_WRITE. -/
def execTrbaseWrite (d : DieId) (v : Word) (s : State) : Host.Outcome State Fault Refusal := .next (setTrbase s d v.toNat)

/-- TRSIZE: a power of two from 4 KiB to 1 GiB, else 0. -/
def traceSize (v : Nat) : Nat := if (List.range 19).any (fun i => v == 2 ^ (12 + i)) then v else 0

/-! ## Reading -/

/-- What a load of an agent's register meets: a value, or a wait (Table 11.7). -/
inductive AgentVal
  | val (v : Nat)
  | wait (w : Wait)
deriving DecidableEq, Repr

/-- A register of access core k at an offset from its base (Table 1.11). `x` is the register the load writes. -/
def coreRead (s : State) (k : CoreId) (off x : Nat) : AgentVal :=
  let q := s.core k
  if off < 0x400 then .val (if off % 16 = 0 then (q.chan (off / 16)).addr else chanWord1 s k (off / 16))
  else if 0x800 ≤ off && off < 0xC00 then
    match SMap.find q.hot ((off - 0x800) / 16) with
    | none => .val 0
    | some w => .val (if off % 16 = 0 then 2 ^ 63 + w.win * 2 ^ 21 + w.asid else w.starve * 2 ^ 32 + w.elem)
  else
    match off with
    | 0xC00 => .val q.hctl
    | 0xC40 => .val q.ixrows
    | 0xC48 => .val q.ixnull
    | 0xC50 => .val q.ixoob
    | 0xC58 => .val q.ixrreq
    | 0xC60 => .val q.ixrstl
    | 0xC68 => .val q.ixnz
    | 0xC80 => if ccPending s k then .wait (.ccflush k x) else .val 0
    | 0xC88 => .val q.ccerrga
    | 0xC90 => .val q.cclost
    | _ => .val 0

/-- The Purser agent answers on die 0 of an L9-P only (R29, R414). -/
def purserHere (s : State) (d : DieId) : Bool := d % 4 == 0 && !(s.pkg (pkgOf d)).fuses.lone.getLsbD 0

/-- A register of the Purser agent (Table 25.2). -/
def purserRead (s : State) (p : PkgId) (off : Nat) : Nat :=
  let k := s.pkg p
  match off with
  | 0x000 => k.stage + k.personality * 2 ^ 4 + k.failcode * 2 ^ 8
  | 0x008 => k.diemap.toNat
  | 0x010 => SMap.getD k.acmap 0 0
  | 0x018 => SMap.getD k.acmap 1 0
  | 0x020 => SMap.getD k.acmap 2 0
  | 0x028 => SMap.getD k.acmap 3 0
  | 0x030 => SMap.getD k.parmap 0 0
  | 0x038 => SMap.getD k.parmap 1 0
  | 0x040 => SMap.getD k.parmap 2 0
  | 0x048 => SMap.getD k.parmap 3 0
  | 0x050 => k.evbase
  | 0x058 => k.evhead
  | 0x060 => k.fwsvn
  | _ => 0

/-- A register of an agent of a die at an offset from 0x10_0000 (Tables 12.3, 16.2, 18.2, 21.4, 23.2, 24.1, 25.2).
Write-only and unassigned registers read 0 (Table 1.12). -/
def dieRead (s : State) (c : CtxId) (d : DieId) (off x : Nat) : AgentVal :=
  let k := s.die d
  if 0x60000 ≤ off then .val (if purserHere s d then purserRead s (pkgOf d) (off - 0x60000) else 0)
  else
    match off with
    | 0x00008 => if fillPending s c then .wait (.ltstat d x) else .val (s.ctx c).ltstat
    | 0x00010 => .val (leaseOcc k)
    | 0x00018 => .val k.asidbase
    | 0x00020 => .val k.rotbase
    | 0x00028 => .val (k.resva + k.resreason)
    | 0x00030 => .val k.resln
    | 0x00040 => .val k.msrc
    | 0x00048 => .val k.mdst
    | 0x00050 => .val k.mlen
    | 0x00058 => if migrating s d then .wait (.mctl d x) else .val k.mcode
    | 0x10020 => .val (pmisz s d)
    | 0x10028 => if k.pmstat = 1 then .wait (.pmctl d x) else .val k.pmstat
    | 0x10030 => .val k.deftvec
    | 0x20010 => if pushPending s c then .wait (.plstat d x) else .val (s.ctx c).plstat
    | 0x20018 => .val k.vlost
    | 0x20020 => .val k.vlostga
    | 0x20028 => .val k.shwalk
    | 0x20030 => .val k.shalloc
    | 0x20038 => .val k.shlose
    | 0x30000 => .val k.hss
    | 0x30008 => .val k.bundles.length
    | 0x30010 => .val k.ctcap
    | 0x30018 => .val k.comp.length
    | 0x30020 => .val k.rscap
    | 0x30028 => .val k.usedSlots.length
    | 0x30030 => .val k.vfetch
    | 0x30038 => .val k.cscrub
    | 0x40010 => .wait (.dclrv d x)
    | 0x50008 => .val k.trsize
    | 0x50010 => .val k.trhead
    | 0x50028 => .val k.trdrop
    | 0x50030 => .val k.trunsnk
    | 0x50038 => .val (s.fc % 2 ^ 64)
    | 0x50048 => .val (fstatOf s d)
    | _ => .val 0

/-- A register in space 7 of a die. -/
def agentRead (s : State) (c : CtxId) (d : DieId) (off x : Nat) : AgentVal :=
  if off < 0x40000 then coreRead s (64 * d + off / 0x1000) (off % 0x1000) x
  else if off < 0x100000 then .val 0
  else dieRead s c d (off - 0x100000) x

/-- A load of the register acquires what it counts: TRHEAD the records, EVHEAD the event records (R396, R408). -/
def agentAcquires (off : Nat) : Bool := off == 0x150010 || off == 0x160058

/-! ## Writing -/

/-- Registers that only level M writes (Tables 12.3, 16.2, 25.2). -/
def mRegisters : List Nat := [0x100018, 0x100020, 0x110030, 0x160050]

/-- Registers that no store writes. -/
def readOnlyRegisters : List Nat :=
  [0x100008, 0x100010, 0x100028, 0x100030, 0x110020, 0x120010, 0x120020, 0x130000, 0x130008, 0x130010, 0x130018,
   0x130020, 0x130028, 0x140010, 0x150010, 0x150038, 0x150048, 0x160000, 0x160008, 0x160010, 0x160018, 0x160020,
   0x160028, 0x160030, 0x160038, 0x160040, 0x160048, 0x160058, 0x160060]

/-- Whether a store at privilege S traps PRIV (Table 1.12): a read-only register, or one that M writes. A window of the
Purser agent that is unassigned names no register. -/
def storePriv (s : State) (d : DieId) (off : Nat) : Bool :=
  if off < 0x40000 then let o := off % 0x1000; (decide (0x800 ≤ o) && decide (o < 0xC00)) || o == 0xC88
  else (readOnlyRegisters.contains off || mRegisters.contains off) && (decide (off < 0x160000) || purserHere s d)

/-- A plain register takes the value written: its reserved bits are not kept. -/
def plainWrite (s : State) (d : DieId) (off v : Nat) : State :=
  let g := gaOf v
  match off with
  | 0x100040 => s.modDie d (fun x => { x with msrc := g })
  | 0x100048 => s.modDie d (fun x => { x with mdst := g })
  | 0x100050 => s.modDie d (fun x => { x with mlen := v })
  | 0x110000 => s.modDie d (fun x => { x with pmlnch := v % 2 ^ 32 })
  | 0x110008 => s.modDie d (fun x => { x with pmgidx := v % 2 ^ 48 })
  | 0x110010 => s.modDie d (fun x => { x with pmimg := g })
  | 0x110018 => s.modDie d (fun x => { x with pmdl := v % 2 ^ 32 })
  | 0x120000 => s.modDie d (fun x => { x with plrec := v })
  | 0x140000 => s.modDie d (fun x => { x with dasid := v % 2 ^ 15 })
  | 0x140008 => s.modDie d (fun x => { x with dclr := v % 2 ^ 32 })
  | 0x150008 => s.modDie d (fun x => { x with trsize := traceSize v })
  | 0x150018 => s.modDie d (fun x => { x with trtail := v })
  | 0x150020 => s.modDie d (fun x => { x with tren := bitOf v 0, trstop := bitOf v 1, trn := bitsOf v 16 16 })
  | _ => s

/-- The registers that level M writes: tables are aligned to 4 KiB, the event ring to 64 KiB. -/
def mWrite (s : State) (d : DieId) (off v : Nat) : State :=
  match off with
  | 0x100018 => s.modDie d (fun x => { x with asidbase := gaOf v / 4096 * 4096 })
  | 0x100020 => s.modDie d (fun x => { x with rotbase := gaOf v / 4096 * 4096 })
  | 0x110030 => s.modDie d (fun x => { x with deftvec := v })
  | 0x160050 => if purserHere s d then s.modPkg (pkgOf d) (fun k => { k with evbase := gaOf v / 65536 * 65536 }) else s
  | _ => s

/-- A store of any value to a saturating counter clears it (R307, R331, R371, R395, R401). -/
def clearCounter (s : State) (d : DieId) (off : Nat) : State :=
  if off < 0x40000 then
    s.modCore (64 * d + off / 0x1000) (fun k =>
      match off % 0x1000 with
      | 0xC40 => { k with ixrows := 0 }
      | 0xC48 => { k with ixnull := 0 }
      | 0xC50 => { k with ixoob := 0 }
      | 0xC58 => { k with ixrreq := 0 }
      | 0xC60 => { k with ixrstl := 0 }
      | 0xC68 => { k with ixnz := 0 }
      | 0xC90 => { k with cclost := 0 }
      | _ => k)
  else
    s.modDie d (fun k =>
      match off with
      | 0x120018 => { k with vlost := 0 }
      | 0x120028 => { k with shwalk := 0 }
      | 0x120030 => { k with shalloc := 0 }
      | 0x120038 => { k with shlose := 0 }
      | 0x130030 => { k with vfetch := 0 }
      | 0x150028 => { k with trdrop := 0 }
      | 0x150030 => { k with trunsnk := 0 }
      | _ => k)

/-- COUNTER_CLEAR. -/
def execCounterClear (d : DieId) (off : Nat) (s : State) : Host.Outcome State Fault Refusal := .next (clearCounter s d off)

/-- A store to PMCTL; values other than 1, 2 and 3 are ignored (Table 16.2). -/
def pmctlStore (s : State) (d : DieId) (v : Nat) : State :=
  match v with
  | 1 => pmBegin s d false
  | 2 => pmResume s d
  | 3 => pmBegin s d true
  | _ => s

/-- A store by a context at privilege S, or through the die's management port, to a register that it may write; unassigned offsets
ignore it. -/
def agentWrite (s : State) (c : Option CtxId) (d : DieId) (off v : Nat) : State :=
  if off < 0x40000 then
    let k := 64 * d + off / 0x1000
    let o := off % 0x1000
    if o < 0x400 then chanWrite s k (o / 16) (o % 16 == 8) v
    else if o = 0xC00 then (if v = 1 then hotClear s k else s)
    else if o = 0xC80 then ccFlush s k
    else clearCounter s d off
  else
    match off with
    | 0x100000 => askFill s d c v
    | 0x100038 => if v = 1 then resRetry s d else if v = 2 then resAbandon s d else s
    | 0x100058 => if v = 1 then migrateGo s d else if v = 2 then migrateEnd s d else s
    | 0x110028 => pmctlStore s d v
    | 0x120008 => plPush s d c v
    | 0x130038 => cscrubPage s d v
    | 0x150000 => setTrbase s d v
    | 0x150040 => stopRequest s d v
    | _ => plainWrite (clearCounter s d off) d off v

/-- A store that waits (Table 11.7): END while the migration cannot end, and RESUME while a host owns a region in
which the images stand, which the agent reads (R284). -/
def agentStoreWait (s : State) (d : DieId) (off v : Nat) : Option Wait :=
  if off = 0x100058 && v = 2 && (s.die d).mstate != 0 && !endReady s d then some (.mctlEnd d)
  else if off = 0x110028 && v = 2 && (s.die d).pmop.isNone then firstOwned s (resumeGas s (s.die d).pmimg)
  else none

/-- REGISTER_WRITE: a register that has no row of its own takes a value, by the Purser's path at level M or by a store
of system software. -/
def execRegisterWrite (d : DieId) (off : Nat) (v : Word) (s : State) : Host.Outcome State Fault Refusal :=
  .next (mWrite (plainWrite s d off v.toNat) d off v.toNat)

end Sys2Proof.Machine
end

