-- ==== Sys2Proof/Machine/Coherence.lean ====
section
/-! DEFINITION. Steps of the memory system that no word makes: buffered stores performing, forced publishes, ownership
transfers and host accesses, and the directory's messages (R128, R283, R284, R353, R372 to R375). -/

namespace Sys2Proof.Machine

/-! ## Stores, publishes, hosts -/

/-- STORE_PERFORM: the i-th buffered store of a context performs when it may (R128, R345); a store to a region that a
host owns waits (R284). -/
def execStorePerform (c : CtxId) (i : Nat) (s : State) : Host.Outcome State Fault Refusal :=
  .next (match (s.ctx c).sbuf[i]? with
    | some b => if storeHeld s b then s else performNth s c i
    | none => s)

/-- FORCED_PUBLISH: a read by core `reader` from outside the scope recorded with a line (R353). -/
def execForcedPublish (line : Nat) (reader : CoreId) (s : State) : Host.Outcome State Fault Refusal :=
  .next (publishFor s reader line)

/-- 4 µs in cc: how long a region keeps a new owner (R284). -/
def ownerHold : Nat := 8000

/-- A line lies in a region of a die's HBM. -/
def inRegion (d : DieId) (region line : Nat) : Bool :=
  let g := line * 128
  gaDie g == d && gaSpace g == 0 && gaOff g / 2 ^ 21 == region

/-- Every copy of a region's lines in the domain goes: deltas merge, stores already issued and dirty words reach the home,
directory, snoop filters, L1s and SI copies are cleared. Updates whose merge would set a dirty bit in the region merge first. -/
def clearRegion (s : State) (d : DieId) (region : Nat) : State :=
  let f := inRegion d region
  let s := mergeAllBy markDirty (fun x => x.who.any (fun w => (dirtyGas s w.2 x.ga).any (fun g => f (lineOf g)))) s
  let s := settleLines s f
  { s with cores := s.cores.map (fun e => (e.1, { e.2 with si := e.2.si.filter (fun x => !f x.1) })) }

/-- The GAs that an index-engine command reads or writes next: of a row its ends. -/
def IxCmd.asks (c : IxCmd) : List Nat :=
  let ends (g : Nat) : List Nat := [g, g + rowBytes c.record - 1]
  if c.kind = 1 then
    c.popped.flatMap (fun v => ends (c.dh.ga (c.dh.vaAt (recBase c.record + (v.toNat * rowStride c.record : Nat)))))
  else if c.kind = 4 then [c.dh.ga (c.dh.vaAt (recBase c.record + (c.pos * scanBytes c.record : Nat)))]
  else (c.rows.drop c.pos).flatMap (fun r => match r with | .row g _ _ => ends g | _ => [])

/-- What a write for a job needs: its byte, and what the home reads to set the dirty bit. -/
def writeGas (s : State) (asid g : Nat) : List Nat := g :: dirtyGas s asid g

/-- What a read for a job under a request type needs: an OWN read may be granted write permission. -/
def readGas (s : State) (asid : Nat) (rt : Rt) (nt : Bool) (g : Nat) : List Nat :=
  if effRt rt nt == .own then writeGas s asid g else [g]

/-- What the waits, buffered stores and pushes of a context and the next firings of its region access. -/
def ctxAsks (s : State) (c : CtxId) (x : Ctx) : List Nat :=
  (match x.wait with
    | some ⟨.ownership d r, _⟩ => [mkGa d 0 (r * 2 ^ 21)]
    | some ⟨.dclrv e _, _⟩ => dclrvGas s e
    | _ => [])
    ++ x.sbuf.flatMap (fun b => writeGas s b.asid b.ga) ++ x.pushes.flatMap (fun p =>
        readGas s p.asid p.element.2.2 p.hcopy.nt (p.hcopy.ga (p.hcopy.vaAt p.element.1)))
    ++ (match x.region with
      | some r => r.sites.flatMap (fun e => match fireSite (fireEnv s c) r e.1 fireOf with | .done _ fx => fireGas s c fx | _ => [])
      | none => [])

/-- What the engines and the counter cache of a core access next. -/
def coreAsks (s : State) (x : Core) : List Nat :=
  x.copies.flatMap (fun c => (c.src.ga c.row + c.byte) :: writeGas s c.asid (c.dst.ga c.row + c.byte))
    ++ x.ix.flatMap (fun c => c.asks.flatMap (fun g =>
        if c.kind = 2 then writeGas s c.asid g else if c.kind = 3 then [g] else readGas s c.asid (recRt c.record) c.dh.nt g))
    ++ (x.cc.filter (ccDue s)).flatMap (ccGas s)

/-- What the operation of a die's pre-emption agent accesses next: the area of a save that is ready, or, for a resumption, its
images and the page tables of the page that it walks. -/
def pmAsks (s : State) (d : DieId) (o : PmOp) : List Nat :=
  if !o.resume then
    let on := groupOn s d o.launch o.hdie o.group
    if allStopped s on then rangeGas o.img (imageArea s o on) else []
  else
    match (s.die o.hdie).launch o.launch with
    | none => []
    | some l =>
      rangeGas o.img ((geoOf l.image).size l.spq * (l.coords o.group).length)
        ++ ((o.todo.take 1) ++ (if o.todo.isEmpty then savedGroupPages s o l else [])).flatMap (fun r => walkGas s d l.asid r.1)

/-- What the agents of a die access next. -/
def dieAsks (s : State) (d : DieId) (x : Die) : List Nat :=
  x.walks.flatMap (fun w => writeGas s w.asid w.slot ++ (match w.frame with | some g => writeGas s w.asid g | none => []))
    ++ x.poolOps.flatMap (fun o => (o.gas s).flatMap (writeGas s o.asid))
    ++ (x.fills.take 1).flatMap (fun f => walkGas s d f.asid f.va)
    ++ x.launches.flatMap (fun l => if l.resident then [] else (l.todo.take 1).flatMap (fun r => walkGas s d l.asid r.1))
    ++ (match x.pmop with | some o => pmAsks s d o | none => [])
    ++ (if migrating s d then [x.msrc + 128 * x.mcopied, x.mdst + 128 * x.mcopied] else [])

/-- The jobs with a task on a die. -/
def grantJobs (s : State) (d : DieId) : List Nat :=
  (s.ctxs.filterMap (fun e => if dieOf e.1 = d && e.2.task.isSome then some e.2.sys.asid else none)).eraseDups

/-- What the messages in flight write: lines that a COMMIT rotates, and what the dirty bits of a grant need. -/
def messageAsks (s : State) : List Nat :=
  s.bmsgs.flatMap (fun m => if m.kind = .commit then commitGas s m.dst m.ducat else [])
    ++ s.cmsgs.flatMap (fun m => if m.kind = .gnt then (grantJobs s m.req).flatMap (fun a => dirtyGas s a (m.line * 128)) else [])

/-- Some device-side access waits for a region (R284; log 73). -/
def deviceAsks (s : State) (d : DieId) (region : Nat) : Bool :=
  let f (g : Nat) : Bool := inRegion d region (lineOf g)
  s.ctxs.any (fun e => (ctxAsks s e.1 e.2).any f) || s.cores.any (fun e => (coreAsks s e.2).any f)
    || s.dies.any (fun e => (dieAsks s e.1 e.2).any f) || (messageAsks s).any f
    || s.pkgs.any (fun e => !e.2.events.isEmpty && f (e.2.evbase + 32 * (e.2.evhead % 2048)))

/-- An ownership transfer of a region (R284), which an access by an agent that does not own it starts: the former owner's
copies go and the table's OWN bit flips, once the owner has had the region for 4 µs. -/
def transferRegion (s : State) (d : DieId) (region : Nat) : State :=
  let k := s.die d
  let a := k.rotbase + region
  let b := s.seen a 1
  let asked := if bitOf b 1 then s.pkgs.any (fun p => p.2.hostAsks.contains (d, region)) else deviceAsks s d region
  let early := match SMap.find k.flips region with | some t => decide (s.now < t + ownerHold) | none => false
  if !k.started || !bitOf b 0 || early || !asked then s
  else
    let s := claimLines (clearRegion s d region) a 1
    let s := { s with pkgs := s.pkgs.map (fun (p : PkgId × Pkg) =>
      (p.1, { p.2 with hostAsks := p.2.hostAsks.erase (d, region)
                       hostCopies := if bitOf b 1 then p.2.hostCopies else p.2.hostCopies.filter (fun l => !inRegion d region l) })) }
    (State.poke s a 1 (if bitOf b 1 then b - 2 else b + 2)).modDie d (fun k => { k with flips := SMap.set k.flips region s.now })

/-- OWNERSHIP_TRANSFER (R284). -/
def execOwnershipTransfer (d : DieId) (region : Nat) (s : State) : Host.Outcome State Fault Refusal :=
  .next (transferRegion s d region)

/-- Whether a host may access a range now: it lies in one region of the HBM that is shared and that PROC owns (R283,
R284). -/
def hostMay (s : State) (p : PkgId) (g n : Nat) : Bool :=
  let b := ownByte s g
  bitOf b 0 && !bitOf b 1 && gaSpace g == 0 && gaOff g / 2 ^ 21 == (gaOff g + n - 1) / 2 ^ 21
    && !fenced s p .engine g n

/-- A host's access to a region of the HBM that the device owns: it waits, and asks for the region (R284). -/
def hostAsk (s : State) (p : PkgId) (g : Nat) : State :=
  let r := (gaDie g, gaOff g / 2 ^ 21)
  if bitOf (ownByte s g) 0 && bitOf (ownByte s g) 1 then
    s.modPkg p (fun k => { k with hostAsks := k.hostAsks.erase r ++ [r] })
  else s

/-- A host's access of `n` bytes to memory: a read, or a write of a value. While the region is not the host's, it waits
(R284). A write matches watchpoints as NI (R146). -/
def hostAccess (s : State) (p : PkgId) (g n : Nat) (write : Option Word) : State :=
  if n = 0 || 8 < n then s
  else if !hostMay s p g n then hostAsk s p g
  else
    let s := s.modPkg p (fun k => { k with hostCopies := k.hostCopies.erase (lineOf g) ++ [lineOf g] })
    match write with
    | some v => agentPut s (.host p) 0 g (leBytes n v.toNat)
    | none => let s := recallLines s g n; s.modPkg p (fun k => { k with readData := s.peek g n })

/-! ## Directory messages -/

/-- Sends a coherence message. -/
def postC (s : State) (k : CKind) (src dst req : DieId) (line : Nat) : State :=
  { s with cmsgs := s.cmsgs ++ [⟨k, src, dst, req, line⟩] }

/-- The i-th coherence message in flight arrives, when it is of kind `k` and no earlier one between the same dies for
the same line is still under way (R374). -/
def deliverC (s : State) (i : Nat) (k : CKind) (body : State → CMsg → State) : State :=
  match s.cmsgs[i]? with
  | some m =>
    if m.kind = k && !(s.cmsgs.take i).any (fun o => o.src == m.src && o.dst == m.dst && o.line == m.line) then
      body { s with cmsgs := listDrop s.cmsgs i } m
    else s
  | none => s

/-- A die holds dirty words of a line. -/
def dieDirty (s : State) (d : DieId) (line : Nat) : Bool :=
  match SMap.find s.dirty line with
  | some o => dieOfCore o.core == d
  | none => false

/-- The home sets the dirty bits of a die's jobs before a grant of write permission is visible (R390). A message names no job; the
model sets the bit for every job with a task on the die (log 22). -/
def grantMarks (s : State) (d : DieId) (line : Nat) : State := (grantJobs s d).foldl (fun s a => markDirty s a (line * 128)) s

/-- What these marks need lies in a region that a host owns: the grant waits (R284). -/
def grantHeld (s : State) (d : DieId) (line : Nat) : Bool :=
  (grantJobs s d).any (fun a => (dirtyGas s a (line * 128)).any (procOwned s))

/-- RDO: die `d` asks for a line at its home directory. A line held E, M or O elsewhere is forwarded to its holder; else
the home supplies it, and fills its invalid words from below (R372, R375). -/
def execRdo (d : DieId) (line : Nat) (s : State) : Host.Outcome State Fault Refusal :=
  .next (
    let home := homeOf line
    let e' := dirRead (s.dirOf line) d
    if e'.st == .E && grantHeld s d line then s else
    let s := l2Fill (mergeAll s line) line
    let e := s.dirOf line
    let e' := dirRead e d
    let s' := setDir (if e.dies.contains d then s else shareLine s line) line e'
    let s' := if e'.st == .E && !e.dies.contains d then grantMarks s' d line else s'
    match e.owner with
    | some o => if o = d then s' else postC s' .fwd home o d line
    | none => postC s' .data home d d line)

/-- FWD reaches the holder: dirty data go to the requester at once, a clean holder acknowledges, and one whose copy has
been evicted answers NOCOPY (R372, R374). -/
def execFwd (i : Nat) (s : State) : Host.Outcome State Fault Refusal :=
  .next (deliverC s i .fwd (fun s m =>
    if dieDirty s m.dst m.line then postC s .data m.dst m.req m.req m.line
    else if (s.dirOf m.line).dies.contains m.dst then postC s .ack m.dst m.src m.req m.line
    else postC s .nocopy m.dst m.src m.req m.line))

/-- ACK reaches the home, which supplies the data (R372). -/
def execAck (i : Nat) (s : State) : Host.Outcome State Fault Refusal :=
  .next (deliverC s i .ack (fun s m => postC s .data m.dst m.req m.req m.line))

/-- NOCOPY reaches the home, which supplies the line from its own L2 or memory (R374). -/
def execNocopy (i : Nat) (s : State) : Host.Outcome State Fault Refusal :=
  .next (deliverC s i .nocopy (fun s m => postC s .data m.dst m.req m.req m.line))

/-- DATA reaches the requesting die: it holds the line, its snoop filter records it, and a full set evicts (R373). The directory
names no core; the model lets the die's core 0 hold it (log 22). -/
def execData (i : Nat) (s : State) : Host.Outcome State Fault Refusal :=
  .next (deliverC s i .data (fun s m =>
    if s.dieHolds m.req m.line then s else l1Enter s (m.req * 64) m.line ((s.dirOf m.line).st == .E)))

/-- UPG: die `d` asks for write permission. Every other holder is sent INV; with none, it is granted (R372). -/
def execUpg (d : DieId) (line : Nat) (s : State) : Host.Outcome State Fault Refusal :=
  .next (
    let home := homeOf line
    let s := mergeAll s line
    let others := (s.dirOf line).dies.filter (fun o => o != d)
    if others.isEmpty then postC s .gnt home d d line
    else others.foldl (fun s o => postC s .inv home o d line) s)

/-- INV reaches a holder: its dirty words go to the home, its copy goes, and it acknowledges (R372, R375). -/
def execInv (i : Nat) (s : State) : Host.Outcome State Fault Refusal :=
  .next (deliverC s i .inv (fun s m => postC (evictLine s m.dst m.line) .iack m.dst m.src m.req m.line))

/-- IACK reaches the home: once no INV or IACK of the upgrade is under way, write permission is granted (R372). -/
def execIack (i : Nat) (s : State) : Host.Outcome State Fault Refusal :=
  .next (deliverC s i .iack (fun s m =>
    if s.cmsgs.any (fun o => o.line == m.line && o.req == m.req && (o.kind == .inv || o.kind == .iack)) then s
    else postC s .gnt m.dst m.req m.req m.line))

/-- GNT: the home has set the dirty bit of the requester's jobs before the grant is visible, and the die holds the line M
(R372, R390). -/
def execGnt (i : Nat) (s : State) : Host.Outcome State Fault Refusal :=
  .next (if (s.cmsgs[i]?).any (fun m => grantHeld s m.req m.line) then s else deliverC s i .gnt (fun s m =>
    let s := grantMarks s m.req m.line
    let s := if s.dieHolds m.req m.line then s else l1Enter s (m.req * 64) m.line true
    setDir s m.line (dirOwn m.req)))

/-- EVC: a die's clean copy of a line leaves, and the home removes the die from the holders (R373). -/
def execEvc (d : DieId) (line : Nat) (s : State) : Host.Outcome State Fault Refusal :=
  .next (if dieDirty s d line then s else evictLine s d line)

/-- WB: a die's dirty words of a line reach the home, which merges only those (R373, R375). -/
def execWb (d : DieId) (line : Nat) (s : State) : Host.Outcome State Fault Refusal :=
  .next (if dieDirty s d line then evictLine s d line else s)

end Sys2Proof.Machine
end

