-- ==== Sys2Proof/Machine/Integer.lean ====
section
/-! DEFINITION. The INT major, the immediate majors and the 16-bit integer forms (R95 to R99, Tables 4.2 and 4.4). -/

namespace Sys2Proof.Machine

/-- xd := f(a, b), of latency `lat` (R95). -/
def intOp (s : State) (p : Pred) (d a b : BitVec 5) (lat : Nat) (f : Word → Word → Word) : State :=
  word s p (fun s => finish s 4 lat (.x d.toNat (f (s.x a) (s.x b))))

/-- xd := f(a) (R95). -/
def intOp1 (s : State) (p : Pred) (d a : BitVec 5) (f : Word → Word) : State :=
  word s p (fun s => finish s 4 1 (.x d.toNat (f (s.x a))))

/-- pd := the condition on a and b (R99). -/
def compare (s : State) (p : Pred) (pd : BitVec 3) (a b : BitVec 5) (c : Cond) : State :=
  word s p (fun s => finish s 4 1 (.p pd.toNat (c.eval (s.x a) (s.x b))))

/-- p[r] of the running context. -/
def State.p (s : State) (r : BitVec 3) : Bool := s.me.getP r.toNat

/-- pd := f(pa, pb) (R99). -/
def predOp (s : State) (p : Pred) (pd pa pb : BitVec 3) (f : Bool → Bool → Bool) : State :=
  word s p (fun s => finish s 4 1 (.p pd.toNat (f (s.p pa) (s.p pb))))

/-- xd := f(a, imm), with the IMX-extended immediate (R97). -/
def immOp (s : State) (p : Pred) (d a : BitVec 5) (imm : BitVec 12) (f : Word → Word → Word) : State :=
  wordImm s p (fun s => finish s 4 1 (.x d.toNat (f (s.x a) (s.imm imm))))

/-- xd := f(a, SH) (R97). -/
def shiftOp (s : State) (p : Pred) (d a : BitVec 5) (sh : BitVec 6) (f : Word → Nat → Word) : State :=
  word s p (fun s => finish s 4 1 (.x d.toNat (f (s.x a) sh.toNat)))

/-- pd := the condition on a and imm (R99). -/
def compareImm (s : State) (p : Pred) (pd : BitVec 3) (a : BitVec 5) (imm : BitVec 12) (c : Cond) : State :=
  wordImm s p (fun s => finish s 4 1 (.p pd.toNat (c.eval (s.x a) (s.imm imm))))

/-- ADD (R95). -/
def execAdd (p : Pred) (d a b : BitVec 5) (s : State) : Host.Outcome State Fault Refusal :=
  .next (intOp s p d a b 1 (fun a b => a + b))
/-- SUB (R95). -/
def execSub (p : Pred) (d a b : BitVec 5) (s : State) : Host.Outcome State Fault Refusal :=
  .next (intOp s p d a b 1 (fun a b => a - b))
/-- MUL (R95). -/
def execMul (p : Pred) (d a b : BitVec 5) (s : State) : Host.Outcome State Fault Refusal :=
  .next (intOp s p d a b 3 (fun a b => a * b))
/-- MULH (R95). -/
def execMulh (p : Pred) (d a b : BitVec 5) (s : State) : Host.Outcome State Fault Refusal :=
  .next (intOp s p d a b 3 mulHigh)
/-- MULHU (R95). -/
def execMulhu (p : Pred) (d a b : BitVec 5) (s : State) : Host.Outcome State Fault Refusal :=
  .next (intOp s p d a b 3 mulHighU)
/-- DIV (R95, R96). -/
def execDiv (p : Pred) (d a b : BitVec 5) (s : State) : Host.Outcome State Fault Refusal :=
  .next (intOp s p d a b 20 divS)
/-- DIVU (R95, R96). -/
def execDivu (p : Pred) (d a b : BitVec 5) (s : State) : Host.Outcome State Fault Refusal :=
  .next (intOp s p d a b 20 divU)
/-- REM (R95, R96). -/
def execRem (p : Pred) (d a b : BitVec 5) (s : State) : Host.Outcome State Fault Refusal :=
  .next (intOp s p d a b 20 remS)
/-- REMU (R95, R96). -/
def execRemu (p : Pred) (d a b : BitVec 5) (s : State) : Host.Outcome State Fault Refusal :=
  .next (intOp s p d a b 20 remU)
/-- AND (R95). -/
def execAnd (p : Pred) (d a b : BitVec 5) (s : State) : Host.Outcome State Fault Refusal :=
  .next (intOp s p d a b 1 (fun a b => a &&& b))
/-- OR (R95). -/
def execOr (p : Pred) (d a b : BitVec 5) (s : State) : Host.Outcome State Fault Refusal :=
  .next (intOp s p d a b 1 (fun a b => a ||| b))
/-- XOR (R95). -/
def execXor (p : Pred) (d a b : BitVec 5) (s : State) : Host.Outcome State Fault Refusal :=
  .next (intOp s p d a b 1 (fun a b => a ^^^ b))
/-- ANDN (R95). -/
def execAndn (p : Pred) (d a b : BitVec 5) (s : State) : Host.Outcome State Fault Refusal :=
  .next (intOp s p d a b 1 (fun a b => a &&& ~~~b))
/-- SHL (R95). -/
def execShl (p : Pred) (d a b : BitVec 5) (s : State) : Host.Outcome State Fault Refusal :=
  .next (intOp s p d a b 1 (fun a b => a <<< shiftBy b))
/-- SHR (R95). -/
def execShr (p : Pred) (d a b : BitVec 5) (s : State) : Host.Outcome State Fault Refusal :=
  .next (intOp s p d a b 1 (fun a b => a >>> shiftBy b))
/-- SAR (R95). -/
def execSar (p : Pred) (d a b : BitVec 5) (s : State) : Host.Outcome State Fault Refusal :=
  .next (intOp s p d a b 1 (fun a b => a.sshiftRight (shiftBy b)))
/-- ROR (R95). -/
def execRor (p : Pred) (d a b : BitVec 5) (s : State) : Host.Outcome State Fault Refusal :=
  .next (intOp s p d a b 1 (fun a b => a.rotateRight (shiftBy b)))
/-- MIN (R95). -/
def execMin (p : Pred) (d a b : BitVec 5) (s : State) : Host.Outcome State Fault Refusal :=
  .next (intOp s p d a b 1 minS)
/-- MAX (R95). -/
def execMax (p : Pred) (d a b : BitVec 5) (s : State) : Host.Outcome State Fault Refusal :=
  .next (intOp s p d a b 1 maxS)
/-- MINU (R95). -/
def execMinu (p : Pred) (d a b : BitVec 5) (s : State) : Host.Outcome State Fault Refusal :=
  .next (intOp s p d a b 1 minU)
/-- MAXU (R95). -/
def execMaxu (p : Pred) (d a b : BitVec 5) (s : State) : Host.Outcome State Fault Refusal :=
  .next (intOp s p d a b 1 maxU)
/-- CLZ (R95). -/
def execClz (p : Pred) (d a : BitVec 5) (s : State) : Host.Outcome State Fault Refusal :=
  .next (intOp1 s p d a (fun a => wordOf (leadZeros 64 a.toNat)))
/-- CTZ (R95). -/
def execCtz (p : Pred) (d a : BitVec 5) (s : State) : Host.Outcome State Fault Refusal :=
  .next (intOp1 s p d a (fun a => wordOf (trailZeros 64 a.toNat)))
/-- POPC (R95). -/
def execPopc (p : Pred) (d a : BitVec 5) (s : State) : Host.Outcome State Fault Refusal :=
  .next (intOp1 s p d a (fun a => wordOf (onesOf 64 a.toNat)))
/-- BSWAP (R95). -/
def execBswap (p : Pred) (d a : BitVec 5) (s : State) : Host.Outcome State Fault Refusal :=
  .next (intOp1 s p d a (byteSwap))
/-- SEXT.B (R95). -/
def execSextB (p : Pred) (d a : BitVec 5) (s : State) : Host.Outcome State Fault Refusal :=
  .next (intOp1 s p d a (sextFrom 8))
/-- SEXT.H (R95). -/
def execSextH (p : Pred) (d a : BitVec 5) (s : State) : Host.Outcome State Fault Refusal :=
  .next (intOp1 s p d a (sextFrom 16))
/-- SEXT.W (R95). -/
def execSextW (p : Pred) (d a : BitVec 5) (s : State) : Host.Outcome State Fault Refusal :=
  .next (intOp1 s p d a (sextFrom 32))
/-- ZEXT.W (R95). -/
def execZextW (p : Pred) (d a : BitVec 5) (s : State) : Host.Outcome State Fault Refusal :=
  .next (intOp1 s p d a (fun a => wordOf (a.toNat % 2 ^ 32)))
/-- BFINS: POS = b[5:0], W = b[13:8] + 1 (R98). -/
def execBfins (p : Pred) (d a b : BitVec 5) (s : State) : Host.Outcome State Fault Refusal :=
  .next (word s p (fun s => finish s 4 1
    (.x d.toNat (bitInsert (s.x d) (s.x a) (bitsOf (s.x b).toNat 0 6) (bitsOf (s.x b).toNat 8 6 + 1)))))
/-- CMP.EQ (R99). -/
def execCmpEq (p : Pred) (pd : BitVec 3) (a b : BitVec 5) (s : State) : Host.Outcome State Fault Refusal :=
  .next (compare s p pd a b .eq)
/-- CMP.NE (R99). -/
def execCmpNe (p : Pred) (pd : BitVec 3) (a b : BitVec 5) (s : State) : Host.Outcome State Fault Refusal :=
  .next (compare s p pd a b .ne)
/-- CMP.LT (R99). -/
def execCmpLt (p : Pred) (pd : BitVec 3) (a b : BitVec 5) (s : State) : Host.Outcome State Fault Refusal :=
  .next (compare s p pd a b .lt)
/-- CMP.GE (R99). -/
def execCmpGe (p : Pred) (pd : BitVec 3) (a b : BitVec 5) (s : State) : Host.Outcome State Fault Refusal :=
  .next (compare s p pd a b .ge)
/-- CMP.LTU (R99). -/
def execCmpLtu (p : Pred) (pd : BitVec 3) (a b : BitVec 5) (s : State) : Host.Outcome State Fault Refusal :=
  .next (compare s p pd a b .ltu)
/-- CMP.GEU (R99). -/
def execCmpGeu (p : Pred) (pd : BitVec 3) (a b : BitVec 5) (s : State) : Host.Outcome State Fault Refusal :=
  .next (compare s p pd a b .geu)
/-- PAND (R99). -/
def execPand (p : Pred) (pd pa pb : BitVec 3) (s : State) : Host.Outcome State Fault Refusal :=
  .next (predOp s p pd pa pb (fun x y => x && y))
/-- POR (R99). -/
def execPor (p : Pred) (pd pa pb : BitVec 3) (s : State) : Host.Outcome State Fault Refusal :=
  .next (predOp s p pd pa pb (fun x y => x || y))
/-- PXOR (R99). -/
def execPxor (p : Pred) (pd pa pb : BitVec 3) (s : State) : Host.Outcome State Fault Refusal :=
  .next (predOp s p pd pa pb (fun x y => x != y))
/-- PANDN (R99). -/
def execPandn (p : Pred) (pd pa pb : BitVec 3) (s : State) : Host.Outcome State Fault Refusal :=
  .next (predOp s p pd pa pb (fun x y => x && !y))
/-- MVPX (R99). -/
def execMvpx (p : Pred) (d : BitVec 5) (pa : BitVec 3) (s : State) : Host.Outcome State Fault Refusal :=
  .next (word s p (fun s => finish s 4 1 (.x d.toNat (if s.p pa then 1 else 0))))
/-- MVXP (R99). -/
def execMvxp (p : Pred) (pd : BitVec 3) (a : BitVec 5) (s : State) : Host.Outcome State Fault Refusal :=
  .next (word s p (fun s => finish s 4 1 (.p pd.toNat (s.x a != 0))))
/-- ADDI (R97). -/
def execAddi (p : Pred) (d a : BitVec 5) (imm : BitVec 12) (s : State) : Host.Outcome State Fault Refusal :=
  .next (immOp s p d a imm (fun a i => a + i))
/-- ANDI (R97). -/
def execAndi (p : Pred) (d a : BitVec 5) (imm : BitVec 12) (s : State) : Host.Outcome State Fault Refusal :=
  .next (immOp s p d a imm (fun a i => a &&& i))
/-- ORI (R97). -/
def execOri (p : Pred) (d a : BitVec 5) (imm : BitVec 12) (s : State) : Host.Outcome State Fault Refusal :=
  .next (immOp s p d a imm (fun a i => a ||| i))
/-- XORI (R97). -/
def execXori (p : Pred) (d a : BitVec 5) (imm : BitVec 12) (s : State) : Host.Outcome State Fault Refusal :=
  .next (immOp s p d a imm (fun a i => a ^^^ i))
/-- SHLI (R97). -/
def execShli (p : Pred) (d a : BitVec 5) (sh : BitVec 6) (s : State) : Host.Outcome State Fault Refusal :=
  .next (shiftOp s p d a sh (fun a n => a <<< n))
/-- SHRI (R97). -/
def execShri (p : Pred) (d a : BitVec 5) (sh : BitVec 6) (s : State) : Host.Outcome State Fault Refusal :=
  .next (shiftOp s p d a sh (fun a n => a >>> n))
/-- SARI (R97). -/
def execSari (p : Pred) (d a : BitVec 5) (sh : BitVec 6) (s : State) : Host.Outcome State Fault Refusal :=
  .next (shiftOp s p d a sh (fun a n => a.sshiftRight n))
/-- RORI (R97). -/
def execRori (p : Pred) (d a : BitVec 5) (sh : BitVec 6) (s : State) : Host.Outcome State Fault Refusal :=
  .next (shiftOp s p d a sh (fun a n => a.rotateRight n))
/-- CMPI.EQ (R99). -/
def execCmpiEq (p : Pred) (pd : BitVec 3) (a : BitVec 5) (imm : BitVec 12) (s : State) : Host.Outcome State Fault Refusal :=
  .next (compareImm s p pd a imm .eq)
/-- CMPI.NE (R99). -/
def execCmpiNe (p : Pred) (pd : BitVec 3) (a : BitVec 5) (imm : BitVec 12) (s : State) : Host.Outcome State Fault Refusal :=
  .next (compareImm s p pd a imm .ne)
/-- CMPI.LT (R99). -/
def execCmpiLt (p : Pred) (pd : BitVec 3) (a : BitVec 5) (imm : BitVec 12) (s : State) : Host.Outcome State Fault Refusal :=
  .next (compareImm s p pd a imm .lt)
/-- CMPI.LTU (R99). -/
def execCmpiLtu (p : Pred) (pd : BitVec 3) (a : BitVec 5) (imm : BitVec 12) (s : State) : Host.Outcome State Fault Refusal :=
  .next (compareImm s p pd a imm .ltu)
/-- BFX: ZeroExt of a[pos+w-1:pos] (R97). -/
def execBfx (p : Pred) (d a wm1 : BitVec 5) (pos : BitVec 6) (s : State) : Host.Outcome State Fault Refusal :=
  .next (word s p (fun s => finish s 4 1 (.x d.toNat (bitField (s.x a) pos.toNat (wm1.toNat + 1)))))
/-- BFXS: SignExt of a[pos+w-1:pos] (R97). -/
def execBfxs (p : Pred) (d a wm1 : BitVec 5) (pos : BitVec 6) (s : State) : Host.Outcome State Fault Refusal :=
  .next (word s p (fun s => finish s 4 1 (.x d.toNat (bitFieldS (s.x a) pos.toNat (wm1.toNat + 1)))))
/-- LI (R97). -/
def execLi (p : Pred) (d : BitVec 5) (imm : BitVec 17) (s : State) : Host.Outcome State Fault Refusal :=
  .next (wordImm s p (fun s => finish s 4 1 (.x d.toNat (s.imm imm))))
/-- MVS: as ADD xd, xa, x0 (R63). -/
def execMvs (d a : BitVec 5) (s : State) : Host.Outcome State Fault Refusal :=
  .next (word16 s (fun s => finish s 2 1 (.x d.toNat (s.x a))))
/-- ADDS: as ADDI xd, xd, imm6 (R63). -/
def execAdds (d : BitVec 5) (imm : BitVec 6) (s : State) : Host.Outcome State Fault Refusal :=
  .next (word16 s (fun s => finish s 2 1 (.x d.toNat (s.x d + imm.signExtend 64))))
/-- LIS: as LI xd, imm6 (R63). -/
def execLis (d : BitVec 5) (imm : BitVec 6) (s : State) : Host.Outcome State Fault Refusal :=
  .next (word16 s (fun s => finish s 2 1 (.x d.toNat (imm.signExtend 64))))

end Sys2Proof.Machine
end

