-- ==== Sys2Proof/Machine/Progress.lean ====
section
/-! DEFINITION. Progress: which contexts are runnable (R249, Table 11.7), region states and the
quiescence detector (R265 to R267, R288), decoupling statistics (R268, R269) and the passing of time. -/

namespace Sys2Proof.Machine

/-! ## Waits (R249, R250) -/

/-- A waiting context must go on waiting: what its wait needs has not come. -/
def waitHolds (s : State) (c : CtxId) : Wait → Bool
  | .qFull q need => match (s.ctx c).endOf q with | some e => decide (e.2.room < need) | none => false
  | .qEmpty q => match (s.ctx c).endOf q with | some e => e.2.ctxQ.isEmpty && !e.1.err && e.1.cur.isNone | none => false
  | .behind q true => producerBusy s c q || (s.ctx c).pushes.any (fun p => p.q == q)
  | .behind q false => consumerBusy s c q
  | .queueBehind q true => producerBusy s c q
  | .queueBehind q false => consumerBusy s c q
  | .tagBusy t => (s.core (coreOf c)).tagBusy t
  | .copyFull => decide (32 ≤ (s.core (coreOf c)).copies.length)
  | .engineFull =>
    let l := (s.core (coreOf c)).ix
    decide (32 ≤ l.length) || decide (8 ≤ (l.filter (fun m => m.owner == c)).length)
  | .spOrder ga n => spBlocked s c (s.core (coreOf c)).ixSeq [(ga, n, false)]
  | .bopenFull => decide (4096 ≤ (s.die (dieOf c)).bundles.length)
  | .join ducat => (s.ctx c).reply.isNone && !pkgGone s (pkgOf (dieOf c)) (pkgOf (ducatDie ducat))
  | .bstConflict line ducat _ =>
    bstBlocked s line ducat && (match (s.ctx c).wait with | some w => decide (s.now - w.since < bstLimit) | none => false)
  | .babort ducat => s.unfinished ducat
  | .mqFull sa =>
    match (s.ctx c).region with
    | some r => !r.sealed && (match r.sa sa with | some a => decide (16 ≤ a.queue.length) | none => false)
    | none => false
  | .barrierFull b => match (s.ctx c).region with | some r => decide (4 ≤ (r.cbOf b).length) | none => false
  | .waitb b => match (s.ctx c).region with | some r => (r.cbOf b).isEmpty | none => false
  | .anyTag mask => wordOf mask &&& ~~~(s.core (coreOf c)).tb == 0
  | .allTags mask => wordOf mask &&& (s.core (coreOf c)).tb != 0
  | .inbox =>
    match (s.ctx c).chan with
    | some ch => ((s.core (coreOf c)).chan ch).inbox.isEmpty
    | none => false
  | .sendFull k ch _ => chanOpen s k ch && decide (4 ≤ ((s.core k).chan ch).inbox.length)
  | .barw slot phase =>
    match SMap.find (s.die (dieOf c)).bars slot with
    | some b => b.phase == phase
    | none => false
  | .shoot es => shotBusy s es
  | .vshoot ga => volumeBusy s ga
  | .vfree fr _ _ false => frameInUse s fr
  | .vfree _ _ _ true => s.dies.any (fun d => d.2.poolOps.any (fun o => o.who == .vfree c))
  | .walk d id => (s.ctx c).reply.isNone && (s.die d).walks.any (fun w => w.id == id)
  | .drain => drainWaits s c
  | .ownership d region => procOwned s (mkGa d 0 (region * 2 ^ 21))
  | .prepared line => prepared s (line * 128)
  | .ltstat _ _ => fillPending s c
  | .plstat _ _ => pushPending s c
  | .dclrv d _ => dclrvOwned s d
  | .ccflush k _ => ccPending s k
  | .mctl d _ => migrating s d
  | .mctlEnd d => (s.die d).mstate != 0 && !endReady s d
  | .pmctl d _ => (s.die d).pmstat == 1

/-- A context is runnable (R249): it holds a run, has not stopped, and is not waiting. -/
def runnable (s : State) (c : CtxId) : Bool :=
  let x := s.ctx c
  x.run && !x.stopped && !x.ended && !x.desched && (match x.wait with | none => true | some w => !waitHolds s c w.kind)

/-- The queue whose timeout a context's wait has reached: the wait still holds, and its binding's time has passed (R153). -/
def timeoutDue (s : State) (c : CtxId) : Option Nat :=
  let x := s.ctx c
  let late (q : Nat) : Option Nat :=
    match x.endOf q with
    | some e => if timedOut s c e.1.tmo then some q else none
    | none => none
  match x.wait with
  | some w =>
    if !x.between || !waitHolds s c w.kind then none
    else
      match w.kind with
      | .qFull q _ => late q
      | .qEmpty q => late q
      | .queueBehind q _ => late q
      | _ => none
  | none => none

/-- QTIMEO of a context whose queue wait has lasted its timeout (R153). -/
def execQtimeo (c : CtxId) (s : State) : Host.Outcome State Fault Refusal :=
  .next (match timeoutDue s c with
    | some q => trapEntry s c 0x22 q false false
    | none => s)


/-- An index-engine command has taken something of its list or source. -/
def IxCmd.begun (m : IxCmd) : Bool :=
  m.pos != 0 || m.wpos != 0 || !m.popped.isEmpty || m.found || !m.arrived.isEmpty

/-- The command under a busy tag of a core has started: a copy or index-engine command once it has moved or nothing holds it
back in scratchpad, a BCLOSE from its issue (Table 11.7). -/
def tagStarted (s : State) (k : CoreId) (t : Nat) : Bool :=
  match (s.core k).copies.find? (fun m => m.tag == t) with
  | some m => !m.isStart || !spBlocked s m.owner m.seq m.ranges
  | none =>
    match (s.core k).ix.find? (fun m => recTagged m.record && recTag m.record == t) with
    | some m => m.begun || !spBlocked s m.owner m.seq m.ranges
    | none => true

/-- A command of a tag in a mask has started. -/
def maskStarted (s : State) (k : CoreId) (mask : Nat) : Bool :=
  (List.range 64).any (fun t => bitOf mask t && (s.core k).tagBusy t && tagStarted s k t)

/-- The wait holds the quiet window open (last column of Table 11.7, R288). -/
def holdsOpen (s : State) (c : CtxId) : Wait → Bool
  | .qFull _ _ => false
  | .qEmpty _ => false
  | .queueBehind _ _ => false
  | .bopenFull => false
  | .inbox => false
  | .sendFull _ _ _ => false
  | .barw _ _ => false
  | .waitb _ => false
  | .barrierFull _ => false
  | .mqFull sa =>
    match (s.ctx c).region with
    | some r => (match r.sa sa with | some a => (match a.queue with | m :: _ => m.started | [] => false) | none => false)
    | none => false
  | .anyTag mask => maskStarted s (coreOf c) mask
  | .allTags mask => maskStarted s (coreOf c) mask
  | _ => true

/-- A context keeps its job's quiet window from completing: it is runnable, in a trap handler, or waiting on an engine
command that has started (R266). -/
def keepsBusy (s : State) (c : CtxId) : Bool :=
  let x := s.ctx c
  x.run && !x.ended
    && (decide (0 < x.trapDepth) || runnable s c
        || (!x.stopped && !x.desched && (match x.wait with | some w => holdsOpen s c w.kind | none => false)))

/-- The job of a context: its task's, or the ASID that a channel run has. -/
def jobOf (x : Ctx) : Option Nat :=
  match x.task with
  | some t => some t.asid
  | none => if x.run then some x.sys.asid else none

/-- The contexts of a job on a die. -/
def jobContexts (s : State) (d : DieId) (asid : Nat) : List CtxId :=
  (s.ctxs.filter (fun e => decide (dieOf e.1 = d) && jobOf e.2 == some asid)).map (fun e => e.1)

/-! ## Region states (R265) -/

/-- 4,096 fc. -/
def quietSpan : Nat := 4096

/-- The state of a context's region: 0 RUN, 1 DONE, 2 WAITHOST, 3 BLOCKED. A region in which something can move now runs:
it is not blocked for want of a turn (log 10). -/
def regionState (s : State) (c : CtxId) : Nat :=
  let x := s.ctx c
  match x.task with
  | none => 1
  | some t =>
    match t.region with
    | none => 1
    | some r =>
      let unlinked := t.queues.any (fun q => decide (2 ≤ q.2.ends) && (farEnd s c q.1).isNone)
      if r.finished t.queues then 1
      else if (match r.moved with | some m => decide (s.fc < m + quietSpan) | none => false) || regionAble s c then 0
      else if decide (0 < x.trapDepth) || x.desched || r.stopped || unlinked then 2
      else 3

/-! ## Blocked sites (R267) -/

/-- The links that a site's selectors name, with the selector values, each once. -/
def Region.inputLinks (r : Region) (i : Nat) : List (Nat × Nat) :=
  let sels := ((List.range 4).map (cfgSel (r.cfg i))).eraseDups
  sels.filterMap (fun k => if decide (1 ≤ k) && decide (k ≤ 8) then (r.link i k).map (fun l => (k, l)) else none)

/-- The site holds a token: on a link it reads, in SELF, in its own store, or in its queue port's buffer. -/
def Region.siteHolds (r : Region) (qs : SMap Queue) (i : Nat) (s : Site) : Bool :=
  (r.inputLinks i).any (fun l => !(SMap.getD r.links l.2 []).isEmpty)
    || (s.self.isSome && !s.reload) || !s.held.isEmpty || !s.buf.isEmpty || !s.outq.isEmpty
    || ([0x80, 0x81, 0x82, 0x83].contains (cfgOp s.cfg)
        && (match SMap.find qs (cfgAux s.cfg % 64) with | some k => !k.portTokens.isEmpty | none => false))

/-- The blocked sites of a context's region, in ascending occupancy-bitmap order. -/
def blockedSites (s : State) (c : CtxId) : List (Nat × Site) :=
  match (s.ctx c).task with
  | none => []
  | some t =>
    match t.region with
    | none => []
    | some r =>
      let env := fireEnv s c
      if r.sealed then []
      else r.sites.filter (fun e => cfgOp e.2.cfg != 0 && r.siteHolds t.queues e.1 e.2 && fireSite env r e.1 fireOf == .idle)

/-- A blocked site's word of a report window (Table 11.5). -/
def siteWord (r : Region) (qs : SMap Queue) (e : Nat × Site) : Nat :=
  let op := cfgOp e.2.cfg
  let port := SMap.find qs (cfgAux e.2.cfg % 64)
  let qp := decide (0x80 ≤ op) && decide (op ≤ 0x83)
  let full := qp && (match port with | some k => decide (32 ≤ k.portTokens.length) | none => false)
  let empty := qp && (match port with | some k => k.portTokens.isEmpty | none => false)
  let outs := ((List.range 8).filter (fun d => bitOf (outMask e.2.cfg) d
    && decide (2 ≤ (SMap.getD r.links (9 * e.1 + d) []).length))).foldl (fun m d => m + 2 ^ d) 0
  let ins := ((r.inputLinks e.1).filter (fun l => (SMap.getD r.links l.2 []).isEmpty)).foldl (fun m l => m + 2 ^ (l.1 - 1)) 0
  b2n full * 2 ^ 36 + b2n empty * 2 ^ 35 + outs * 2 ^ 27 + ins * 2 ^ 19 + op * 2 ^ 11
    + (siteRow r.w e.1 + r.br) * 2 ^ 6 + (siteCol r.w e.1 + r.bc)

/-- The 32 words of a report on a context (Table 11.5). -/
def reportWords (s : State) (c : CtxId) (kind : Nat) : List Nat :=
  let sites := blockedSites s c
  let (launch, tidx, region, qs) : Nat × Nat × Option Region × SMap Queue :=
    match (s.ctx c).task with
    | some t => (t.launch, t.tidx, t.region, t.queues)
    | none => (0, 0, none, [])
  let (fault, br, bc, cfgver) := match region with | some r => (r.fault, r.br, r.bc, r.cfgver) | none => (0, 0, 0, 0)
  let n := min 28 sites.length
  let listed := match region with | some r => (sites.take 28).map (siteWord r qs) | none => []
  [ fault * 2 ^ 56 + br * 2 ^ 51 + bc * 2 ^ 45 + tidx * 2 ^ 32 + launch,
    kind * 2 ^ 40 + 2 ^ 39 + b2n (decide (28 < sites.length)) * 2 ^ 38 + n * 2 ^ 32 + cfgver,
    s.now % 2 ^ 64, 0 ] ++ listed ++ List.replicate (28 - listed.length) 0

/-- A report window is in use. -/
def windowUsed (d : Die) (w : Nat) : Bool := bitOf ((SMap.getD d.windows w []).getD 1 0) 39

/-- DEADLOCK on a context with a wait kind: the report, then the trap with the window's number in EVA, 8 when none is
free (R267). A context that has executed ENDT takes no trap. -/
def raiseDeadlock (s : State) (e : CtxId × Nat) : State :=
  let d := dieOf e.1
  let w := ((List.range 8).find? (fun w => !windowUsed (s.die d) w)).getD 8
  let s := if w < 8 then s.modDie d (fun x => { x with windows := SMap.set x.windows w (reportWords s e.1 e.2) }) else s
  if (s.ctx e.1).ended then s else trapEntry s e.1 0x40 w false false

/-- The wait kind of a context that waits on a member of its job (R266): BARW, WAITB, WAITCH on a channel whose last word a
context of the job sent (log 43), or a queue whose far end is a context of the job, which a LOCAL binding has, and a placed
chain that ends at a context. -/
def peerWait (s : State) (c : CtxId) : Option Nat :=
  let x := s.ctx c
  let own (q : Nat) : Bool :=
    match x.endOf q with
    | some e =>
      e.1.dir == .loc || (match farEnd s c e.1.entry with
        | some (o, f) => (match (s.ctx o).queue f with | some k => k.ends == 2 | none => false)
        | none => false)
    | none => false
  let peer : Bool :=
    match x.chan with
    | some ch => ((s.core (coreOf c)).chan ch).peer.isSome && ((s.core (coreOf c)).chan ch).peer == jobOf x
    | none => false
  match x.wait with
  | some ⟨.barw _ _, _⟩ => some 1
  | some ⟨.waitb _, _⟩ => some 2
  | some ⟨.inbox, _⟩ => if peer then some 3 else none
  | some ⟨.qFull q _, _⟩ => if own q then some 4 else none
  | some ⟨.qEmpty q, _⟩ => if own q then some 4 else none
  | some ⟨.queueBehind q _, _⟩ => if own q then some 4 else none
  | _ => none

/-- The contexts of a job to be raised, with their wait kinds. A context that pre-emption or a freeze has stopped waits for nothing:
its wait is abandoned and its region is WAITHOST (R250, R265). -/
def deadlocked (s : State) (d : DieId) (asid : Nat) : List (CtxId × Nat) :=
  (jobContexts s d asid).filterMap (fun c =>
    let x := s.ctx c
    if x.desched then none
    else
    match peerWait s c with
    | some k => some (c, k)
    | none => if (x.region).isSome && regionState s c == 3 && (x.ended || x.wait.isSome) then some (c, 0) else none)

/-- QUIET_WINDOW_COMPLETE: with nothing moved, nothing able to move and no context busy for 4,096 fc, DEADLOCK is raised and
a new window starts (R266). -/
def quietStep (s : State) (d : DieId) (asid : Nat) : State :=
  let k := s.die d
  let last := max (SMap.getD k.lastMove asid 0) (SMap.getD k.lastBusy asid 0)
  let cs := jobContexts s d asid
  if cs.isEmpty || decide (s.fc < last + quietSpan) || cs.any (keepsBusy s)
      || cs.any (fun c => regionAble s c || engineAble s c || chainAble s c) then s
  else ((deadlocked s d asid).foldl raiseDeadlock s).modDie d (fun x => { x with lastBusy := SMap.set x.lastBusy asid s.fc })

/-- QUIET_WINDOW_COMPLETE. -/
def execQuietWindowComplete (d : DieId) (asid : BitVec 16) (s : State) : Host.Outcome State Fault Refusal :=
  .next (quietStep s d asid.toNat)

/-- A report window is freed: its word 1 becomes 0 (R267). -/
def freeWindow (s : State) (d : DieId) (w : Nat) : State :=
  s.modDie d (fun x =>
    match SMap.find x.windows w with
    | some l => { x with windows := SMap.set x.windows w (listSet l 1 0) }
    | none => x)

/-- REPORT_WINDOW_FREE. -/
def execReportWindowFree (d : DieId) (w : BitVec 3) (s : State) : Host.Outcome State Fault Refusal :=
  .next (freeWindow s d w.toNat)

/-! ## Loss of decoupling (R269) -/

/-- The sites upstream of a list of sites: whatever feeds them through links. -/
def Region.upstream (r : Region) : Nat → List Nat → List Nat
  | 0, seen => seen
  | fuel + 1, seen =>
    let more := (seen.flatMap (fun i => (r.inputLinks i).map (fun l => l.2 / 9))).filter (fun i => !seen.contains i)
    if more.isEmpty then seen else r.upstream fuel (seen ++ more.eraseDups)

/-- A blocked site has an empty input fed, directly or through links, by a QPOP port bound to an OUT binding of the
same context. -/
def starved (s : State) (c : CtxId) : Bool :=
  match (s.ctx c).task with
  | none => false
  | some t =>
    match t.region with
    | none => false
    | some r =>
      (blockedSites s c).any (fun e =>
        let empty := (r.inputLinks e.1).filter (fun l => (SMap.getD r.links l.2 []).isEmpty)
        (r.upstream r.sites.length ((empty.map (fun l => l.2 / 9)).eraseDups)).any (fun i =>
          cfgOp (r.cfg i) == 0x80 && (match SMap.find t.queues (cfgAux (r.cfg i) % 64) with
                                      | some k => k.ends == 0 && !k.inward
                                      | none => false)))

/-- The queue of a context's wait whose producer is its region. -/
def regionWait (s : State) (c : CtxId) : Option Nat :=
  let fed (q : Nat) : Option Nat :=
    match (s.ctx c).endOf q with
    | some e => if e.1.dir == .inn && e.2.ends == 0 then some q else none
    | none => none
  match (s.ctx c).wait with
  | some ⟨.qEmpty q, _⟩ => fed q
  | some ⟨.queueBehind q false, _⟩ => fed q
  | _ => none

/-- LOD_EVENT: counted once per wait, and a trap LOD when LODTHR[63] = 1. -/
def lodStep (s : State) (c : CtxId) : State :=
  let x := s.ctx c
  let thr := x.sys.lodthr.toNat
  match regionWait s c, x.wait with
  | some q, some w =>
    if x.lodSeen || x.desched || thr % 2 ^ 32 == 0 || decide (s.now - w.since ≤ thr % 2 ^ 32) || !starved s c then s
    else
      let s := s.modCtx c (fun y => { y with lodSeen := true, task := y.task.map (fun t => { t with lodcnt := satAdd 32 t.lodcnt 1 }) })
      if bitOf thr 63 then trapEntry s c 0x21 q false false else s
  | _, _ => s

/-- LOD_EVENT (R269). -/
def execLodEvent (c : CtxId) (s : State) : Host.Outcome State Fault Refusal := .next (lodStep s c)

/-! ## Time passes -/

/-- An engine command of a context waits for room at the queue end of entry e: a push, or an index-engine command with a row
or its end to append. -/
def engineFills (s : State) (c : CtxId) (x : Ctx) (e : Nat) : Bool :=
  let full (q need : Nat) : Bool :=
    match x.endOf q with | some p => p.1.entry == e && decide (p.2.room < need) | none => false
  let lanes (q n : Nat) : Bool := match x.endOf q with | some p => full q (End.laneNeed p n) | none => false
  let pending (m : IxCmd) : Bool :=
    match m.kind with
    | 0 => true
    | 1 => !m.popped.isEmpty || m.found
    | 3 => (match m.rows[m.pos]? with
            | some (.row _ _ _) => decide ((SMap.getD m.arrived m.pos []).length = rowBytes m.record) || (SMap.find m.bad m.pos).isSome
            | _ => true)
    | 4 => true
    | _ => false
  !frozen s c
    && (x.pushes.any (fun p => if p.dead then full p.q 1 else lanes p.q (if p.element.2.1 = 8 then 2 else 1))
      || (s.core (coreOf c)).ix.any (fun m =>
          m.owner == c && pending m && !spBlocked s c m.seq m.ranges && lanes m.q (if m.kind = 4 then 1 + m.op else 1)))

/-- An index-engine command of a context waits for a token at the queue end of entry e. -/
def engineDrains (s : State) (c : CtxId) (x : Ctx) (e : Nat) : Bool :=
  !frozen s c && (s.core (coreOf c)).ix.any (fun m =>
    m.owner == c && (m.kind == 2 || (m.kind == 1 && m.popped.isEmpty && !m.found)) && !spBlocked s c m.seq m.ranges
      && (match x.endOf (sqOf m.record) with | some p => p.1.entry == e && p.1.cur.isNone && p.2.ctxQ.isEmpty | none => false))

/-- What `dc` cc and `df` fc of waiting add to a queue-table entry (Table 11.6): at a context's end in cc, where a word or an
engine command of the context waits; at a port operator's end in fc. -/
def stallQueue (s : State) (c : CtxId) (x : Ctx) (t : Task) (dc df : Nat) (e : Nat × Queue) : Nat × Queue :=
  let waits (w : Wait → Option Nat) : Bool :=
    match x.wait with
    | some a => (match w a.kind with | some q => (match SMap.find x.q q with | some b => b.entry == e.1 | none => false) | none => false)
    | none => false
  let (popping, pushing) : Bool × Bool :=
    match t.region with
    | some r =>
      if r.sealed || r.stopped || frozen s c then (false, false)
      else (r.ports.1.contains e.1 && e.2.portTokens.isEmpty,
            decide (32 ≤ e.2.portTokens.length) && r.sites.any (fun i =>
              (cfgOp i.2.cfg == 0x81 || cfgOp i.2.cfg == 0x82) && cfgAux i.2.cfg % 64 == e.1 && r.siteHolds [] i.1 i.2))
    | none => (false, false)
  let addC := (if waits (fun w => match w with | .qEmpty q => some q | _ => none) || engineDrains s c x e.1 then dc else 0)
    + (if popping then df else 0)
  let addP := (if waits (fun w => match w with | .qFull q _ => some q | _ => none) || engineFills s c x e.1 then dc else 0)
    + (if pushing then df else 0)
  (e.1, { e.2 with stallC := satAdd 32 e.2.stallC addC, stallP := satAdd 32 e.2.stallP addP })

/-- The stall counters of one context. -/
def stallCtx (s : State) (dc df : Nat) (e : Nat × Ctx) : Nat × Ctx :=
  (e.1, { e.2 with task := e.2.task.map (fun t => { t with queues := t.queues.map (stallQueue s e.1 e.2 t dc df) }) })

/-- Jobs with a busy context on their die. -/
def busyJobs (s : State) : List (DieId × Nat) :=
  (s.ctxs.filterMap (fun e => if keepsBusy s e.1 then (jobOf e.2).map (fun a => (dieOf e.1, a)) else none)).eraseDups

/-- The queue bound to q has no token at its region-side port. -/
def portStarved (x : Ctx) (q : Nat) : Bool :=
  match x.endOf q with | some (_, k) => k.ends == 0 && k.regQ.isEmpty | none => false

/-- The virtual address of the next read of an index-engine command, when it holds one unfinished. -/
def IxCmd.nextVa (m : IxCmd) : Option Nat :=
  match m.kind with
  | 0 => (match m.rows[m.pos]? with | some (.row _ va _) => some va | _ => none)
  | 1 => (match m.popped with | v :: _ => some (m.dh.vaAt (recBase m.record + (v.toNat * rowStride m.record : Nat))) | [] => none)
  | 3 => (match m.rows[m.pos]? with | some (.row _ va _) => some va | _ => none)
  | 4 => if m.pos < m.cnt then some (m.dh.vaAt (recBase m.record + (m.pos * scanBytes m.record : Nat))) else none
  | _ => none

/-- The job and windows in which a context's unfinished pushes and index reads starve their destinations (R285). -/
def starvedWindows (s : State) (c : CtxId) : List (Nat × Nat) :=
  let x := s.ctx c
  x.pushes.filterMap (fun p =>
      if !p.dead && portStarved x p.q then some (p.asid, p.hcopy.vaAt p.element.1 / 2 ^ 21) else none)
    ++ (s.core (coreOf c)).ix.filterMap (fun m =>
      if m.owner == c && portStarved x m.q then m.nextVa.map (fun va => (m.asid, va / 2 ^ 21)) else none)

/-- `dc` cc of starvation in a core's hotness table: each window counts a cc once. -/
def starveCore (s : State) (dc : Nat) (k : CoreId) : State :=
  let ws := ((List.range 16).flatMap (fun i => starvedWindows s (16 * k + i))).eraseDups
  ws.foldl (fun s w => hotCount s k w.1 (w.2 * 2 ^ 21) 0 dc) s

/-- RGATH has a request ready that the full reassembly buffer refuses (Table 16.1). -/
def gatherRefused (k : Core) : Bool :=
  (k.ix.zip (List.range k.ix.length)).any (fun m => m.1.kind == 3
    && (m.1.rows.zip (List.range m.1.rows.length)).any (fun r =>
      (match r.1 with | .row _ _ _ => true | _ => false) && decide (m.1.pos ≤ r.2)
        && (SMap.find m.1.bad r.2).isNone && rowRefused k m.2 m.1 r.2))

/-- Regions armed to stop that stand at their boundary stop as the fc ends (R399). -/
def stopArmed (s : State) : State :=
  (s.dies.map (fun e => e.1)).foldl (fun s d => if (s.die d).fsarm then fabricStopStep s d else s) s

/-- `dc` core cycles pass: stall, starvation and refusal counters rise, jobs with a busy context are noted, armed regions
stop, the clock advances, and counters that have been pending for 64 µs are written. -/
def elapse (s : State) (dc : Nat) : State :=
  if dc = 0 then s
  else
    let df := (s.now + dc) * 11 / 20 - s.fc
    let s := if df = 0 then s else stopArmed s
    let busy := busyJobs s
    let s := (s.cores.map (fun e => e.1)).foldl (starveCore · dc ·) s
    let s := { s with ctxs := s.ctxs.map (stallCtx s dc df)
                      cores := s.cores.map (fun (e : Nat × Core) => (e.1,
                        if gatherRefused e.2 then { e.2 with ixrstl := satAdd 64 e.2.ixrstl dc } else e.2))
                      now := s.now + dc }
    let s := busy.foldl (fun s b => s.modDie b.1 (fun x => { x with lastBusy := SMap.set x.lastBusy b.2 s.fc })) s
    ((s.cores.filter (fun (e : Nat × Core) => !e.2.cc.isEmpty)).map (fun (e : Nat × Core) => e.1)).foldl ccExpire s

end Sys2Proof.Machine
end

