-- ==== Sys2Proof/Machine/LoadStore.lean ====
section
/-! DEFINITION. The words of the memory chapter that reach memory through a handle: translation, handle moves, loads,
stores, atomics, updates, fences and line operations (R122 to R139), and the latching and taking of watch reports (R146,
R379). -/

namespace Sys2Proof.Machine

/-! ## Handles -/

/-- XLAT and XLAT.W: the handle is written after 32 steps (R122, R123). The lookup reads the lease list at its home: it waits
for a region that a host owns (R284) and recalls pending deltas (R136). -/
def xlatWord (s : State) (hd : Nat) (va : Nat) (write : Bool) : State :=
  let reads := translateGas s s.cur va
  match firstOwned s reads with
  | some w => waitFor s w
  | none =>
    let s := recallReads s s.myCore reads
    match translate s s.cur va write with
    | .error e => trap s e.1 e.2
    | .ok e => finish s 4 32 (.h hd (handleOf e va write))

/-- XLAT (R122). -/
def execXlat (p : Pred) (hd : BitVec 4) (a : BitVec 5) (s : State) : Host.Outcome State Fault Refusal :=
  .next (word s p (fun s => xlatWord s hd.toNat (s.x a).toNat false))

/-- XLAT.W (R122). -/
def execXlatW (p : Pred) (hd : BitVec 4) (a : BitVec 5) (s : State) : Host.Outcome State Fault Refusal :=
  .next (word s p (fun s => xlatWord s hd.toNat (s.x a).toNat true))

/-- HMV (R124). -/
def execHmv (p : Pred) (hd ha : BitVec 4) (s : State) : Host.Outcome State Fault Refusal :=
  .next (word s p (fun s =>
    let h := s.me.getH ha.toNat
    if h.v then finish s 4 1 (.h hd.toNat h) else trap s 0x12 ha.toNat))

/-- HREL (R124). -/
def execHrel (p : Pred) (ha : BitVec 4) (s : State) : Host.Outcome State Fault Refusal :=
  .next (word s p (fun s => finish s 4 1 (.h ha.toNat { s.me.getH ha.toNat with v := false })))

/-- HSPAN (R124, Table 5.2). -/
def execHspan (p : Pred) (d : BitVec 5) (ha : BitVec 4) (s : State) : Host.Outcome State Fault Refusal :=
  .next (word s p (fun s => finish s 4 1 (.x d.toNat (hspan (s.me.getH ha.toNat)))))

/-! ## Order and ordering annotations -/

/-- The page is STRONG (Table 12.2). -/
def Handle.strong (h : Handle) : Bool := h.ord == 0

/-- An access acts as an acquire (R343): STRONG, or annotated off an UNORD page. -/
def Handle.acquires (h : Handle) (o : Ord) : Bool := h.strong || ((o == .acq || o == .acqrel) && h.ord != 2)

/-- An access acts as a release (R343). -/
def Handle.releases (h : Handle) (o : Ord) : Bool := h.strong || ((o == .rel || o == .acqrel) && h.ord != 2)

/-- The trap FENCED of a store that wrote nothing is taken at a fence or release (R128). -/
def owedOr (s : State) (body : State → State) : State :=
  match s.me.owed with
  | some g => trap (s.modMe (fun c => { c with owed := none })) 0x51 g
  | none => body s

/-! ## Space 7 (R30) -/

/-- A load of an agent's register into x[x]; one of DCLRV that has waited takes its word (R391). -/
def agentLoad (s : State) (h : Handle) (x g n : Nat) : State :=
  match agentDenied s g n with
  | some e => trap s e.1 e.2
  | none =>
    if fenced s (pkgOf s.myDie) (.load true) g n then trap s 0x51 g
    else
      match agentRead s s.cur (gaDie g) (gaOff g) x with
      | .val v => finish (if agentAcquires (gaOff g) then acquire s else s) 4 4 (.x x (wordOf v))
      | .wait w =>
        match w, s.me.wait with
        | .dclrv d _, some ⟨.dclrv _ _, _⟩ =>
          if dclrvOwned s d then loadHold s h w else let t := dirtyTake s d; finish t.1 4 4 (.x x (wordOf t.2))
        | _, _ => loadHold s h w

/-- A store to an agent's register: after the rows of Table 1.12, the remaining checks of R121 for a write (log 108). It
performs at once, after the stores that a fence ordered before it (R345). -/
def agentStore (s : State) (h : Handle) (hn : Nat) (off : Word) (g n v : Nat) : State :=
  match agentDenied s g n with
  | some e => trap s e.1 e.2
  | none =>
    if storePriv s (gaDie g) (gaOff g) then trap s 0x03 g
    else
      match checkOwnWrite s s.cur h hn off n with
      | .error e => trap s e.1 e.2
      | .ok _ =>
        if fenced s (pkgOf s.myDie) .store g n then trap s 0x51 g
        else
          match agentStoreWait s (gaDie g) (gaOff g) v with
          | some w => waitFor s w
          | none => settleBefore s g n (fun s => retire (agentWrite s (some s.cur) (gaDie g) (gaOff g) v) 4)

/-! ## Loads -/

/-- The value a load reads under its request type: what the memory system supplies, under the context's own buffered
stores. -/
def readMem (s : State) (h : Handle) (rt : Rt) (g n : Nat) : State × Word :=
  let r := performRead s s.myCore s.me.sys.asid rt h.nt g n
  (r.1, wordOf (leNat (overlay s.me.sbuf g r.2)))

/-- A load of a BND page: in a read group it selects its version, and a version fetch is counted at the line's home
(R188, R189, R371). -/
def readBundled (s : State) (h : Handle) (rt : Rt) (g n : Nat) : State × Word :=
  match s.me.rg with
  | none => readMem s h rt g n
  | some grp =>
    let (grp, v) := grp.load s (lineOf g)
    let s := s.modMe (fun c => { c with rg := some grp })
    match v.data with
    | none => readMem s h rt g n
    | some l =>
      (s.modDie (gaDie g) (fun d => { d with vfetch := satAdd 64 d.vfetch 1 }), wordOf (leNat ((l.drop (g % 128)).take n)))

/-- A load that reaches a space of memory. -/
def memLoad (s : State) (h : Handle) (x : Nat) (rt : Rt) (ord : Ord) (g n : Nat) : State :=
  if fenced s (pkgOf s.myDie) (.load s.me.sys.pl) g n then trap s 0x51 g
  else
    match heldBy s s.me.sys.asid (effRt rt h.nt == .own) g with
    | some w => waitFor s w
    | none =>
      if prepared s g then loadHold s h (.prepared (lineOf g))
      else if hasUe s g n then trap s 0x50 g
      else
        settle s (fun b => h.strong && b.strong) (fun s =>
          let s := if h.bnd || h.acquires ord then acquire s else s
          let r := if h.bnd then readBundled s h rt g n else readMem s h rt g n
          finish r.1 4 4 (.x x r.2))

/-- A load through handle `hn` at an offset (R128). -/
def loadWord (s : State) (hn x : Nat) (sz : Size) (rt : Rt) (ord : Ord) (off : Word) : State :=
  let h := s.me.loadHandle hn
  let n := Size.bytes sz
  match accessAt h hn off n with
  | .error e => trap s e.1 e.2
  | .ok g => if gaSpace h.gbase = 7 then agentLoad s h x g n else memLoad s h x rt ord g n

/-- LD (R127, R128). -/
def execLd (p : Pred) (x : BitVec 5) (h : BitVec 4) (sz : Size) (rt : Rt) (ord : Ord) (off : BitVec 7) (s : State) :
    Host.Outcome State Fault Refusal :=
  .next (wordImm s p (fun s => loadWord s h.toNat x.toNat sz rt ord (offM s off sz)))

/-- LDX (R127, R128). -/
def execLdx (p : Pred) (x : BitVec 5) (h : BitVec 4) (sz : Size) (rt : Rt) (ord : Ord) (ix : BitVec 5) (s : State) :
    Host.Outcome State Fault Refusal :=
  .next (word s p (fun s => loadWord s h.toNat x.toNat sz rt ord (offMX s ix sz)))

/-! ## Stores -/

/-- A store as it enters the buffer. -/
def bufStore (c : Ctx) (h : Handle) (rt : Rt) (ord : Ord) (g : Nat) (bs : List Byte) : BufStore :=
  { ga := g, parts := (List.range bs.length).zip bs |>.map (fun b => (g + b.1, b.2)), rt := rt, nt := h.nt
    strong := h.strong, rel := h.releases ord, unord := h.ord == 2, scope := c.fscope, epoch := c.epoch, fences := c.fences
    entries := [h.entry], asid := c.sys.asid }

/-- A store that reaches a space of memory enters the store buffer; a package that is absent or fenced traps at issue, a region
that a host owns is waited for (R284), and a release takes the trap that an earlier store owes (R128), merges the context's
updates, and counts as standing between the stores on its two sides (R132). -/
def memStore (s : State) (h : Handle) (rt : Rt) (ord : Ord) (g : Nat) (bs : List Byte) : State :=
  if pkgGone s (pkgOf s.myDie) (gaPkg g) then trap s 0x51 g
  else
    match heldBy s s.me.sys.asid true g with
    | some w => waitFor s w
    | none =>
      let enter (s : State) : State :=
        retire (s.modMe (fun c => { c with sbuf := pushStore c.sbuf (bufStore c h rt ord g bs)
                                           fences := c.fences + b2n (h.releases ord) })) 4
      if h.releases ord then owedOr s (fun s => enter (mergeOwn s s.cur)) else enter s

/-- A store through handle `hn` at an offset (R128). -/
def storeWord (s : State) (hn : Nat) (sz : Size) (rt : Rt) (ord : Ord) (off v : Word) : State :=
  let h := s.me.getH hn
  let n := Size.bytes sz
  match accessAt h hn off n with
  | .error e => trap s e.1 e.2
  | .ok g =>
    if gaSpace h.gbase = 7 then agentStore s h hn off g n v.toNat
    else
      match checkOwnWrite s s.cur h hn off n with
      | .error e => trap s e.1 e.2
      | .ok g => memStore s h rt ord g (leBytes n v.toNat)

/-- ST (R127, R128). -/
def execSt (p : Pred) (x : BitVec 5) (h : BitVec 4) (sz : Size) (rt : Rt) (ord : Ord) (off : BitVec 7) (s : State) :
    Host.Outcome State Fault Refusal :=
  .next (wordImm s p (fun s => storeWord s h.toNat sz rt ord (offM s off sz) (s.x x)))

/-- STX (R127, R128). -/
def execStx (p : Pred) (x : BitVec 5) (h : BitVec 4) (sz : Size) (rt : Rt) (ord : Ord) (ix : BitVec 5) (s : State) :
    Host.Outcome State Fault Refusal :=
  .next (word s p (fun s => storeWord s h.toNat sz rt ord (offMX s ix sz) (s.x x)))

/-! ## Atomics -/

/-- The new value of an atomic, and whether it writes (R134). `b` is CAS's new value. -/
def amoResult (op : AmoOp) (n old a b : Nat) : Nat × Bool :=
  match op with
  | .swap => (a, true)
  | .add => ((old + a) % 2 ^ (8 * n), true)
  | .and => (old &&& a, true)
  | .or => (old ||| a, true)
  | .xor => (old ^^^ a, true)
  | .min => (if signed (8 * n) old < signed (8 * n) a then old else a, true)
  | .max => (if signed (8 * n) old < signed (8 * n) a then a else old, true)
  | .cas => (b, old == a)

/-- The core's L1 holds the line with ownership. -/
def ownsLine (s : State) (k : CoreId) (line : Nat) : Bool := SMap.find (s.core k).l1 line == some true

/-- The write of an atomic, with the scope it leaves at the line's home (R134, R353). -/
def amoWrite (s : State) (h : Handle) (scope : Scope) (near : Bool) (g n v : Nat) : State :=
  let k := s.myCore
  let s := performWrite s (.own s.cur) k s.me.sys.asid (if near then .own else .uc) h.nt g (leBytes n v)
  { s with scopes := if scope = .domain then SMap.erase s.scopes (lineOf g) else SMap.set s.scopes (lineOf g) (k, scope) }

/-- The indivisible read-modify-write (R134): 6 steps in the L1 at scope CORE, else 24. A CAS that fails matches watchpoints
too (R146). -/
def amoPerform (s : State) (h : Handle) (x : Nat) (op : AmoOp) (scope : Scope) (g n : Nat) : State :=
  let k := s.myCore
  let a := s.me.getX x
  let b := s.me.getX (x + 1)
  let near := scope == .core && ownsLine s k (lineOf g) && !h.nt
  let s := coherentRead s k g n
  let s := s.modCore k (fun q => { q with si := SMap.erase q.si (lineOf g) })
  let old := s.peek g n
  let r := amoResult op n old (a.toNat % 2 ^ (8 * n)) (b.toNat % 2 ^ (8 * n))
  let s := if r.2 then amoWrite s h scope near g n r.1 else { s with hits := s.hits ++ watchHits s (.own s.cur) g n }
  finish s 4 (if near then 6 else 24) (.x x (wordOf old))

/-- An atomic or update of space 7: the rows of Table 1.12, and FENCED, since Table 1.8 admits loads and stores alone. -/
def agentRefuse (s : State) (g n : Nat) : State := let e := (agentDenied s g n).getD (0x51, g); trap s e.1 e.2

/-- AMO through handle `hn` at a byte offset: the checks, then the order that its annotation asks for (R133, R134). -/
def amoWord (s : State) (hn x : Nat) (op : AmoOp) (n : Nat) (scope : Scope) (ord : Ord) (off : Word) : State :=
  let h := s.me.getH hn
  match (if gaSpace h.gbase = 7 then accessAt h hn off n else checkOwnWrite s s.cur h hn off n) with
  | .error e => trap s e.1 e.2
  | .ok g =>
    if gaSpace h.gbase = 7 then agentRefuse s g n
    else if fenced s (pkgOf s.myDie) .store g n then trap s 0x51 g
    else
      match heldBy s s.me.sys.asid true g with
      | some w => waitFor s w
      | none =>
        if hasUe s g n then trap s 0x50 g
        else
          let go (s : State) : State := amoPerform (if h.acquires ord then acquire s else s) h x op scope g n
          if h.releases ord then release s go else settleBefore s g n go

/-- AMO (R133, R134). -/
def execAmo (p : Pred) (x : BitVec 5) (h : BitVec 4) (y : BitVec 5) (op : AmoOp) (dbl : Bool) (scope : Scope) (ord : Ord)
    (s : State) : Host.Outcome State Fault Refusal :=
  .next (word s p (fun s => amoWord s h.toNat x.toNat op (if dbl then 8 else 4) scope ord (s.x y)))

/-! ## Updates -/

/-- UPD through handle `hn` at a byte offset (R135, R136). One that completes FENCED for any reason but its package writes
nothing and owes its trap, as a store does (R128). On a STRONG page it is a release, as a store is (R343). -/
def updWord (s : State) (hn : Nat) (op : UpdOp) (off v : Word) : State :=
  let h := s.me.getH hn
  let n := updWidth op
  match (if gaSpace h.gbase = 7 then accessAt h hn off n else checkOwnWrite s s.cur h hn off n) with
  | .error e => trap s e.1 e.2
  | .ok g =>
    if gaSpace h.gbase = 7 then agentRefuse s g n
    else if pkgGone s (pkgOf s.myDie) (gaPkg g) then trap s 0x51 g
    else if fenced s (pkgOf s.myDie) .store g n then
      retire (s.modMe (fun c => { c with owed := match c.owed with | some a => some a | none => some g })) 4
    else
      match heldBy s s.me.sys.asid true g with
      | some w => waitFor s w
      | none =>
        let enter (s : State) : State :=
          retire (addDelta s s.myCore ⟨g, op, v.toNat % 2 ^ (8 * n), [(s.cur, s.me.sys.asid)], false⟩ h.nt) 4
        if h.strong then
          owedOr s (fun s => settle s (fun b => b.before s.me.epoch g n || !b.unord) (fun s => enter (mergeOwn s s.cur)))
        else settleBefore s g n enter

/-- UPD (R135). -/
def execUpd (p : Pred) (op : UpdOp) (x : BitVec 5) (h : BitVec 4) (y : BitVec 5) (s : State) :
    Host.Outcome State Fault Refusal :=
  .next (word s p (fun s => updWord s h.toNat op (s.x y) (s.x x)))

/-! ## Fences and line operations -/

/-- Accesses after the fence belong to a later epoch; a rel or full fence narrower than DOMAIN leaves its scope with the
lines written after it (R138, R353). -/
def Ctx.passFence (c : Ctx) (scope : Scope) : Ctx :=
  { c with epoch := c.epoch + 1, fences := c.fences + 1, fscope := if scope = .domain then none else some scope }

/-- FENCE (R138). -/
def execFence (p : Pred) (kind : FenceKind) (scope : Scope) (s : State) : Host.Outcome State Fault Refusal :=
  .next (word s p (fun s =>
    match kind with
    | .full => release s (fun s => retire (acquire (s.modMe (fun c => c.passFence scope))) 4)
    | .rel => owedOr s (fun s => retire ((mergeOwn s s.cur).modMe (fun c => c.passFence scope)) 4)
    | .acq => owedOr s (fun s => retire (acquire (s.modMe (fun c => { c with fences := c.fences + 1 }))) 4)))

/-- The line that a line operation names: HINV, then BOUNDS (R139). -/
def lineNamed (s : State) (hn : Nat) (off : Word) : Except Cause Nat := checkRead (s.me.getH hn) hn off 1 false

/-- A line operation: own buffered stores to the line perform first. -/
def lineWord (s : State) (hn : Nat) (off : Word) (act : State → CoreId → Nat → State) : State :=
  match lineNamed s hn off with
  | .error e => trap s e.1 e.2
  | .ok g => settleBefore s (lineOf g * 128) 128 (fun s => retire (act s s.myCore (lineOf g)) 4)

/-- CLEAN (R139). -/
def execClean (p : Pred) (ha : BitVec 4) (b : BitVec 5) (s : State) : Host.Outcome State Fault Refusal :=
  .next (word s p (fun s => lineWord s ha.toNat (s.x b) cleanLine))

/-- INVL (R139), at privilege S. -/
def execInvl (p : Pred) (ha : BitVec 4) (b : BitVec 5) (s : State) : Host.Outcome State Fault Refusal :=
  .next (word s p (fun s => privileged s (.invl p ha b) (fun s => lineWord s ha.toNat (s.x b) invalidateLine)))

/-- FLUSHL (R139). -/
def execFlushl (p : Pred) (ha : BitVec 4) (b : BitVec 5) (s : State) : Host.Outcome State Fault Refusal :=
  .next (word s p (fun s => lineWord s ha.toNat (s.x b) flushLine))

/-- PREFL (R139): an OWN read of the line, or nothing when a check fails or the read could not complete now. -/
def execPrefl (p : Pred) (ha : BitVec 4) (b : BitVec 5) (s : State) : Host.Outcome State Fault Refusal :=
  .next (word s p (fun s =>
    let h := s.me.getH ha.toNat
    match lineNamed s ha.toNat (s.x b) with
    | .error _ => retire s 4
    | .ok g =>
      let a := lineOf g * 128
      if 2 < gaSpace g || fenced s (pkgOf s.myDie) (.load s.me.sys.pl) a 128
          || (heldBy s s.me.sys.asid (effRt .own h.nt == .own) a).isSome || prepared s a then retire s 4
      else retire (performRead s s.myCore s.me.sys.asid .own h.nt a 128).1 4))

/-- ICINV (R139, R67): the loop buffer is emptied, its pinned block too. -/
def execIcinv (p : Pred) (s : State) : Host.Outcome State Fault Refusal :=
  .next (word s p (fun s => retire (s.modMe (fun c => { c with blk := { c.blk with buf := [], pin := none } })) 4))

/-! ## Watch reports -/

/-- WATCH_REPORT_LATCH: the oldest match of watchpoint n of a context is latched (R146). -/
def execWatchReportLatch (c : CtxId) (n : BitVec 2) (s : State) : Host.Outcome State Fault Refusal :=
  .next (
    match s.hits.findIdx? (fun h => h.ctx == c && h.n == n.toNat) with
    | some i =>
      match s.hits[i]? with
      | some h => { s with hits := listDrop s.hits i }.modCtx c (fun x => latchHit x h.n h.eva h.engine)
      | none => s
    | none => s)

/-- WATCH_REPORT_TAKE: the lower-numbered report first. -/
def execWatchReportTake (c : CtxId) (s : State) : Host.Outcome State Fault Refusal :=
  .next (
    let x := s.ctx c
    match x.wreport with
    | (n, eva) :: _ =>
      if x.watchDue then
        trapEntry (s.modCtx c (fun y => { y with wreport := SMap.erase y.wreport n, wengine := SMap.erase y.wengine n })) c 0x28 eva.toNat false false
      else s
    | [] => s)

end Sys2Proof.Machine
end

