-- ==== Sys2Proof/Machine/SysWords.lean ====
section
/-! DEFINITION. MFS and MTS (R104 to R106): the system registers of a context, the report windows (R267), the task status
window (R268), the region number (R394) and the scheduler state (R400). -/

namespace Sys2Proof.Machine

/-- The waits of which the rules say that they freeze a context of exposed mode (R91): an access that cannot meet its latency
(R128, R175), QPUT at a full end (R150), an index-engine instruction in its checks (R164), and MQ (R233). The others are waits only
(R249; log 135). -/
def Wait.freezes : Wait → Bool
  | .qFull _ _ | .mqFull _ | .ownership _ _ | .prepared _ | .walk _ _ | .ltstat _ _ | .plstat _ _ | .dclrv _ _ | .ccflush _ _
  | .mctl _ _ | .pmctl _ _ => true
  | _ => false

/-- A context is frozen (R91): a word of exposed mode waits in one of these, and what it needs has not come. An access completes in
the step that makes it, so that no latency freezes a context of the model (log 1). -/
def frozenStep (s : State) (c : CtxId) : Bool :=
  let x := s.ctx c
  x.run && !x.blk.m && !x.desched && (match x.wait with | some w => w.kind.freezes && waitHolds s c w.kind | none => false)

/-- CTXSTATE: runnable contexts, contexts holding a run, contexts in a trap handler, frozen contexts. -/
def ctxState (s : State) (k : CoreId) : Nat :=
  (List.range 16).foldl (fun n i =>
    let x := s.ctx (16 * k + i)
    n + (b2n (runnable s (16 * k + i)) + b2n x.run * 2 ^ 16 + b2n (decide (0 < x.trapDepth)) * 2 ^ 32
      + b2n (frozenStep s (16 * k + i)) * 2 ^ 48) * 2 ^ i) 0

/-- CTXPRI. -/
def ctxPri (s : State) (k : CoreId) : Nat :=
  (List.range 16).foldl (fun n i =>
    let x := s.ctx (16 * k + i)
    n + (x.sys.pri + b2n x.task.isSome * 8) * 2 ^ (4 * i)) 0

/-- LASTISS. -/
def lastIssued (k : Core) : Nat := (List.range 8).foldl (fun n i => n + SMap.getD k.lastIss i 0 % 16 * 2 ^ (4 * i)) 0

/-- CHRUN. -/
def chRun (s : State) (k : CoreId) : Nat := (List.range 64).foldl (fun n i => n + b2n (chanRunnable s k i) * 2 ^ i) 0

/-- QVIEW: a binding of the context QSEL; 0 for an unbound q and for a context that has ended. -/
def qView (s : State) (k : CoreId) (q : Nat) : Word :=
  let x := s.ctx (16 * k + (s.core k).qsel)
  if x.ended then 0 else match x.endOf q with | some e => End.stat e | none => 0

/-- FOCC: the occupied positions of a parcel: those of a placed rectangle (R260), and every one of a parcel that the start left
unstarted (R403). -/
def parcelOcc (s : State) (d : DieId) (p : Nat) : Nat :=
  let taken := deadParcels (s.die d) ++ placedRects s d
  (List.range 64).foldl (fun n i =>
    if taken.any (fun t => t.meets ⟨8 * (p % 6) + i % 8, 8 * (p / 6) + i / 8, 1, 1⟩) then n + 2 ^ i else n) 0

/-- The scheduler registers (Table 24.3); unlisted numbers read 0. -/
def schedRead (s : State) (c : CtxId) (n : Nat) : Word :=
  let k := coreOf c
  let d := s.die (dieOf c)
  let next := nextLaunch d
  if n < 0x340 then wordOf (chanWord1 s k (n - 0x300))
  else if n = 0x340 then wordOf (ctxState s k)
  else if n = 0x341 then wordOf (ctxPri s k)
  else if n = 0x342 then wordOf (lastIssued (s.core k))
  else if n = 0x343 then wordOf (chRun s k)
  else if n = 0x34F then wordOf (s.core k).qsel
  else if 0x350 ≤ n && n < 0x360 then qView s k (n - 0x350)
  else if 0x380 ≤ n && n < 0x398 then wordOf (parcelOcc s (dieOf c) (n - 0x380))
  else if n = 0x398 then
    wordOf ((d.launches.filter (fun l => decide (l.next < l.groups))).length % 32
      + (match next with | some l => l.num % 2 ^ 32 | none => 0) * 2 ^ 32)
  else if n = 0x399 then wordOf (match next with | some l => l.next % 2 ^ 48 | none => 0)
  else if n = 0x39A then wordOf (d.rrptr % 64)
  else 0

/-- The task status window (Table 11.6) and the region number (R394); 0 for a context that serves no task. -/
def statusRead (s : State) (c : CtxId) (n : Nat) : Word :=
  match (s.ctx c).task with
  | none => 0
  | some t =>
    if n = 0x200 then
      wordOf (regionState s c + (match t.region with | some r => r.fault * 2 ^ 8 + r.mbcnt % 2 ^ 32 * 2 ^ 32 | none => 0))
    else if n = 0x201 then wordOf t.lodcnt
    else if n = 0x202 then wordOf (match t.region with | some r => r.regno | none => 0)
    else
      match SMap.find t.queues (n - 0x210) with
      | some q => wordOf (q.stallC * 2 ^ 32 + q.stallP)
      | none => 0

/-- TASKID (Table 4.5). -/
def taskId (x : Ctx) : Word :=
  match x.task with
  | some t => wordOf (t.tx % 2 ^ 16 + t.ty % 2 ^ 16 * 2 ^ 16 + t.tz % 2 ^ 16 * 2 ^ 32 + t.tidx % 64 * 2 ^ 48)
  | none => 0

/-- REFNXT (R296): the windows of a die open every 4 µs from the start of its weight store, group by group. A die whose
weight store has not started reads 0. -/
def refNext (s : State) (d : DieId) : Word :=
  match (s.die d).refresh with
  | none => 0
  | some t =>
    let n := (s.now - t + 7999) / 8000
    wordOf (8000 * n - (s.now - t) + n % 16 * 2 ^ 32)

/-- Numbers that a register or window of R104 to R106, R267, R268, R394 or R400 has. -/
def sysAssigned (n : Nat) : Bool :=
  (Sys.reset.read false n).isSome || n == 0x040 || n == 0x042 || n == 0x043 || n == 0x044
    || (decide (0x100 ≤ n) && decide (n < 0x203)) || (decide (0x210 ≤ n) && decide (n < 0x250))
    || (decide (0x300 ≤ n) && decide (n < 0x400))

/-- Numbers read at privilege S (Tables 4.5, 24.3; R267). -/
def sysReadS (n : Nat) : Bool :=
  if n < 0x100 then !([0x000, 0x011, 0x020, 0x040, 0x042, 0x043, 0x044].contains n)
  else decide (n < 0x200) || decide (0x300 ≤ n)

/-- The value of an assigned number. -/
def sysRead (s : State) (c : CtxId) (n : Nat) : Word :=
  let x := s.ctx c
  if n < 0x100 then
    match x.sys.read x.blk.m n with
    | some v => v
    | none =>
      match n with
      | 0x040 => wordOf (s.now % 2 ^ 64)
      | 0x042 => taskId x
      | 0x043 => wordOf (coreId s c)
      | 0x044 => refNext s (dieOf c)
      | _ => 0
  else if n < 0x200 then wordOf ((SMap.getD (s.die (dieOf c)).windows ((n - 0x100) / 32) []).getD (n % 32) 0)
  else if n < 0x300 then statusRead s c n
  else schedRead s c n

/-- Numbers that MTS writes: registers of the context, word 1 of a report window, QSEL. -/
def sysWritten (n : Nat) : Bool :=
  (Sys.reset.read false n).isSome || (decide (0x100 ≤ n) && decide (n < 0x200) && n % 32 == 1) || n == 0x34F

/-- A write of a number: a report window is freed by a 0 (R267). -/
def sysWrite (s : State) (c : CtxId) (n : Nat) (v : Word) : State :=
  if n < 0x100 then s.modCtx c (fun x => { x with sys := x.sys.write n v })
  else if n < 0x200 then (if v = 0 then freeWindow s (dieOf c) ((n - 0x100) / 32) else s)
  else s.modCore (coreOf c) (fun k => { k with qsel := v.toNat % 16 })

/-- MFS (R106): latency 2 (Table 4.2). -/
def execMfs (p : Pred) (d : BitVec 5) (sreg : BitVec 11) (s : State) : Host.Outcome State Fault Refusal :=
  .next (word s p (fun s =>
    let n := sreg.toNat
    if !sysAssigned n then trapWord s 0x01 (.mfs p d sreg)
    else if sysReadS n && !s.me.sys.pl then trapWord s 0x03 (.mfs p d sreg)
    else finish s 4 2 (.x d.toNat (sysRead s s.cur n))))

/-- MTS (R106). Only LODTHR is written at U. -/
def execMts (p : Pred) (sreg : BitVec 11) (a : BitVec 5) (s : State) : Host.Outcome State Fault Refusal :=
  .next (word s p (fun s =>
    let n := sreg.toNat
    if !sysAssigned n || !sysWritten n then trapWord s 0x01 (.mts p sreg a)
    else if n != 0x020 && !s.me.sys.pl then trapWord s 0x03 (.mts p sreg a)
    else retire (sysWrite s s.cur n (s.x a)) 4))

end Sys2Proof.Machine
end

