-- ==== Sys2Proof/Machine/Package.lean ====
section
/-! DEFINITION. The package: staged start, firmware, attestation, the event ring, bugle beats, fences and rejoining,
thermal limits, the management port of a bonded die pair (R402 to R415). -/

namespace Sys2Proof.Machine

/-! ## Power -/

/-- Whether a line's home lies in a package. -/
def linePkg (line : Nat) : PkgId := gaPkg (line * 128)

/-- Bundles that a package coordinates and that dies of other packages know: the survivors resolve them (R370). -/
def orphansOf (s : State) (p : PkgId) : SMap Bundle :=
  let away (c : CtxId) : Bool := pkgOf (dieOf c) != p
  s.dies.foldl (fun m e =>
    if pkgOf e.1 != p then m
    else
      e.2.bundles.foldl (fun m b =>
        if b.2.holders.any away || b.2.parts.any (fun d => pkgOf d != p) || b.2.tags.any (fun t => away t.2.2) then
          SMap.set m b.1 b.2
        else m) m) s.orphans

/-- A die goes on after package `p` lost power: its cores' requests there and the contexts of `p` that its agents served go. -/
def Die.without (p : PkgId) (k : Die) : Die :=
  let here (c : CtxId) : Bool := pkgOf (dieOf c) != p
  { k with snoop := k.snoop.filter (fun e => linePkg e.1 != p)
           fills := k.fills.filter (fun x => x.who.all here)
           walks := k.walks.map (fun w => { w with askers := w.askers.filter (fun a => here a.ctx) })
           poolOps := k.poolOps.filter (fun o => match o.who with
             | .vfree c => here c
             | .plpush c _ => here c
             | .walk d _ => pkgOf d != p
             | .lost d => pkgOf d != p
             | .port _ _ => true) }

/-- A core goes on after package `p` lost power: it holds no copy of a line of `p`. -/
def Core.without (p : PkgId) (k : Core) : Core :=
  { k with l1 := k.l1.filter (fun e => linePkg e.1 != p), si := k.si.filter (fun e => linePkg e.1 != p) }

/-- Stores to PLPUSH whose pushes can no longer be performed read BAD (R330). -/
def failPushes (s : State) (gone : DieId → PoolOp → Bool) : State :=
  (s.dies.flatMap (fun e => e.2.poolOps.filter (gone e.1))).foldl (fun s o =>
    match o.who with
    | .plpush c _ => s.modCtx c (fun x => { x with plstat := 2 })
    | .port d _ => s.modDie d (fun x => { x with portPl := 2 })
    | _ => s) s

/-- The dies of a package lose power: their memory, cores, contexts and agents go, their copies of other packages' lines
are lost with their dirty words, and what was in flight to or from them goes. -/
def losePower (s : State) (p : PkgId) : State :=
  let mineCore (k : CoreId) : Bool := pkgOf (dieOfCore k) == p
  let s := failPushes s (fun d o => pkgOf d == p && pkgOf o.from' != p)
  let s := s.dirty.foldl (fun s e =>
    if mineCore e.2.core && linePkg e.1 != p then
      let g := e.1 * 128
      { s with mem := Mem.setBytes s.mem g (withoutDirty (s.bytesAt g 128) e.2) }
    else s) s
  { s with
    orphans := orphansOf s p
    mem := s.mem.filter (fun c => gaPkg c.1 != p)
    pkgs := s.pkgs.map (fun (e : PkgId × Pkg) =>
      (e.1, { e.2 with hostAsks := e.2.hostAsks.filter (fun r => pkgOf r.1 != p)
                       hostCopies := e.2.hostCopies.filter (fun l => linePkg l != p) }))
    dies := (s.dies.filter (fun e => pkgOf e.1 != p)).map (fun (e : DieId × Die) => (e.1, e.2.without p))
    cores := (s.cores.filter (fun e => !mineCore e.1)).map (fun (e : CoreId × Core) => (e.1, e.2.without p))
    ctxs := s.ctxs.filter (fun e => pkgOf (dieOf e.1) != p)
    dir := (s.dir.filter (fun e => linePkg e.1 != p)).map (fun e => (e.1, (List.range 4).foldl (fun x i => dirDrop x (4 * p + i)) e.2))
    dirty := s.dirty.filter (fun e => linePkg e.1 != p && !mineCore e.2.core)
    scopes := s.scopes.filter (fun e => linePkg e.1 != p && !mineCore e.2.1)
    bmsgs := s.bmsgs.filter (fun m => pkgOf m.src != p && pkgOf m.dst != p)
    cmsgs := s.cmsgs.filter (fun m => pkgOf m.src != p && pkgOf m.dst != p)
    hits := s.hits.filter (fun h => pkgOf (dieOf h.ctx) != p)
    ue := s.ue.filter (fun a => gaPkg a != p) }

/-- The package as its Purser begins to run: fuses stay, the straps are sampled (R402, R405). -/
def Pkg.boot (k : Pkg) (now : Nat) : Pkg :=
  { Pkg.reset with power := true, bootAt := now, fuses := k.fuses
                   personality := if k.fuses.pfix then k.fuses.psel else k.fuses.pers, bifSel := k.fuses.bifSel }

/-- POWER_ON (R402). Power may come on again at any time: everything but the fuses starts anew. -/
def execPowerOn (p : PkgId) (s : State) : Host.Outcome State Fault Refusal :=
  .next ((losePower s p).modPkg p (fun k => k.boot s.now))

/-! ## Firmware (R405, R406) -/

/-- 1 s in cc. -/
def second : Nat := 2000000000

/-- The stage is 1, or about to be: no image has been taken. -/
def Pkg.seeking (k : Pkg) : Bool := k.power && decide (k.stage ≤ 1) && k.failcode != 0x11

/-- The image that the fall-back source offers: what the server named in fuse MGMT gives, once an Ultra Ethernet port trains. -/
def Fuses.fallBack (f : Fuses) : List (List Byte) := if f.port then (SMap.find f.servers f.mgmt).toList else []

/-- The widths of the links into which the ×16 port stands split (R405, R409): a root complex splits it as BIF selects. -/
def Pkg.split (k : Pkg) : List Nat :=
  if k.personality != 1 then [16] else match k.bifSel with | .two8 => [8, 8] | .four4 => [4, 4, 4, 4]

/-- The images offered, in the order of Table 25.3. -/
def Pkg.sources (k : Pkg) : List (List Byte) :=
  match k.personality with
  | 0 => match k.image with | some i => [i] | none => []
  | 1 => k.fuses.nvme ++ k.fuses.fallBack
  | _ => k.fuses.fallBack

/-- What is wrong with an image (R406): `some 0` for a magic value that has no failure code. -/
def imageFault (f : Fuses) (i : List Byte) : Option Nat :=
  if leNat (i.take 4) != 0x5855524B then some 0
  else if !Config.signatureOk i || Config.shake256 (Config.imageKey i) != f.pkh then some 0x12
  else if Config.imageSvn i < f.svnmin then some 0x13
  else none

/-- The first valid image, and the failure code after the ones passed over. -/
def firstValid (f : Fuses) : List (List Byte) → Nat → Option (List Byte) × Nat
  | [], code => (none, code)
  | i :: l, code =>
    match imageFault f i with
    | none => (some i, code)
    | some 0 => firstValid f l code
    | some c => firstValid f l c

/-- A capacity within the limits of R415, else the shipped one. -/
def capOr (v most shipped : Nat) : Nat := if v % 65536 = 0 && decide (65536 ≤ v) && decide (v ≤ most) then v else shipped

/-- The M-level state that firmware writes on a die at stage 1 (R402, R415). -/
def firmwareDie (i : List Byte) (s : State) (d : DieId) : State :=
  let w (n : Nat) : Nat := Config.firmwareWrites i n d
  let s := mWrite (mWrite (mWrite s d 0x110030 (w 0)) d 0x100018 (w 1)) d 0x100020 (w 2)
  let s := s.modDie d (fun x => { x with ctcap := capOr (w 3) (2 ^ 26) (2 ^ 24), rscap := capOr (w 4) (2 ^ 24) (2 ^ 22) })
  if d % 4 = 0 then s.modPkg (pkgOf d) (fun k => { k with evbase := gaOf (w 5) / 65536 * 65536 }) else s

/-- The takeover table: each address names one taker, the first that it is listed for (R411). -/
def takeoverTable (t : Nat → Option (Nat × List Nat)) : SMap (PkgId × List Nat) :=
  (List.range 64).foldl (fun m q =>
    match t q with
    | some (k, l) => m ++ [(q, k, (l.filter (fun a => !m.any (fun e => e.2.2.contains a))).eraseDups)]
    | none => m) []

/-- FIRMWARE_LOAD: the port is split as the personality asks, the first valid image of its sources is taken and measured, and
stage 1 ends; with none the package stays in stage 1 (R405 to R407). -/
def execFirmwareLoad (p : PkgId) (s : State) : Host.Outcome State Fault Refusal :=
  .next (
    let k := s.pkg p
    if !k.seeking then s
    else
      let s := s.modPkg p (fun k => { k with lanes := k.split })
      let (img, code) := firstValid k.fuses k.sources k.failcode
      match img with
      | none => s.modPkg p (fun k => { k with stage := 1, failcode := code, image := none })
      | some i =>
        let s := s.modPkg p (fun k =>
          { k with stage := 2, unit := 0, failcode := code, fwsvn := Config.imageSvn i % 2 ^ 16
                   measures := k.measures ++ [Config.shake256 i]
                   takeover := takeoverTable (Config.takeover i), portPlan := Config.yalzalPorts i })
        (List.range 4).foldl (fun s j => firmwareDie i s (4 * p + j)) s)

/-- The host of an endpoint may still supply an image: 60 s have not passed since power-on (R405). -/
def Pkg.awaits (k : Pkg) (now : Nat) : Bool := k.seeking && k.personality == 0 && decide (now < k.bootAt + 60 * second)

/-- The host of an endpoint has supplied a valid image. -/
def Pkg.supplied (k : Pkg) : Bool := match k.image with | some i => (imageFault k.fuses i).isNone | none => false

/-- DOORBELL: an image stands in the BAR2 window of an endpoint (R405). -/
def execDoorbell (p : PkgId) (image : List Byte) (s : State) : Host.Outcome State Fault Refusal :=
  .next (if (s.pkg p).awaits s.now then s.modPkg p (fun k => { k with image := some image }) else s)

/-- FIRMWARE_TIMEOUT: an endpoint whose host has supplied no valid image within 60 s stays in stage 1 (R405). -/
def execFirmwareTimeout (p : PkgId) (s : State) : Host.Outcome State Fault Refusal :=
  .next (
    let k := s.pkg p
    if k.seeking && k.personality == 0 && !k.supplied && decide (k.bootAt + 60 * second ≤ s.now) then
      s.modPkg p (fun k => { k with stage := 1, failcode := 0x11 })
    else s)

/-! ## Stages 2 to 5 (R402, R403) -/

/-- The units of a stage (Table 25.1). -/
def stageSize : Nat → Nat | 2 => 8 | 3 => 4 | 4 => 32 | _ => 96

/-- The next unit, stage, or the end of the start: after stage 5, or with every die left unstarted. -/
def Pkg.nextUnit (k : Pkg) : Pkg :=
  if k.unit + 1 < stageSize k.stage then { k with unit := k.unit + 1 }
  else if k.stage == 5 || (k.stage == 2 && k.stackBad == 15) || (k.stage == 3 && k.diemap == 0) then { k with stage := 15, unit := 0 }
  else { k with stage := k.stage + 1, unit := 0 }

/-- Sets bits of a map's entry. -/
def addBits (m : SMap Nat) (i v : Nat) : SMap Nat := SMap.set m i (SMap.getD m i 0 ||| v)

/-- The unit of a stage under way passes or fails its own test, and the start goes on. -/
def unitStep (s : State) (p : PkgId) (stage : Nat) (act : State → Nat → State) : State :=
  let k := s.pkg p
  if !k.power || k.shutdown || k.stage != stage then s else (act s k.unit).modPkg p Pkg.nextUnit

/-- A bonded die whose management port has not been accessed stays at stage 0 (R414). -/
def Pkg.asleep (k : Pkg) (u : Nat) : Bool := k.fuses.lone.getLsbD u && SMap.getD k.mgmt u 0 != 1

/-- HBM_STACK_START: a stack is trained and its half of the die's HBM zeroed; a failed stack leaves its die unstarted. -/
def execHbmStackStart (p : PkgId) (ok : Bool) (s : State) : Host.Outcome State Fault Refusal :=
  .next (unitStep s p 2 (fun s u =>
    let lo := mkGa (4 * p + u / 2) 0 (u % 2 * 2 ^ 36)
    if (s.pkg p).asleep (u / 2) then s
    else if ok then { s with mem := clearRange s.mem lo (2 ^ 36) }
    else s.modPkg p (fun k => { k with stackBad := k.stackBad ||| BitVec.ofNat 4 (2 ^ (u / 2)) })))

/-- The four scale-up ports of a die (R414). -/
def diePorts (u : Nat) : BitVec 16 := BitVec.ofNat 16 (15 * 2 ^ (4 * u))

/-- CDIE_START: a C-die whose stacks have started; a bonded pair also needs its controller (R414), whose stages for it stand in the
package's order of Table 25.1, under the number that its straps give: DEDUCED (log 147). Its first refresh
period begins here (R296), and its scale-up ports are configured until the next start (R409). -/
def execCdieStart (p : PkgId) (ok : Bool) (s : State) : Host.Outcome State Fault Refusal :=
  .next (unitStep s p 3 (fun s u =>
    let k := s.pkg p
    if !ok || k.stackBad.getLsbD u || k.asleep u then s
    else
      (s.modDie (4 * p + u) (fun d => { d with started := true, refresh := some s.now })).modPkg p (fun k =>
        { k with diemap := k.diemap ||| BitVec.ofNat 4 (2 ^ u), yalzal := k.yalzal ||| (k.portPlan &&& diePorts u) })))

/-- One access core starts, and DEFTVEC is copied into its contexts (R112). -/
def startCore (s : State) (k : CoreId) : State :=
  let tv := wordOf (s.die (dieOfCore k)).deftvec
  let s := s.modCore k (fun x => { x with started := true })
  (List.range 16).foldl (fun s i => s.modCtx (16 * k + i) (fun x => { x with sys := { x.sys with tvec := tv } })) s

/-- AC_GROUP_START. -/
def execAcGroupStart (p : PkgId) (ok : Bool) (s : State) : Host.Outcome State Fault Refusal :=
  .next (unitStep s p 4 (fun s u =>
    let d := 4 * p + u / 8
    if !ok || !(s.die d).started then s
    else
      ((List.range 8).foldl (fun s i => startCore s (64 * d + 8 * (u % 8) + i)) s).modPkg p (fun k =>
        { k with acmap := addBits k.acmap (u / 8) (255 * 2 ^ (8 * (u % 8))) })))

/-- PARCEL_START. -/
def execParcelStart (p : PkgId) (ok : Bool) (s : State) : Host.Outcome State Fault Refusal :=
  .next (unitStep s p 5 (fun s u =>
    let d := 4 * p + u / 24
    if !ok || !(s.die d).started then s
    else
      (s.modDie d (fun x => { x with parcels := x.parcels ||| BitVec.ofNat 24 (2 ^ (u % 24)) })).modPkg p (fun k =>
        { k with parmap := addBits k.parmap (u / 24) (2 ^ (u % 24)) })))

/-! ## Attestation and SVNMIN (R406, R407) -/

/-- ATTESTATION_REQUEST, over the management port or from the host: the report holds the measurements, FWSVN, DIEMAP, the nonce
and the package identity, signed. A request must itself be signed, from either side (log 124). -/
def execAttestationRequest (p : PkgId) (req : AttestRequest) (s : State) :
    Host.Outcome State Fault Refusal :=
  .next (
    let k := s.pkg p
    if !k.power || !req.signed || decide (32 < req.nonce.length) then s
    else
      let body := k.measures ++ [k.fwsvn, k.diemap.toNat, req.nonce.length, leNat req.nonce, Config.identity p]
      s.modPkg p (fun k => { k with report := some (body ++ [Config.identitySign p body]) }))

/-- SVN_RAISE: only on a signed command, and never during a start. -/
def execSvnRaise (p : PkgId) (svn : BitVec 16) (signed : Bool) (s : State) : Host.Outcome State Fault Refusal :=
  .next (
    let k := s.pkg p
    if k.power && signed && k.stage == 15 && decide (k.fuses.svnmin < svn.toNat) then
      s.modPkg p (fun k => { k with fuses := { k.fuses with svnmin := svn.toNat } })
    else s)

/-! ## The event ring (R408) -/

/-- Record k of the ring. -/
def eventBytes (k : Nat) (e : Event) : List Byte :=
  leBytes 8 k ++ leBytes 2 e.source ++ leBytes 2 (Config.eventCode e.code) ++ leBytes 20 e.payload

/-- The arbiter's oldest event is written into the ring, once the die that holds the ring runs, and EVHEAD rises. A region that a
host owns is waited for (R284). -/
def putEvent (s : State) (p : PkgId) : State :=
  let k := s.pkg p
  match k.events with
  | [] => s
  | e :: l =>
    let g := k.evbase + 32 * (k.evhead % 2048)
    if !k.power || fenced s p .engine g 32 || procOwned s g then s
    else
      ((claimLines s g 32).put g (eventBytes k.evhead e)).modPkg p (fun k =>
        { k with events := l, evhead := (k.evhead + 1) % 2 ^ 64 })

/-- An event is written once the fc of its receipt is over, since one of a lower source number received in that fc comes before
it (R408). -/
def writeEvent (s : State) (p : PkgId) : State :=
  match (s.pkg p).events with
  | e :: _ => if e.fc < s.fc then putEvent s p else s
  | [] => s

/-- EVENT_RECORD. -/
def execEventRecord (p : PkgId) (s : State) : Host.Outcome State Fault Refusal := .next (writeEvent s p)

/-! ## Bugle beats, fences (R410, R411) -/

/-- 50 µs in cc. -/
def beatEvery : Nat := 100000

/-- A Yalzal port of the package has trained: its die has started (R409). -/
def Pkg.linked (k : Pkg) : Bool := k.power && !k.shutdown && k.yalzal != 0

/-- BUGLE_BEAT_SEND: once in 50 µs to each neighbour, over the ports that join the two (log 133). -/
def execBugleBeatSend (p neighbour : PkgId) (s : State) : Host.Outcome State Fault Refusal :=
  .next (
    let k := s.pkg p
    let early := match SMap.find k.beatsSent neighbour with | some t => decide (s.now < t + beatEvery) | none => false
    if p = neighbour || !k.linked || early then s
    else s.modPkg p (fun k => { k with beatsSent := SMap.set k.beatsSent neighbour s.now }))

/-- The next miss of a neighbour's beats, when it is due: the first falls 55 µs after the last beat, each further one 50 µs later; the
third declares the neighbour silent and is recorded. -/
def missBeat (s : State) (p neighbour : PkgId) : State :=
  let k := s.pkg p
  let m := SMap.getD k.missed neighbour 0
  match SMap.find k.lastBeat neighbour with
  | none => s
  | some t =>
    if !k.linked || decide (3 ≤ m) || k.silent.contains neighbour || decide (s.now < t + 110000 + beatEvery * m) then s
    else
      let s := s.modPkg p (fun k => { k with missed := SMap.set k.missed neighbour (m + 1) })
      if m + 1 = 3 then record s p 0 5 neighbour else s

/-- BUGLE_BEAT_RECEIVE: a beat of the neighbour not yet received restarts the count, after the misses that came before it; beats of a
package declared silent or fenced are ignored. -/
def execBugleBeatReceive (p neighbour : PkgId) (s : State) : Host.Outcome State Fault Refusal :=
  .next (
    let fresh := match SMap.find (s.pkg neighbour).beatsSent p, SMap.find (s.pkg p).lastBeat neighbour with
                 | some t, some l => decide (l < t)
                 | some _, none => true
                 | none, _ => false
    if !(s.pkg p).linked || !fresh || (s.pkg p).silent.contains neighbour then s
    else
      let s := (List.range 3).foldl (fun s _ => missBeat s p neighbour) s
      if 3 ≤ SMap.getD (s.pkg p).missed neighbour 0 then s
      else s.modPkg p (fun k => { k with lastBeat := SMap.set k.lastBeat neighbour s.now, missed := SMap.set k.missed neighbour 0 }))

/-- BEAT_MISS (R410). -/
def execBeatMiss (p neighbour : PkgId) (s : State) : Host.Outcome State Fault Refusal := .next (missBeat s p neighbour)

/-- PACKAGE_FENCE: a declaration of silence reaches a package, which fences the silent one, takes over its addresses when
the table names it, and resolves the bundles it shares with it (R370, R411). -/
def execPackageFence (p silent : PkgId) (s : State) : Host.Outcome State Fault Refusal :=
  .next (
    let declared := s.pkgs.any (fun e => e.1 != silent && decide (3 ≤ SMap.getD e.2.missed silent 0))
    let k := s.pkg p
    if p = silent || !k.power || k.silent.contains silent || !declared then s
    else
      let s := s.modPkg p (fun k =>
        { k with silent := k.silent ++ [silent], fencedAt := SMap.set k.fencedAt silent s.now
                 taken := match SMap.find k.takeover silent with
                   | some (q, l) => if q = p then SMap.set k.taken silent l else k.taken
                   | none => k.taken })
      let lost (d : DieId) (o : PoolOp) : Bool := pkgOf d == silent && pkgOf o.from' == p
      let s := failPushes s lost
      let s := { s with dies := s.dies.map (fun (e : DieId × Die) => (e.1, { e.2 with poolOps := e.2.poolOps.filter (fun o => !lost e.1 o) })) }
      bundlesOnSilence s p silent)

/-- PACKAGE_REJOIN: a package that has started again since it was fenced rejoins. -/
def execPackageRejoin (p : PkgId) (s : State) : Host.Outcome State Fault Refusal :=
  .next (
    let k := s.pkg p
    if !k.power || k.stage != 15 then s
    else
      { s with pkgs := s.pkgs.map (fun e =>
          (e.1,
            if e.2.silent.contains p && decide (SMap.getD e.2.fencedAt p 0 ≤ k.bootAt) then
              { e.2 with silent := e.2.silent.erase p, fencedAt := SMap.erase e.2.fencedAt p
                         missed := SMap.erase e.2.missed p, lastBeat := SMap.erase e.2.lastBeat p
                         taken := SMap.erase e.2.taken p }
            else e.2)) })

/-! ## Power and heat (R413) -/

/-- THERMAL_THROTTLE: the Purser measures a die's temperature and the draw; a duty pattern while a die is above 95 °C or the package
above 2,400 W. It changes only timing. -/
def execThermalThrottle (p : PkgId) (die : BitVec 2) (celsius watts : Nat) (s : State) : Host.Outcome State Fault Refusal :=
  .next (
    let bit : BitVec 4 := BitVec.ofNat 4 (2 ^ die.toNat)
    s.modPkg p (fun k =>
      { k with celsius := SMap.set k.celsius die.toNat celsius, watts := watts
               throttled := if 95 < celsius || 2400 < watts then k.throttled ||| bit else k.throttled &&& ~~~bit }))

/-- THERMAL_SHUTDOWN: at 105 °C the event is written, after those received before this fc, and the dies lose power, until the
next start; the Purser goes on. Its events come first in their fc (R408). -/
def execThermalShutdown (p : PkgId) (die : BitVec 2) (celsius : Nat) (s : State) : Host.Outcome State Fault Refusal :=
  .next (
    if !(s.pkg p).power || (s.pkg p).shutdown || decide (celsius < 105) then s
    else
      let s := record s p 0 6 die.toNat
      let s := ((s.pkg p).events.filter (fun e => decide (e.fc < s.fc) || e.source == 0)).foldl (fun s _ => putEvent s p) s
      (losePower s p).modPkg p (fun k => { k with shutdown := true, diemap := 0, acmap := [], parmap := [] }))

/-! ## The host interface (R284, R404) -/

/-- Whether an address names the window of a package's Purser agent, which the host reaches through BAR0 (R404). -/
def inBar (p : PkgId) (g : Nat) : Bool :=
  gaSpace g == 7 && gaDie g == 4 * p && decide (0x160000 ≤ gaOff g) && decide (gaOff g < 0x170000)

/-- A host's access to the Purser agent through BAR0: aligned 8-byte reads of Table 25.2. A host is not level M and writes none of
its registers. -/
def hostBar (s : State) (p : PkgId) (off n : Nat) (write : Option Word) : State :=
  if !(s.pkg p).power || !purserHere s (4 * p) || n != 8 || off % 8 != 0 || write.isSome then s
  else s.modPkg p (fun k => { k with readData := purserRead s p off })

/-- HOST_ACCESS: a host's read of `n` bytes, or its write of a value, through the host interface of a package: of memory, or of the
Purser agent, which the model puts at the address that it has in space 7 (log 74). -/
def execHostAccess (p : PkgId) (ga : Word) (n : Nat) (write : Option Word) (s : State) : Host.Outcome State Fault Refusal :=
  .next (
    let g := gaOf ga.toNat
    if inBar p g then hostBar s p (gaOff g - 0x160000) n write else hostAccess s p g n write)

/-! ## The management port (R414) -/

/-- A write through the port to a register of the die, those of level M included. -/
def mgmtWrite (s : State) (d : DieId) (off v : Nat) : State := mWrite (agentWrite s none d off v) d off v

/-- What the port gives beside the registers (R414): the die's temperature and draw, and its oldest event with the sequence number
0. The spec gives them no address; the model puts them past the offsets of space 7 (log 134). -/
def portTemperature : Nat := 2 ^ 44
/-- The draw. -/
def portDraw : Nat := 2 ^ 44 + 8
/-- The oldest event. -/
def portEvent : Nat := 2 ^ 44 + 16

/-- A read through the port. The controller is no context: a register whose load waits returns what it holds, and DCLRV takes its
word. -/
def mgmtRead (s : State) (p : PkgId) (d : DieId) (off : Nat) : State :=
  let k := s.pkg p
  let give (v : Nat) : State := s.modPkg p (fun k => { k with readData := v })
  if off = 0x140010 then
    if dclrvOwned s d then s else let t := dirtyTake s d; t.1.modPkg p (fun k => { k with readData := t.2 })
  else if off = 0x100008 then give (s.die d).portLt
  else if off = 0x120010 then give (s.die d).portPl
  else if off = portTemperature then give (SMap.getD k.celsius (d % 4) 0)
  else if off = portDraw then give k.watts
  else if off = portEvent then
    match SMap.getD k.dieEvents (d % 4) [] with
    | [] => give 0
    | e :: l => s.modPkg p (fun k => { k with readData := leNat (eventBytes 0 e), dieEvents := SMap.set k.dieEvents (d % 4) l })
  else
    match agentRead s 0 d off 0 with
    | .val v => give v
    | .wait _ => s

/-- The port of a die saw no access within 1 s of power-on: the die stays at stage 0 (R414). -/
def Pkg.missedPort (k : Pkg) (now u : Nat) : Bool := (SMap.find k.mgmt u).isNone && decide (k.bootAt + second ≤ now)

/-- MGMT_PORT_ACCESS: the external controller of a bonded die pair reads or writes a register of the die's space 7. A read
of DCLRV has that register's effect. -/
def execMgmtPortAccess (d : DieId) (off : Nat) (write : Option Word) (s : State) : Host.Outcome State Fault Refusal :=
  .next (
    let p := pkgOf d
    let k := s.pkg p
    let u := d % 4
    if !k.power || k.shutdown || !k.fuses.lone.getLsbD u || SMap.find k.mgmt u == some 0 then s
    else if k.missedPort s.now u then s.modPkg p (fun k => { k with mgmt := SMap.set k.mgmt u 0 })
    else
      let s := s.modPkg p (fun k => { k with mgmt := SMap.set k.mgmt u 1 })
      match write with
      | some v => if off % 8 = 0 then mgmtWrite s d off v.toNat else s
      | none => if off % 8 = 0 then mgmtRead s p d off else s)

/-- MGMT_TIMEOUT: a die whose port saw no access within 1 s of power-on stays at stage 0. -/
def execMgmtTimeout (p : PkgId) (d : DieId) (s : State) : Host.Outcome State Fault Refusal :=
  .next (
    let k := s.pkg p
    if k.power && pkgOf d == p && k.fuses.lone.getLsbD (d % 4) && k.missedPort s.now (d % 4) then
      s.modPkg p (fun k => { k with mgmt := SMap.set k.mgmt (d % 4) 0 })
    else s)

end Sys2Proof.Machine
end

