-- ==== Sys2Proof/Machine/Dispatch.lean ====
section
/-! DEFINITION. One arm per row of the opcode table: each calls the row's meaning. -/

namespace Sys2Proof.Machine

/-- The meaning of a row. -/
def exec (i : Instr) (s : State) : Host.Outcome State Fault Refusal :=
  match i with
  | .hdr rep len l e m => Sys2Proof.Machine.execHdr rep len l e m s
  | .add p d a b => Sys2Proof.Machine.execAdd p d a b s
  | .sub p d a b => Sys2Proof.Machine.execSub p d a b s
  | .mul p d a b => Sys2Proof.Machine.execMul p d a b s
  | .mulh p d a b => Sys2Proof.Machine.execMulh p d a b s
  | .mulhu p d a b => Sys2Proof.Machine.execMulhu p d a b s
  | .div p d a b => Sys2Proof.Machine.execDiv p d a b s
  | .divu p d a b => Sys2Proof.Machine.execDivu p d a b s
  | .rem p d a b => Sys2Proof.Machine.execRem p d a b s
  | .remu p d a b => Sys2Proof.Machine.execRemu p d a b s
  | .and p d a b => Sys2Proof.Machine.execAnd p d a b s
  | .or p d a b => Sys2Proof.Machine.execOr p d a b s
  | .xor p d a b => Sys2Proof.Machine.execXor p d a b s
  | .andn p d a b => Sys2Proof.Machine.execAndn p d a b s
  | .shl p d a b => Sys2Proof.Machine.execShl p d a b s
  | .shr p d a b => Sys2Proof.Machine.execShr p d a b s
  | .sar p d a b => Sys2Proof.Machine.execSar p d a b s
  | .ror p d a b => Sys2Proof.Machine.execRor p d a b s
  | .min p d a b => Sys2Proof.Machine.execMin p d a b s
  | .max p d a b => Sys2Proof.Machine.execMax p d a b s
  | .minu p d a b => Sys2Proof.Machine.execMinu p d a b s
  | .maxu p d a b => Sys2Proof.Machine.execMaxu p d a b s
  | .clz p d a => Sys2Proof.Machine.execClz p d a s
  | .ctz p d a => Sys2Proof.Machine.execCtz p d a s
  | .popc p d a => Sys2Proof.Machine.execPopc p d a s
  | .bswap p d a => Sys2Proof.Machine.execBswap p d a s
  | .sextB p d a => Sys2Proof.Machine.execSextB p d a s
  | .sextH p d a => Sys2Proof.Machine.execSextH p d a s
  | .sextW p d a => Sys2Proof.Machine.execSextW p d a s
  | .zextW p d a => Sys2Proof.Machine.execZextW p d a s
  | .bfins p d a b => Sys2Proof.Machine.execBfins p d a b s
  | .cmpEq p pd a b => Sys2Proof.Machine.execCmpEq p pd a b s
  | .cmpNe p pd a b => Sys2Proof.Machine.execCmpNe p pd a b s
  | .cmpLt p pd a b => Sys2Proof.Machine.execCmpLt p pd a b s
  | .cmpGe p pd a b => Sys2Proof.Machine.execCmpGe p pd a b s
  | .cmpLtu p pd a b => Sys2Proof.Machine.execCmpLtu p pd a b s
  | .cmpGeu p pd a b => Sys2Proof.Machine.execCmpGeu p pd a b s
  | .pand p pd pa pb => Sys2Proof.Machine.execPand p pd pa pb s
  | .por p pd pa pb => Sys2Proof.Machine.execPor p pd pa pb s
  | .pxor p pd pa pb => Sys2Proof.Machine.execPxor p pd pa pb s
  | .pandn p pd pa pb => Sys2Proof.Machine.execPandn p pd pa pb s
  | .mvpx p d pa => Sys2Proof.Machine.execMvpx p d pa s
  | .mvxp p pd a => Sys2Proof.Machine.execMvxp p pd a s
  | .jr p a => Sys2Proof.Machine.execJr p a s
  | .callr p d a b => Sys2Proof.Machine.execCallr p d a b s
  | .addi p d a imm => Sys2Proof.Machine.execAddi p d a imm s
  | .andi p d a imm => Sys2Proof.Machine.execAndi p d a imm s
  | .ori p d a imm => Sys2Proof.Machine.execOri p d a imm s
  | .xori p d a imm => Sys2Proof.Machine.execXori p d a imm s
  | .shli p d a sh => Sys2Proof.Machine.execShli p d a sh s
  | .shri p d a sh => Sys2Proof.Machine.execShri p d a sh s
  | .sari p d a sh => Sys2Proof.Machine.execSari p d a sh s
  | .rori p d a sh => Sys2Proof.Machine.execRori p d a sh s
  | .cmpiEq p pd a imm => Sys2Proof.Machine.execCmpiEq p pd a imm s
  | .cmpiNe p pd a imm => Sys2Proof.Machine.execCmpiNe p pd a imm s
  | .cmpiLt p pd a imm => Sys2Proof.Machine.execCmpiLt p pd a imm s
  | .cmpiLtu p pd a imm => Sys2Proof.Machine.execCmpiLtu p pd a imm s
  | .bfx p d a wm1 pos => Sys2Proof.Machine.execBfx p d a wm1 pos s
  | .bfxs p d a wm1 pos => Sys2Proof.Machine.execBfxs p d a wm1 pos s
  | .li p d imm => Sys2Proof.Machine.execLi p d imm s
  | .imx payload => Sys2Proof.Machine.execImx payload s
  | .br p disp => Sys2Proof.Machine.execBr p disp s
  | .call p disp => Sys2Proof.Machine.execCall p disp s
  | .brq p q disp => Sys2Proof.Machine.execBrq p q disp s
  | .brqN p q disp => Sys2Proof.Machine.execBrqN p q disp s
  | .ld p x h sz rt ord off => Sys2Proof.Machine.execLd p x h sz rt ord off s
  | .st p x h sz rt ord off => Sys2Proof.Machine.execSt p x h sz rt ord off s
  | .ldx p x h sz rt ord ix => Sys2Proof.Machine.execLdx p x h sz rt ord ix s
  | .stx p x h sz rt ord ix => Sys2Proof.Machine.execStx p x h sz rt ord ix s
  | .amo p x h y op dbl scope ord => Sys2Proof.Machine.execAmo p x h y op dbl scope ord s
  | .xlat p hd a => Sys2Proof.Machine.execXlat p hd a s
  | .xlatW p hd a => Sys2Proof.Machine.execXlatW p hd a s
  | .hmv p hd ha => Sys2Proof.Machine.execHmv p hd ha s
  | .hrel p ha => Sys2Proof.Machine.execHrel p ha s
  | .hspan p d ha => Sys2Proof.Machine.execHspan p d ha s
  | .fence p kind scope => Sys2Proof.Machine.execFence p kind scope s
  | .clean p ha b => Sys2Proof.Machine.execClean p ha b s
  | .invl p ha b => Sys2Proof.Machine.execInvl p ha b s
  | .flushl p ha b => Sys2Proof.Machine.execFlushl p ha b s
  | .prefl p ha b => Sys2Proof.Machine.execPrefl p ha b s
  | .icinv p => Sys2Proof.Machine.execIcinv p s
  | .hshoot p a => Sys2Proof.Machine.execHshoot p a s
  | .sendw p a b => Sys2Proof.Machine.execSendw p a b s
  | .waitch p d => Sys2Proof.Machine.execWaitch p d s
  | .yield p => Sys2Proof.Machine.execYield p s
  | .endt p => Sys2Proof.Machine.execEndt p s
  | .launch p d a hb => Sys2Proof.Machine.execLaunch p d a hb s
  | .barv p a => Sys2Proof.Machine.execBarv p a s
  | .barw p a => Sys2Proof.Machine.execBarw p a s
  | .trap p n => Sys2Proof.Machine.execTrap p n s
  | .bkpt p => Sys2Proof.Machine.execBkpt p s
  | .reth p => Sys2Proof.Machine.execReth p s
  | .bbh p n => Sys2Proof.Machine.execBbh p n s
  | .mfs p d sreg => Sys2Proof.Machine.execMfs p d sreg s
  | .mts p sreg a => Sys2Proof.Machine.execMts p sreg a s
  | .qputW p q x => Sys2Proof.Machine.execQputW p q x s
  | .qputD p q x => Sys2Proof.Machine.execQputD p q x s
  | .qputT p q x => Sys2Proof.Machine.execQputT p q x s
  | .qputEos p q => Sys2Proof.Machine.execQputEos p q s
  | .qputEeos p q => Sys2Proof.Machine.execQputEeos p q s
  | .qpopW p x q => Sys2Proof.Machine.execQpopW p x q s
  | .qpopD p x q => Sys2Proof.Machine.execQpopD p x q s
  | .qpopT p x q => Sys2Proof.Machine.execQpopT p x q s
  | .qpopSkip p x q => Sys2Proof.Machine.execQpopSkip p x q s
  | .qflusht p q => Sys2Proof.Machine.execQflusht p q s
  | .qstat p x q => Sys2Proof.Machine.execQstat p x q s
  | .bqpush p q x => Sys2Proof.Machine.execBqpush p q x s
  | .bqpop p x q => Sys2Proof.Machine.execBqpop p x q s
  | .upd p op x h y => Sys2Proof.Machine.execUpd p op x h y s
  | .sopen p sn x => Sys2Proof.Machine.execSopen p sn x s
  | .spush p sn q x => Sys2Proof.Machine.execSpush p sn q x s
  | .sadv p sn x => Sys2Proof.Machine.execSadv p sn x s
  | .stend p pd sn => Sys2Proof.Machine.execStend p pd sn s
  | .sclose p sn => Sys2Proof.Machine.execSclose p sn s
  | .fopen p f x => Sys2Proof.Machine.execFopen p f x s
  | .fpush p f q x => Sys2Proof.Machine.execFpush p f q x s
  | .fadv p f x => Sys2Proof.Machine.execFadv p f x s
  | .ftend p sel pd f => Sys2Proof.Machine.execFtend p sel pd f s
  | .fclose p f => Sys2Proof.Machine.execFclose p f s
  | .cpy p tag x => Sys2Proof.Machine.execCpy p tag x s
  | .cpyS p tag x => Sys2Proof.Machine.execCpyS p tag x s
  | .wtany p x y => Sys2Proof.Machine.execWtany p x y s
  | .wtall p x y => Sys2Proof.Machine.execWtall p x y s
  | .ffr p x y => Sys2Proof.Machine.execFfr p x y s
  | .gath p e q x y => Sys2Proof.Machine.execGath p e q x y s
  | .gathq p e q x y => Sys2Proof.Machine.execGathq p e q x y s
  | .scat p op h x y => Sys2Proof.Machine.execScat p op h x y s
  | .rgath p e q x y => Sys2Proof.Machine.execRgath p e q x y s
  | .nzscan p pairs e q x y => Sys2Proof.Machine.execNzscan p pairs e q x y s
  | .vopen p y h x => Sys2Proof.Machine.execVopen p y h x s
  | .ldc p acq sz x y c => Sys2Proof.Machine.execLdc p acq sz x y c s
  | .stc p rel sz x y c => Sys2Proof.Machine.execStc p rel sz x y c s
  | .updc p op x y c => Sys2Proof.Machine.execUpdc p op x y c s
  | .vpush p q y c => Sys2Proof.Machine.execVpush p q y c s
  | .vprobe p x y c => Sys2Proof.Machine.execVprobe p x y c s
  | .vfree p y c => Sys2Proof.Machine.execVfree p y c s
  | .vclose p y => Sys2Proof.Machine.execVclose p y s
  | .vshoot p a => Sys2Proof.Machine.execVshoot p a s
  | .bopen p d x => Sys2Proof.Machine.execBopen p d x s
  | .bst p d sz x h y => Sys2Proof.Machine.execBst p d sz x h y s
  | .bclose p d tag => Sys2Proof.Machine.execBclose p d tag s
  | .babort p d => Sys2Proof.Machine.execBabort p d s
  | .rgbeg p => Sys2Proof.Machine.execRgbeg p s
  | .rgend p x => Sys2Proof.Machine.execRgend p x s
  | .mq p x => Sys2Proof.Machine.execMq p x s
  | .mqNb p pd x => Sys2Proof.Machine.execMqNb p pd x s
  | .mqcan p f x => Sys2Proof.Machine.execMqcan p f x s
  | .waitb p b x => Sys2Proof.Machine.execWaitb p b x s
  | .hint c => Sys2Proof.Machine.execHint c s
  | .mvs d a => Sys2Proof.Machine.execMvs d a s
  | .adds d imm => Sys2Proof.Machine.execAdds d imm s
  | .lis d imm => Sys2Proof.Machine.execLis d imm s
  | .qputs q a => Sys2Proof.Machine.execQputs q a s
  | .qpops d q => Sys2Proof.Machine.execQpops d q s
  | .badop w => Sys2Proof.Machine.execBadop w s
  | .timerTrap c => Sys2Proof.Machine.execTimerTrap c s
  | .storePerform c idx => Sys2Proof.Machine.execStorePerform c idx s
  | .ownershipTransfer d region => Sys2Proof.Machine.execOwnershipTransfer d region s
  | .hostAccess p ga n write => Sys2Proof.Machine.execHostAccess p ga n write s
  | .forcedPublish line reader => Sys2Proof.Machine.execForcedPublish line reader s
  | .copyRequest k tag => Sys2Proof.Machine.execCopyRequest k tag s
  | .streamRead c sn => Sys2Proof.Machine.execStreamRead c sn s
  | .fibreRead c f => Sys2Proof.Machine.execFibreRead c f s
  | .gathRow k idx => Sys2Proof.Machine.execGathRow k idx s
  | .gathqIndex k idx => Sys2Proof.Machine.execGathqIndex k idx s
  | .scatRow k idx => Sys2Proof.Machine.execScatRow k idx s
  | .rgathReply k idx row => Sys2Proof.Machine.execRgathReply k idx row s
  | .nzscanAppend k idx => Sys2Proof.Machine.execNzscanAppend k idx s
  | .watchReportLatch c n => Sys2Proof.Machine.execWatchReportLatch c n s
  | .watchReportTake c => Sys2Proof.Machine.execWatchReportTake c s
  | .counterCacheTimeout k idx => Sys2Proof.Machine.execCounterCacheTimeout k idx s
  | .channelWordArrival k ch word => Sys2Proof.Machine.execChannelWordArrival k ch word s
  | .handlerStart k ctx => Sys2Proof.Machine.execHandlerStart k ctx s
  | .handlerTableWrite k ch word1 v => Sys2Proof.Machine.execHandlerTableWrite k ch word1 v s
  | .groupPlace d => Sys2Proof.Machine.execGroupPlace d s
  | .taskComplete c => Sys2Proof.Machine.execTaskComplete c s
  | .chainToken c e => Sys2Proof.Machine.execChainToken c e s
  | .quietWindowComplete d asid => Sys2Proof.Machine.execQuietWindowComplete d asid s
  | .lodEvent c => Sys2Proof.Machine.execLodEvent c s
  | .qtimeo c => Sys2Proof.Machine.execQtimeo c s
  | .bstConflictTimeout c => Sys2Proof.Machine.execBstConflictTimeout c s
  | .pairTimeout c sa => Sys2Proof.Machine.execPairTimeout c sa s
  | .mzero c sa => Sys2Proof.Machine.execMzero c sa s
  | .mloadb c sa => Sys2Proof.Machine.execMloadb c sa s
  | .mmul c sa => Sys2Proof.Machine.execMmul c sa s
  | .mmulp c sa => Sys2Proof.Machine.execMmulp c sa s
  | .mread c sa => Sys2Proof.Machine.execMread c sa s
  | .mbar c sa => Sys2Proof.Machine.execMbar c sa s
  | .mrddiag c sa => Sys2Proof.Machine.execMrddiag c sa s
  | .aPortEos c sa port => Sys2Proof.Machine.execAPortEos c sa port s
  | .refreshWindowStart d g => Sys2Proof.Machine.execRefreshWindowStart d g s
  | .refreshWindowEnd d g => Sys2Proof.Machine.execRefreshWindowEnd d g s
  | .fabricAdd c col row => Sys2Proof.Machine.execFabricAdd c col row s
  | .fabricSub c col row => Sys2Proof.Machine.execFabricSub c col row s
  | .fabricMul c col row => Sys2Proof.Machine.execFabricMul c col row s
  | .fabricFma c col row => Sys2Proof.Machine.execFabricFma c col row s
  | .fabricFms c col row => Sys2Proof.Machine.execFabricFms c col row s
  | .fabricNeg c col row => Sys2Proof.Machine.execFabricNeg c col row s
  | .fabricAbs c col row => Sys2Proof.Machine.execFabricAbs c col row s
  | .fabricMin c col row => Sys2Proof.Machine.execFabricMin c col row s
  | .fabricMax c col row => Sys2Proof.Machine.execFabricMax c col row s
  | .fabricAnd c col row => Sys2Proof.Machine.execFabricAnd c col row s
  | .fabricOr c col row => Sys2Proof.Machine.execFabricOr c col row s
  | .fabricXor c col row => Sys2Proof.Machine.execFabricXor c col row s
  | .fabricNot c col row => Sys2Proof.Machine.execFabricNot c col row s
  | .fabricShl c col row => Sys2Proof.Machine.execFabricShl c col row s
  | .fabricShr c col row => Sys2Proof.Machine.execFabricShr c col row s
  | .fabricSar c col row => Sys2Proof.Machine.execFabricSar c col row s
  | .fabricMulhi c col row => Sys2Proof.Machine.execFabricMulhi c col row s
  | .fabricCmpeq c col row => Sys2Proof.Machine.execFabricCmpeq c col row s
  | .fabricCmpne c col row => Sys2Proof.Machine.execFabricCmpne c col row s
  | .fabricCmplt c col row => Sys2Proof.Machine.execFabricCmplt c col row s
  | .fabricCmple c col row => Sys2Proof.Machine.execFabricCmple c col row s
  | .fabricClass c col row => Sys2Proof.Machine.execFabricClass c col row s
  | .fabricClamp c col row => Sys2Proof.Machine.execFabricClamp c col row s
  | .fabricBcast c col row => Sys2Proof.Machine.execFabricBcast c col row s
  | .fabricRsum c col row => Sys2Proof.Machine.execFabricRsum c col row s
  | .fabricRmax c col row => Sys2Proof.Machine.execFabricRmax c col row s
  | .fabricRmin c col row => Sys2Proof.Machine.execFabricRmin c col row s
  | .fabricShuf c col row => Sys2Proof.Machine.execFabricShuf c col row s
  | .fabricRotl c col row => Sys2Proof.Machine.execFabricRotl c col row s
  | .fabricPack c col row => Sys2Proof.Machine.execFabricPack c col row s
  | .fabricUnpk c col row => Sys2Proof.Machine.execFabricUnpk c col row s
  | .fabricCadd c col row => Sys2Proof.Machine.execFabricCadd c col row s
  | .fabricPopc c col row => Sys2Proof.Machine.execFabricPopc c col row s
  | .fabricClz c col row => Sys2Proof.Machine.execFabricClz c col row s
  | .fabricRint c col row => Sys2Proof.Machine.execFabricRint c col row s
  | .fabricCopysign c col row => Sys2Proof.Machine.execFabricCopysign c col row s
  | .fabricLaneid c col row => Sys2Proof.Machine.execFabricLaneid c col row s
  | .fabricRscan c col row => Sys2Proof.Machine.execFabricRscan c col row s
  | .fabricAbsdiff c col row => Sys2Proof.Machine.execFabricAbsdiff c col row s
  | .fabricCvt c col row => Sys2Proof.Machine.execFabricCvt c col row s
  | .fabricCvtBf16 c col row => Sys2Proof.Machine.execFabricCvtBf16 c col row s
  | .fabricCvtFp16 c col row => Sys2Proof.Machine.execFabricCvtFp16 c col row s
  | .fabricCvtI8 c col row => Sys2Proof.Machine.execFabricCvtI8 c col row s
  | .fabricCvtSdbDecode c col row => Sys2Proof.Machine.execFabricCvtSdbDecode c col row s
  | .fabricCvtSdbEncode c col row => Sys2Proof.Machine.execFabricCvtSdbEncode c col row s
  | .fabricExp2 c col row => Sys2Proof.Machine.execFabricExp2 c col row s
  | .fabricRcp c col row => Sys2Proof.Machine.execFabricRcp c col row s
  | .fabricRsq c col row => Sys2Proof.Machine.execFabricRsq c col row s
  | .fabricSig c col row => Sys2Proof.Machine.execFabricSig c col row s
  | .fabricSel c col row => Sys2Proof.Machine.execFabricSel c col row s
  | .fabricSteer c col row => Sys2Proof.Machine.execFabricSteer c col row s
  | .fabricMerge c col row => Sys2Proof.Machine.execFabricMerge c col row s
  | .fabricCarry c col row => Sys2Proof.Machine.execFabricCarry c col row s
  | .fabricInvar c col row => Sys2Proof.Machine.execFabricInvar c col row s
  | .fabricCtr c col row => Sys2Proof.Machine.execFabricCtr c col row s
  | .fabricDrop c col row => Sys2Proof.Machine.execFabricDrop c col row s
  | .fabricSink c col row => Sys2Proof.Machine.execFabricSink c col row s
  | .fabricEosgen c col row => Sys2Proof.Machine.execFabricEosgen c col row s
  | .fabricFilt c col row => Sys2Proof.Machine.execFabricFilt c col row s
  | .fabricOnce c col row => Sys2Proof.Machine.execFabricOnce c col row s
  | .fabricQpop c col row => Sys2Proof.Machine.execFabricQpop c col row s
  | .fabricQpush c col row => Sys2Proof.Machine.execFabricQpush c col row s
  | .fabricBqpush c col row => Sys2Proof.Machine.execFabricBqpush c col row s
  | .fabricQpeek c col row => Sys2Proof.Machine.execFabricQpeek c col row s
  | .fabricBuf c col row => Sys2Proof.Machine.execFabricBuf c col row s
  | .fabricRoute c col row => Sys2Proof.Machine.execFabricRoute c col row s
  | .fabricSafeed c col row => Sys2Proof.Machine.execFabricSafeed c col row s
  | .fabricSaread c col row => Sys2Proof.Machine.execFabricSaread c col row s
  | .fabricNorm c col row => Sys2Proof.Machine.execFabricNorm c col row s
  | .fabricTrace c col row => Sys2Proof.Machine.execFabricTrace c col row s
  | .fabricTrcnt c col row => Sys2Proof.Machine.execFabricTrcnt c col row s
  | .shawmWalk d idx => Sys2Proof.Machine.execShawmWalk d idx s
  | .poolPop d idx => Sys2Proof.Machine.execPoolPop d idx s
  | .poolPush d idx => Sys2Proof.Machine.execPoolPush d idx s
  | .join idx => Sys2Proof.Machine.execJoin idx s
  | .jack idx => Sys2Proof.Machine.execJack idx s
  | .reg idx => Sys2Proof.Machine.execReg idx s
  | .rack idx => Sys2Proof.Machine.execRack idx s
  | .close idx => Sys2Proof.Machine.execClose idx s
  | .prepare idx => Sys2Proof.Machine.execPrepare idx s
  | .prepared idx => Sys2Proof.Machine.execPrepared idx s
  | .commit idx => Sys2Proof.Machine.execCommit idx s
  | .committed idx => Sys2Proof.Machine.execCommitted idx s
  | .abort idx => Sys2Proof.Machine.execAbort idx s
  | .aborted idx => Sys2Proof.Machine.execAborted idx s
  | .rdo d line => Sys2Proof.Machine.execRdo d line s
  | .fwd idx => Sys2Proof.Machine.execFwd idx s
  | .ack idx => Sys2Proof.Machine.execAck idx s
  | .data idx => Sys2Proof.Machine.execData idx s
  | .upg d line => Sys2Proof.Machine.execUpg d line s
  | .inv idx => Sys2Proof.Machine.execInv idx s
  | .iack idx => Sys2Proof.Machine.execIack idx s
  | .gnt idx => Sys2Proof.Machine.execGnt idx s
  | .evc d line => Sys2Proof.Machine.execEvc d line s
  | .wb d line => Sys2Proof.Machine.execWb d line s
  | .nocopy idx => Sys2Proof.Machine.execNocopy idx s
  | .pmctlPreempt d => Sys2Proof.Machine.execPmctlPreempt d s
  | .preemptDrainEnd d => Sys2Proof.Machine.execPreemptDrainEnd d s
  | .pmdlExpiry d => Sys2Proof.Machine.execPmdlExpiry d s
  | .pmctlFreeze d => Sys2Proof.Machine.execPmctlFreeze d s
  | .freezeComplete d => Sys2Proof.Machine.execFreezeComplete d s
  | .pmctlResume d => Sys2Proof.Machine.execPmctlResume d s
  | .pmctlWait c d x => Sys2Proof.Machine.execPmctlWait c d x s
  | .ltfill d => Sys2Proof.Machine.execLtfill d s
  | .ltstat c x => Sys2Proof.Machine.execLtstat c x s
  | .resctlRetry d => Sys2Proof.Machine.execResctlRetry d s
  | .resctlAbandon d => Sys2Proof.Machine.execResctlAbandon d s
  | .mctlGo d => Sys2Proof.Machine.execMctlGo d s
  | .mctlWait c d x => Sys2Proof.Machine.execMctlWait c d x s
  | .mctlEnd d => Sys2Proof.Machine.execMctlEnd d s
  | .hctlClear k => Sys2Proof.Machine.execHctlClear k s
  | .plpush c d v => Sys2Proof.Machine.execPlpush c d v s
  | .plstat c d x => Sys2Proof.Machine.execPlstat c d x s
  | .cscrub d v => Sys2Proof.Machine.execCscrub d v s
  | .dclrv c d x => Sys2Proof.Machine.execDclrv c d x s
  | .ccflush k => Sys2Proof.Machine.execCcflush k s
  | .ccflushWait c k x => Sys2Proof.Machine.execCcflushWait c k x s
  | .fstoprq d v => Sys2Proof.Machine.execFstoprq d v s
  | .fabricStop d => Sys2Proof.Machine.execFabricStop d s
  | .trbaseWrite d v => Sys2Proof.Machine.execTrbaseWrite d v s
  | .counterClear d off => Sys2Proof.Machine.execCounterClear d off s
  | .reportWindowFree d w => Sys2Proof.Machine.execReportWindowFree d w s
  | .registerWrite d off v => Sys2Proof.Machine.execRegisterWrite d off v s
  | .powerOn p => Sys2Proof.Machine.execPowerOn p s
  | .firmwareLoad p => Sys2Proof.Machine.execFirmwareLoad p s
  | .doorbell p image => Sys2Proof.Machine.execDoorbell p image s
  | .firmwareTimeout p => Sys2Proof.Machine.execFirmwareTimeout p s
  | .hbmStackStart p ok => Sys2Proof.Machine.execHbmStackStart p ok s
  | .cdieStart p ok => Sys2Proof.Machine.execCdieStart p ok s
  | .acGroupStart p ok => Sys2Proof.Machine.execAcGroupStart p ok s
  | .parcelStart p ok => Sys2Proof.Machine.execParcelStart p ok s
  | .attestationRequest p req => Sys2Proof.Machine.execAttestationRequest p req s
  | .svnRaise p svn signed => Sys2Proof.Machine.execSvnRaise p svn signed s
  | .eventRecord p => Sys2Proof.Machine.execEventRecord p s
  | .bugleBeatSend p neighbour => Sys2Proof.Machine.execBugleBeatSend p neighbour s
  | .bugleBeatReceive p neighbour => Sys2Proof.Machine.execBugleBeatReceive p neighbour s
  | .beatMiss p neighbour => Sys2Proof.Machine.execBeatMiss p neighbour s
  | .packageFence p silent => Sys2Proof.Machine.execPackageFence p silent s
  | .thermalThrottle p die celsius watts => Sys2Proof.Machine.execThermalThrottle p die celsius watts s
  | .thermalShutdown p die celsius => Sys2Proof.Machine.execThermalShutdown p die celsius s
  | .mgmtPortAccess d off write => Sys2Proof.Machine.execMgmtPortAccess d off write s
  | .mgmtTimeout p d => Sys2Proof.Machine.execMgmtTimeout p d s
  | .packageRejoin p => Sys2Proof.Machine.execPackageRejoin p s

end Sys2Proof.Machine
end

