-- ==== Sys2Proof/Machine/Schedule.lean ====
section
/-! DEFINITION. One step of the machine: whose turn it is, the choice of a context by a core (R251), the traps taken
between steps, the fetch of the next word (R67, R111), and the events that happen of themselves. The order in which
agents move is no rule of the spec: the state holds the turns to come, and any list of them is a machine (log 10). -/

namespace Sys2Proof.Machine

/-! ## What a turn may be -/

/-- Registers of level M, whose writes come by the Purser's own path (R30). -/
def purserWrites (off : Nat) : Bool := mRegisters.contains off

/-- Rows that happen of themselves or come from outside: all but the words of an access core and the rows that are only
the effect of a context's word or store, which happen with that word. -/
def autonomous : Instr → Bool
  | .badop _ | .channelWordArrival _ _ _ | .handlerTableWrite _ _ _ _ | .pmctlPreempt _ | .pmctlFreeze _ | .pmctlResume _
  | .resctlRetry _ | .resctlAbandon _ | .mctlGo _ | .mctlEnd _ | .hctlClear _ | .plpush _ _ _ | .cscrub _ _ | .ccflush _
  | .fstoprq _ _ | .trbaseWrite _ _ | .counterClear _ _ | .reportWindowFree _ _ => false
  | .registerWrite _ off _ => purserWrites off
  | i => (encode i).isNone

/-! ## Traps between steps -/

/-- The trap that a context takes instead of its next step, as the row that it is: a queue timeout, TIMER, a latched
report (R109, R153, R379). -/
def trapRow (s : State) (c : CtxId) : Option Instr :=
  if (timeoutDue s c).isSome then some (.qtimeo c)
  else if timerDue s c then some (.timerTrap c)
  else if (s.ctx c).watchDue then some (.watchReportTake c)
  else none

/-- What waits for a header's region, a trap for its handler's or a run for its first, may go on (R284). -/
def heldReady (s : State) (c : CtxId) : Bool :=
  match (s.ctx c).held with
  | some h => (headerWait s c (if h.code = 0 then h.eva else (s.ctx c).sys.tvec.toNat)).isNone
  | none => false

/-- The trap that waited for its handler's region is taken, or the run that waited for its first header's begins. -/
def takeHeld (s : State) (c : CtxId) : State :=
  match (s.ctx c).held with
  | some h =>
    let s := s.modCtx c (fun x => { x with held := none, wait := none })
    if h.code = 0 then startAt s c h.eva else trapEntry s c h.code h.eva h.skip h.fetch
  | none => s

/-- A trap that another agent left for the context is due now (R254). -/
def dueNow (s : State) (c : CtxId) : Bool := (s.ctx c).between && !(s.ctx c).due.isEmpty

/-- The oldest of them is taken. -/
def takeDue (s : State) (c : CtxId) : State :=
  match (s.ctx c).due with
  | [] => s
  | (code, eva) :: l => trapEntry (s.modCtx c (fun x => { x with due := l })) c code eva false false

/-! ## The choice of a context (R251) -/

/-- A context has a step to issue or a trap to take. -/
def ready (s : State) (c : CtxId) : Bool :=
  if (s.ctx c).held.isSome then heldReady s c else runnable s c || dueNow s c || (trapRow s c).isSome

/-- The ready contexts of a core in the order in which contexts of a priority follow the one that last issued. -/
def contextsAfter (last : Nat) : List Nat := (List.range 16).map (fun i => (last + 1 + i) % 16)

/-- The ready context of highest priority of a core: among equals, the first after the one of that priority that last
issued. -/
def pick (s : State) (k : CoreId) : Option CtxId :=
  let pri (i : Nat) : Nat := (s.ctx (16 * k + i)).sys.pri
  let here := (List.range 16).filter (fun i => ready s (16 * k + i))
  let top := here.foldl (fun m i => max m (pri i)) 0
  let last := SMap.getD (s.core k).lastIss top 15
  ((contextsAfter last).find? (fun i => here.contains i && pri i == top)).map (fun i => 16 * k + i)

/-! ## Fetching the next word -/

/-- The word that stands in bytes, or BADOP with the bits that EVA then holds (R77). -/
def wordIn (bs : List Byte) : Instr :=
  match decode bs with
  | .ok (i, _) => i
  | .error _ =>
    let v := leNat (bs.take 2)
    .badop (BitVec.ofNat 32 (if isLong v then leNat (bs.take 4) else v))

/-- Only a header may stand where execution enters a block (R65, R66). -/
def headerIn (bs : List Byte) : Instr :=
  match wordIn bs with
  | .hdr rep len l e m => .hdr rep len l e m
  | .badop w => .badop w
  | i => .badop (BitVec.ofNat 32 ((encode i).getD 0))

/-- The bytes of the next word from the loop buffer: of the pinned block, or parcels of the current block that an earlier
iteration fetched, when the block fits (R67). -/
def bufferedWord (b : Block) : Option (List Byte) :=
  match b.pin with
  | some (a, code) =>
    if (if b.entering then b.pc else b.hdr) = a then some (code.drop (b.pc - a)) else held b
  | none => held b
where
  /-- The current block's own code. -/
  held (b : Block) : Option (List Byte) :=
    let i := (b.pc - b.hdr) / 2
    if b.entering || decide (62 < b.len) then none
    else
      match SMap.find b.buf i with
      | none => none
      | some p =>
        if isLong p then (SMap.find b.buf (i + 1)).map (fun q => leBytes 2 p ++ leBytes 2 q) else some (leBytes 2 p)

/-- The loop buffer takes the word that is fetched, when the block fits. -/
def Block.keep (b : Block) (bs : List Byte) : Block :=
  let i := (b.pc - b.hdr) / 2
  if b.entering || decide (62 < b.len) then b
  else
    let buf := SMap.set b.buf i (leNat (bs.take 2))
    { b with buf := if bs.length = 4 then SMap.set buf (i + 1) (leNat (bs.drop 2)) else buf }

/-- What the fetch of a context's next word gives: an instruction, a fetch fault (R111), or the wait for a region that a host
owns (R284). -/
inductive Fetched
  | word (i : Instr)
  | fault (f : FetchFault)
  | wait (w : Wait)
deriving DecidableEq, Repr

/-- The bytes of a word that waits: it was fetched when it began to wait. A wait for a region may be the fetch's own. -/
def Ctx.waitingWord (x : Ctx) : Option (List Byte) :=
  match x.wait with
  | none => none
  | some ⟨.ownership _ _, _⟩ => none
  | some _ => if x.blk.word.isEmpty then none else some x.blk.word

/-- The fetch of a context's next word: the word that waits, else from the loop buffer, else from memory. -/
def fetchNext (s : State) (c : CtxId) : State × Fetched :=
  let b := (s.ctx c).blk
  let read (bs : List Byte) : Fetched := .word (if b.entering then headerIn bs else wordIn bs)
  match (s.ctx c).waitingWord with
  | some bs => (s, read bs)
  | none =>
    match bufferedWord b with
    | some bs => (s.modCtx c (fun x => { x with blk := { x.blk with word := bs } }), read bs)
    | none =>
      match wordWait s c b.pc isLong with
      | some w => (s, .wait w)
      | none =>
        match fetchWord s c b.pc with
        | (s', .error f) => (s', .fault f)
        | (s', .ok bs) => (s'.modCtx c (fun x => { x with blk := { x.blk.keep bs with word := bs } }), read bs)

/-! ## One step -/

/-- A header and a prefix take no step of their own (R71). -/
def stepless : Instr → Bool
  | .hdr _ _ _ _ _ => true
  | .imx _ => true
  | _ => false

/-- A context of a core issues a step (R251). -/
def noteIssue (s : State) (c : CtxId) (i : Instr) : State :=
  if stepless i then s
  else s.modCore (coreOf c) (fun k => { k with lastIss := SMap.set k.lastIss (s.ctx c).sys.pri (c % 16) })

/-- After a word, or a wait for the region of the next: a context asked to stop does so where it may (R313). -/
def afterWord (x0 : Ctx) (c : CtxId) : Host.Outcome State Fault Refusal → Host.Outcome State Fault Refusal
  | .next s => .next (preemptCheck x0 s c)
  | o => o

/-- A context's next word. -/
def issueNext (s : State) (c : CtxId) : Host.Outcome State Fault Refusal :=
  match fetchNext s c with
  | (s', .fault f) => .next (trapEntry s' c f.1 f.2 false true)
  | (s', .wait w) => afterWord (s.ctx c) c (.next (waitFor { s' with cur := c } w))
  | (s', .word i) => afterWord (s.ctx c) c (exec i { noteIssue s' c i with cur := c })

/-- A context's turn: a trap that is due, else its next word. -/
def issueWord (s : State) (c : CtxId) : Host.Outcome State Fault Refusal :=
  if (s.ctx c).held.isSome then .next (takeHeld s c)
  else if dueNow s c then .next (takeDue s c)
  else
    match trapRow s c with
    | some i => exec i s
    | none => issueNext s c

/-- The turn that the state plans next; with none planned, the current context's core moves. A header and a prefix take
no cc of their own. -/
def nextTurn (s : State) : Turn × State :=
  match s.agenda with
  | t :: l => (t, { s with agenda := l })
  | [] => (.core (if (s.ctx s.cur).blk.entering || !(s.ctx s.cur).imx.isEmpty then 0 else 1) (coreOf s.cur), s)

/-- One step: time passes to the turn, and the turn is taken. A core with nothing to issue, and an event that does not
happen of itself, leave only the time. -/
def runStep (s : State) : Host.Outcome State Fault Refusal :=
  match nextTurn s with
  | (.core cc k, s) =>
    let s := elapse s cc
    match pick s k with
    | some c => issueWord s c
    | none => .next s
  | (.event cc i, s) =>
    let s := elapse s cc
    if autonomous i then exec i s else .next s

/-! ## Placing one word -/

/-- Where the placed block stands: a virtual page, and its frame in the HBM of die 0. -/
def codeVa : Nat := 0x10000

/-- The lease-table entry of the placed code: 4 KiB, executable, at the same offset of space 0. -/
def codeEntry : LtEntry :=
  { id := 0, asid := 0, va := codeVa, psize := 0, gbase := codeVa, ord := 1, nt := false, sdb := false, bnd := false, vf := false
    w := false, x := true, pins := 0 }

/-- A word placed as the first that context 0 fetches: package 0, its die 0 and AC 0 have started, the context holds a run
and stands in the body of a block in scoreboard mode whose header lies 4 bytes before; a header word stands where a block
is entered (log 11). -/
def placeWord (s : State) (nbits w : Nat) : State :=
  let header := w % 64 == 1
  let at' := if header then codeVa else codeVa + 4
  let n := max 4 (nbits / 8)
  let top : Nat := 1 + 64 + 128 + 1024 * 1000
  let mem := if header then s.mem else Mem.write s.mem codeVa 4 top
  let s := { s with mem := Mem.write mem at' n w, cur := 0, agenda := [] }
  let s := s.modDie 0 (fun d => { d with started := true, leases := codeEntry :: d.leases })
  let s := s.modCore 0 (fun k => { k with started := true })
  s.modCtx 0 (fun x =>
    { x with run := true
             blk := { Block.reset with pc := at', hdr := codeVa, len := 1000, e := true, m := true, entering := header } })

end Sys2Proof.Machine
end

