-- ==== Sys2Proof/Safety.lean ====
section
/-! DEFINITION. What counts as a safe run. No condition of the spec stops the machine: each ends in a trap, a wait, a
recorded error or no effect. A run is safe while every step answers a next state, and its state is sound while what no
step may break holds of it. -/

namespace Sys2Proof.Machine

/-- The next state of an outcome. -/
def nextOf : Host.Outcome State Fault Refusal → Option State
  | .next s => some s
  | _ => none

/-- The step from a state completes. -/
def Safe (s : State) : Prop := (nextOf (step s)).isSome = true

/-- The memory is in its canonical form: addresses rise, and no cell holds the blank value. -/
def State.Sound (s : State) : Prop := Mem.wf s.mem = true

end Sys2Proof.Machine
end

