-- ==== Sys2Proof/Certificates/Slice0/Obligations.lean ====
section
/-! DEFINITION. The statements for the provers, with the tables they are written in: what decoding, a step, each family of
words and each autonomous row do, said from the rules of the spec. -/

open Sys2Proof Sys2Proof.Machine

namespace Sys2Proof.Claims

/-! ## What the statements are written in -/

/-- The running context may issue a word of predicate p: no prefix stands before it, and the predicate holds (R62, R71). -/
def Issues (s : State) (p : Pred) : Prop := s.me.imx = [] ∧ s.me.holds p = true

/-- The immediate that a field of k bits and the prefixes before it make: the payloads, first highest, then the field,
sign-extended to 64 bits or cut at bit 63 (R71). -/
def immBits {k : Nat} : List (BitVec 26) → BitVec k → Word
  | [], v => v.signExtend 64
  | [m], v => (m ++ v).signExtend 64
  | m :: n :: _, v => (m ++ n ++ v).signExtend 64

/-- Three-register rows of the INT major: the row, its latency (Table 4.2), and its result (Table 4.4, R96). -/
def intRows : List ((Pred → BitVec 5 → BitVec 5 → BitVec 5 → Instr) × Nat × (Word → Word → Word)) :=
  [(.add, 1, fun a b => a + b), (.sub, 1, fun a b => a - b), (.mul, 3, fun a b => a * b),
   (.mulh, 3, fun a b => ((a.signExtend 128 * b.signExtend 128) >>> 64).setWidth 64),
   (.mulhu, 3, fun a b => ((a.setWidth 128 * b.setWidth 128) >>> 64).setWidth 64),
   (.and, 1, fun a b => a &&& b), (.or, 1, fun a b => a ||| b), (.xor, 1, fun a b => a ^^^ b),
   (.andn, 1, fun a b => a &&& ~~~b),
   (.shl, 1, fun a b => a <<< (b &&& 63)), (.shr, 1, fun a b => a >>> (b &&& 63)),
   (.sar, 1, fun a b => a.sshiftRight' (b &&& 63)), (.ror, 1, fun a b => a.rotateRight (b &&& 63).toNat),
   (.min, 1, fun a b => if a.toInt ≤ b.toInt then a else b), (.max, 1, fun a b => if a.toInt ≤ b.toInt then b else a),
   (.minu, 1, fun a b => if a.toNat ≤ b.toNat then a else b), (.maxu, 1, fun a b => if a.toNat ≤ b.toNat then b else a)]

/-- Division rows: the result of each for a divisor other than 0 (Table 4.4, R96). -/
def divRows : List ((Pred → BitVec 5 → BitVec 5 → BitVec 5 → Instr) × (Word → Word → Word)) :=
  [(.div, fun a b => a.sdiv b), (.divu, fun a b => a / b), (.rem, fun a b => a.srem b), (.remu, fun a b => a % b)]

/-- One-register rows that widen a field. -/
def widenRows : List ((Pred → BitVec 5 → BitVec 5 → Instr) × (Word → Word)) :=
  [(.sextB, fun a => (a.setWidth 8).signExtend 64), (.sextH, fun a => (a.setWidth 16).signExtend 64),
   (.sextW, fun a => (a.setWidth 32).signExtend 64), (.zextW, fun a => (a.setWidth 32).setWidth 64)]

/-- Compares of two registers, with the condition each evaluates (R99). -/
def cmpRows : List ((Pred → BitVec 3 → BitVec 5 → BitVec 5 → Instr) × (Word → Word → Bool)) :=
  [(.cmpEq, fun a b => decide (a = b)), (.cmpNe, fun a b => decide (a ≠ b)), (.cmpLt, fun a b => decide (a.toInt < b.toInt)),
   (.cmpGe, fun a b => decide (b.toInt ≤ a.toInt)), (.cmpLtu, fun a b => decide (a.toNat < b.toNat)),
   (.cmpGeu, fun a b => decide (b.toNat ≤ a.toNat))]

/-- Compares with an immediate (R99). -/
def cmpiRows : List ((Pred → BitVec 3 → BitVec 5 → BitVec 12 → Instr) × (Word → Word → Bool)) :=
  [(.cmpiEq, fun a b => decide (a = b)), (.cmpiNe, fun a b => decide (a ≠ b)), (.cmpiLt, fun a b => decide (a.toInt < b.toInt)),
   (.cmpiLtu, fun a b => decide (a.toNat < b.toNat))]

/-- Predicate operations (R99). -/
def predRows : List ((Pred → BitVec 3 → BitVec 3 → BitVec 3 → Instr) × (Bool → Bool → Bool)) :=
  [(.pand, fun a b => a && b), (.por, fun a b => a || b), (.pxor, fun a b => a ^^ b), (.pandn, fun a b => a && !b)]

/-- Immediate arithmetic (R97). -/
def immRows : List ((Pred → BitVec 5 → BitVec 5 → BitVec 12 → Instr) × (Word → Word → Word)) :=
  [(.addi, fun a i => a + i), (.andi, fun a i => a &&& i), (.ori, fun a i => a ||| i), (.xori, fun a i => a ^^^ i)]

/-- Immediate shifts (R97). -/
def shiftRows : List ((Pred → BitVec 5 → BitVec 5 → BitVec 6 → Instr) × (Word → BitVec 6 → Word)) :=
  [(.shli, fun a n => a <<< n), (.shri, fun a n => a >>> n), (.sari, fun a n => a.sshiftRight' n),
   (.rori, fun a n => a.rotateRight n.toNat)]

/-- The words that write one register of a context and touch nothing else: with the register's write, its latency and
the word's length. -/
def regOnly : Instr → Bool
  | .add _ _ _ _ | .sub _ _ _ _ | .mul _ _ _ _ | .mulh _ _ _ _ | .mulhu _ _ _ _ | .div _ _ _ _ | .divu _ _ _ _
  | .rem _ _ _ _ | .remu _ _ _ _ | .and _ _ _ _ | .or _ _ _ _ | .xor _ _ _ _ | .andn _ _ _ _ | .shl _ _ _ _
  | .shr _ _ _ _ | .sar _ _ _ _ | .ror _ _ _ _ | .min _ _ _ _ | .max _ _ _ _ | .minu _ _ _ _ | .maxu _ _ _ _
  | .clz _ _ _ | .ctz _ _ _ | .popc _ _ _ | .bswap _ _ _ | .sextB _ _ _ | .sextH _ _ _ | .sextW _ _ _ | .zextW _ _ _
  | .bfins _ _ _ _ | .cmpEq _ _ _ _ | .cmpNe _ _ _ _ | .cmpLt _ _ _ _ | .cmpGe _ _ _ _ | .cmpLtu _ _ _ _
  | .cmpGeu _ _ _ _ | .pand _ _ _ _ | .por _ _ _ _ | .pxor _ _ _ _ | .pandn _ _ _ _ | .mvpx _ _ _ | .mvxp _ _ _
  | .addi _ _ _ _ | .andi _ _ _ _ | .ori _ _ _ _ | .xori _ _ _ _ | .shli _ _ _ _ | .shri _ _ _ _ | .sari _ _ _ _
  | .rori _ _ _ _ | .cmpiEq _ _ _ _ | .cmpiNe _ _ _ _ | .cmpiLt _ _ _ _ | .cmpiLtu _ _ _ _ | .bfx _ _ _ _ _
  | .bfxs _ _ _ _ _ | .li _ _ _ | .mvs _ _ | .adds _ _ | .lis _ _ => true
  | _ => false

/-- The x register that such a word writes. -/
def xDest : Instr → Option Nat
  | .add _ d _ _ | .sub _ d _ _ | .mul _ d _ _ | .mulh _ d _ _ | .mulhu _ d _ _ | .div _ d _ _ | .divu _ d _ _
  | .rem _ d _ _ | .remu _ d _ _ | .and _ d _ _ | .or _ d _ _ | .xor _ d _ _ | .andn _ d _ _ | .shl _ d _ _
  | .shr _ d _ _ | .sar _ d _ _ | .ror _ d _ _ | .min _ d _ _ | .max _ d _ _ | .minu _ d _ _ | .maxu _ d _ _
  | .clz _ d _ | .ctz _ d _ | .popc _ d _ | .bswap _ d _ | .sextB _ d _ | .sextH _ d _ | .sextW _ d _ | .zextW _ d _
  | .bfins _ d _ _ | .mvpx _ d _ | .addi _ d _ _ | .andi _ d _ _ | .ori _ d _ _ | .xori _ d _ _ | .shli _ d _ _
  | .shri _ d _ _ | .sari _ d _ _ | .rori _ d _ _ | .bfx _ d _ _ _ | .bfxs _ d _ _ _ | .li _ d _ | .mvs d _ | .adds d _
  | .lis d _ => some d.toNat
  | _ => none

/-- The predicate that such a word writes. -/
def pDest : Instr → Option Nat
  | .cmpEq _ d _ _ | .cmpNe _ d _ _ | .cmpLt _ d _ _ | .cmpGe _ d _ _ | .cmpLtu _ d _ _ | .cmpGeu _ d _ _
  | .pand _ d _ _ | .por _ d _ _ | .pxor _ d _ _ | .pandn _ d _ _ | .mvxp _ d _ | .cmpiEq _ d _ _ | .cmpiNe _ d _ _
  | .cmpiLt _ d _ _ | .cmpiLtu _ d _ _ => some d.toNat
  | _ => none

/-- The predicate of a 32-bit word (R62). -/
def predicateOf : Instr → Option Pred
  | .add p _ _ _ | .sub p _ _ _ | .mul p _ _ _ | .mulh p _ _ _ | .mulhu p _ _ _ | .div p _ _ _ | .divu p _ _ _
  | .rem p _ _ _ | .remu p _ _ _ | .and p _ _ _ | .or p _ _ _ | .xor p _ _ _ | .andn p _ _ _ | .shl p _ _ _
  | .shr p _ _ _ | .sar p _ _ _ | .ror p _ _ _ | .min p _ _ _ | .max p _ _ _ | .minu p _ _ _ | .maxu p _ _ _
  | .clz p _ _ | .ctz p _ _ | .popc p _ _ | .bswap p _ _ | .sextB p _ _ | .sextH p _ _ | .sextW p _ _ | .zextW p _ _
  | .bfins p _ _ _ | .cmpEq p _ _ _ | .cmpNe p _ _ _ | .cmpLt p _ _ _ | .cmpGe p _ _ _ | .cmpLtu p _ _ _
  | .cmpGeu p _ _ _ | .pand p _ _ _ | .por p _ _ _ | .pxor p _ _ _ | .pandn p _ _ _ | .mvpx p _ _ | .mvxp p _ _
  | .jr p _ | .callr p _ _ _ | .addi p _ _ _ | .andi p _ _ _ | .ori p _ _ _ | .xori p _ _ _ | .shli p _ _ _
  | .shri p _ _ _ | .sari p _ _ _ | .rori p _ _ _ | .cmpiEq p _ _ _ | .cmpiNe p _ _ _ | .cmpiLt p _ _ _
  | .cmpiLtu p _ _ _ | .bfx p _ _ _ _ | .bfxs p _ _ _ _ | .li p _ _ | .br p _ | .call p _ | .brq p _ _ | .brqN p _ _
  | .ld p _ _ _ _ _ _ | .st p _ _ _ _ _ _ | .ldx p _ _ _ _ _ _ | .stx p _ _ _ _ _ _ | .amo p _ _ _ _ _ _ _
  | .xlat p _ _ | .xlatW p _ _ | .hmv p _ _ | .hrel p _ | .hspan p _ _ | .fence p _ _ | .clean p _ _ | .invl p _ _
  | .flushl p _ _ | .prefl p _ _ | .icinv p | .hshoot p _ | .sendw p _ _ | .waitch p _ | .yield p | .endt p
  | .launch p _ _ _ | .barv p _ | .barw p _ | .trap p _ | .bkpt p | .reth p | .bbh p _ | .mfs p _ _ | .mts p _ _
  | .qputW p _ _ | .qputD p _ _ | .qputT p _ _ | .qputEos p _ | .qputEeos p _ | .qpopW p _ _ | .qpopD p _ _
  | .qpopT p _ _ | .qpopSkip p _ _ | .qflusht p _ | .qstat p _ _ | .bqpush p _ _ | .bqpop p _ _ | .upd p _ _ _ _
  | .sopen p _ _ | .spush p _ _ _ | .sadv p _ _ | .stend p _ _ | .sclose p _ | .fopen p _ _ | .fpush p _ _ _
  | .fadv p _ _ | .ftend p _ _ _ | .fclose p _ | .cpy p _ _ | .cpyS p _ _ | .wtany p _ _ | .wtall p _ _ | .ffr p _ _
  | .gath p _ _ _ _ | .gathq p _ _ _ _ | .scat p _ _ _ _ | .rgath p _ _ _ _ | .nzscan p _ _ _ _ _ | .vopen p _ _ _
  | .ldc p _ _ _ _ _ | .stc p _ _ _ _ _ | .updc p _ _ _ _ | .vpush p _ _ _ | .vprobe p _ _ _ | .vfree p _ _
  | .vclose p _ | .vshoot p _ | .bopen p _ _ | .bst p _ _ _ _ _ | .bclose p _ _ | .babort p _ | .rgbeg p | .rgend p _
  | .mq p _ | .mqNb p _ _ | .mqcan p _ _ | .waitb p _ _ => some p
  | _ => none

/-- The words that take IMX prefixes (R71). -/
def takesPrefix : Instr → Bool
  | .addi _ _ _ _ | .andi _ _ _ _ | .ori _ _ _ _ | .xori _ _ _ _ | .cmpiEq _ _ _ _ | .cmpiNe _ _ _ _ | .cmpiLt _ _ _ _
  | .cmpiLtu _ _ _ _ | .li _ _ _ | .ld _ _ _ _ _ _ _ | .st _ _ _ _ _ _ _ => true
  | _ => false

/-- The words of privilege S, but for MFS and MTS, which have a level for each register (Tables 3.11 to 3.15). -/
def privilegedWord : Instr → Bool
  | .invl _ _ _ | .hshoot _ _ | .reth _ | .vshoot _ _ => true
  | _ => false

/-- The bytes of a size (Table 3.5). -/
def width : Size → Nat | .b => 1 | .h => 2 | .w => 4 | .d => 8

/-- Dirty tracking does not record writes to a GA for a job: the space is not tracked, or the job's DEN is 0 (R389, R390). -/
def untracked (s : State) (asid g : Nat) : Prop :=
  1 < gaSpace g ∨ bitOf (s.peek ((s.die (gaDie g)).asidbase + 16 * (asid % 2 ^ 15) + 8) 8) 63 = false

/-- Nothing is under way that an access made before: no core holds a pending update, and no narrow-scope record stands. -/
def quiet (s : State) : Prop := (∀ e ∈ s.cores, e.2.deltas = []) ∧ s.scopes = []

/-- No store that a fence ordered is still buffered. -/
def unfenced (s : State) : Prop := ∀ b ∈ s.me.sbuf, s.me.epoch ≤ b.epoch

/-- No page migration is under way on any die. -/
def still (s : State) : Prop := ∀ e ∈ s.dies, e.2.mstate = 0

/-- The core's L1 has room for one line more (R15). -/
def hasRoom (s : State) (k : CoreId) : Prop := (s.core k).l1Lines.length < 512

/-- A GA lies outside the word of the ASID table that controls dirty tracking of g for a job (R389). -/
def away (s : State) (asid g a : Nat) : Prop :=
  let w := (s.die (gaDie g)).asidbase + 16 * (asid % 2 ^ 15) + 8
  1 < gaSpace g ∨ a < w ∨ w + 8 ≤ a

/-- The bytes of an access of the running context reach memory now: admitted, no host owning a region it needs, free of
storage errors. -/
def reaches (s : State) (acc : Acc) (writes : Bool) (g n : Nat) : Prop :=
  gaSpace g ≠ 7 ∧ fenced s (pkgOf s.myDie) acc g n = false ∧ heldBy s s.me.sys.asid writes g = none ∧ hasUe s g n = false

/-- The registers of a die's agents that read 0, being write-only (Tables 12.3, 16.2, 18.2, 23.2, 24.1). -/
def writeOnlyRegs : List Nat :=
  [0x100000, 0x100038, 0x110000, 0x110008, 0x110010, 0x110018, 0x120000, 0x120008, 0x140000, 0x140008, 0x150000, 0x150018,
   0x150020, 0x150040]

/-- The registers of a die's agents that a store at privilege S may not write: read-only, or of level M (the same tables). -/
def noStoreRegs : List Nat :=
  [0x100008, 0x100010, 0x100018, 0x100020, 0x100028, 0x100030, 0x110020, 0x110030, 0x120010, 0x120020, 0x130000, 0x130008,
   0x130010, 0x130018, 0x130020, 0x130028, 0x140010, 0x150010, 0x150038, 0x150048]

/-- The registers of a die's agents that read back and that a store writes or clears (the same tables, Table 21.4). -/
def storedRegs : List Nat :=
  [0x100040, 0x100048, 0x100050, 0x100058, 0x110028, 0x120018, 0x120028, 0x120030, 0x120038, 0x130030, 0x130038, 0x150008,
   0x150028, 0x150030]

/-- The lines of a machine with updates pending on one core alone. -/
def onlyCore (s : State) (k : CoreId) : Prop := ∀ e ∈ s.cores, e.1 ≠ k → e.2.deltas = []

/-- R134: the new value and whether it is written, of an atomic on w-bit patterns: old value o, operand a, and CAS's b. -/
def amoSpec {w : Nat} (o a b : BitVec w) : AmoOp → BitVec w × Bool
  | .swap => (a, true)
  | .add => (o + a, true)
  | .and => (o &&& a, true)
  | .or => (o ||| a, true)
  | .xor => (o ^^^ a, true)
  | .min => (if o.toInt ≤ a.toInt then o else a, true)
  | .max => (if o.toInt ≤ a.toInt then a else o, true)
  | .cas => (b, decide (o = a))

/-- A token of a kind that a context makes: no lane of it was read by an engine, and it is not sampled. -/
def madeToken (k : TokKind) (lanes : List Lane) (eng : Bool) : Token := ⟨k, lanes, eng, none, 0⟩

/-- A token enters at the context's end and is counted: CNT of an OUT binding counts the tokens entered (Table 6.1). -/
def entered (e : End) (fc : Nat) (t : Token) : End :=
  ({ e.1 with cnt := if e.1.dir = .out then (e.1.cnt + 1) % 2 ^ 32 else e.1.cnt }, e.2.enter fc t)

/-- A partial assembly enters as a DATA token whose remaining lanes are 0 (R151). -/
def flushed (e : End) (fc : Nat) : End :=
  if e.1.asm = [] then e
  else entered ({ e.1 with asm := [], asmEng := false }, e.2) fc
    (madeToken .data (e.1.asm ++ List.replicate (16 - e.1.asm.length) 0) e.1.asmEng)

/-- The words that append one lane, of b bytes each (R63, R150). -/
def laneWord (short : Bool) (p : Pred) (q : BitVec 4) (x : BitVec 5) : Instr := if short then .qputs q x else .qputW p q x

/-- The words that pop one lane. -/
def popWord (short : Bool) (p : Pred) (q : BitVec 4) (x : BitVec 5) : Instr := if short then .qpops x q else .qpopW p x q

/-- How many bytes such a word takes. -/
def wordBytes (short : Bool) : Nat := if short then 2 else 4

/-- A lane as a register holds it: zero-extended. -/
def zx (v : Lane) : Word := v.setWidth 64

/-- Two lanes as a doubleword, the first low. -/
def zx2 (a b : Lane) : Word := b ++ a

/-- The four words x[X]..x[X+3]. -/
def quad (s : State) (x : BitVec 5) : List Nat := (List.range 4).map (fun i => (s.me.getX (x.toNat + i)).toNat)

/-- Nothing that the context has done holds a release back: no store is buffered, no trap is owed, and no update is pending. -/
def settled (s : State) : Prop :=
  s.me.sbuf = [] ∧ s.me.owed = none ∧ ∀ e ∈ s.cores, ∀ d ∈ e.2.deltas, ∀ w ∈ d.who, w.1 ≠ s.cur

/-- The index-engine words by kind: 0 GATH, 1 GATHQ, 2 SCAT, 3 RGATH, 4 NZSCAN. q names the queue, or SCAT's handle. -/
def indexInstr (kind : Nat) (p : Pred) (e pairs : Bool) (op : ScatOp) (q : BitVec 4) (x y : BitVec 5) : Instr :=
  match kind with
  | 0 => .gath p e q x y
  | 1 => .gathq p e q x y
  | 2 => .scat p op q x y
  | 3 => .rgath p e q x y
  | _ => .nzscan p pairs e q x y

/-- What such a command does with its rows: SCAT's operation, P of NZSCAN. -/
def indexOp (kind : Nat) (pairs : Bool) (op : ScatOp) : Nat := if kind = 2 then scatCode op else if kind = 4 then b2n pairs else 0

/-- Nothing holds back the only command of a core's index engine; it stands between two rows. -/
def ixFree (s : State) (k : CoreId) (c : IxCmd) : Prop :=
  (s.core k).ix = [c] ∧ c.err = none ∧ (s.die (dieOf c.owner)).pmop = none ∧ s.hits = []
  ∧ (∀ e ∈ s.ctxs, e.2.wengine = []) ∧ spBlocked s c.owner c.seq c.ranges = false ∧ c.dh.v = true ∧ c.ih.v = true
  ∧ c.wpos = 0 ∧ c.popped = [] ∧ c.arrived = [] ∧ c.bad = []

/-- A row of n bytes within one line, whose access by a command reaches memory and sets nothing else off. -/
def plainRow (s : State) (k : CoreId) (c : IxCmd) (g n : Nat) : Prop :=
  rowBusy s c g n = false ∧ writeWaits s c.asid g = false ∧ badRequest s k g n = none ∧ lineOf (g + n - 1) = lineOf g ∧ quiet s
  ∧ untracked s c.asid g ∧ SMap.find (s.core k).si (lineOf g) = none

/-- Lanes as one number, the first low. -/
def lanesNat : List Lane → Nat
  | [] => 0
  | v :: vs => v.toNat + 2 ^ 32 * lanesNat vs

/-- An end token that a word or an engine enters. -/
def endToken (k : TokKind) : Token := madeToken k (List.replicate 16 0) false

/-- The bytes [g, g + n) stand in one line, and nothing makes an access of an engine to them wait, fail or set anything
else off. -/
def reachable (s : State) (from' : PkgId) (g n : Nat) : Prop :=
  engineWaits s g = false ∧ fenced s from' .engine g n = false ∧ hasUe s g n = false ∧ lineOf (g + n - 1) = lineOf g
  ∧ quiet s

/-- The same of an access for a job that writes the bytes, or takes permission to. -/
def writable (s : State) (from' : PkgId) (asid g n : Nat) : Prop := reachable s from' g n ∧ writeWaits s asid g = false

/-- The context is in the last steps of a VFREE (R178). -/
def freeing (s : State) : Prop := ∃ fr pool size pushed t0, s.me.wait = some ⟨.vfree fr pool size pushed, t0⟩

/-- The frame of an element of volume v: from the reply of the context's walk, or from the core's CLB (R332). -/
def frameAt (s : State) (v : Vol) (c fr : Nat) : Prop :=
  (s.me.reply = none ∧ (s.core s.myCore).clbFind s.me.sys.asid v.ga (volKey v.desc c) = some fr)
  ∨ ∃ g, s.me.reply = some (0, fr, g)

/-- The coordinate lies inside the volume (R175). -/
def insideVol (v : Vol) (c : Nat) : Prop := bitOf c 63 = false ∧ ∀ a < 3, coordField c a < volExt v.desc a

/-- The bytes of a number's low n bytes. -/
def bytesOf (n : Nat) (v : Word) : List Byte := (List.range n).map (fun i => v.extractLsb' (8 * i) 8)

/-- SA block k of the region of context c holds one command, of opcode op, and nothing keeps it from running: no wave stops
the group, it has started or stood ready with ABT 0, and it signals no semaphore. -/
def saFree (s : State) (c : CtxId) (r : Region) (k : Nat) (a : Sa) (cmd : SaCmd) (op : Nat) : Prop :=
  (s.ctx c).region = some r ∧ r.sa k = some a ∧ a.queue = [cmd] ∧ r.sealed = false ∧ (s.die (dieOf c)).pmop = none
  ∧ cmd.cancelled = false ∧ bitsOf cmd.w 0 4 = op ∧ mcSen cmd.w = false ∧ (cmd.started = false → ∃ fc, cmd.ready = some (false, fc))

/-- Two SA blocks stand alike, but for which of their commands are marked as ready. -/
def saAlike (a b : Sa) : Prop :=
  { a with queue := [] } = { b with queue := [] }
  ∧ a.queue.map (fun c => { c with ready := none }) = b.queue.map (fun c => { c with ready := none })

/-- The head command of an SA block has left without an error: an error kept has one command less before it. -/
def passed (a : Sa) : Sa := { a with queue := [], firstErr := a.firstErr.map (fun e => { e with ahead := e.ahead - 1 }) }

/-- After the step SA block k of context c stands as a, and memory is as before. -/
def saThen (i : Instr) (s : State) (c : CtxId) (k : Nat) (a : Sa) : Prop :=
  ∃ t r, exec i s = .next t ∧ t.mem = s.mem ∧ (t.ctx c).region = some r ∧ r.sa k = some a ∧ (t.ctx c).x = (s.ctx c).x

/-- The site (col, row) of the region r of context c holds st, of operator op, and may fire in this fc: nothing of an earlier
firing is owed, its storage is sound, it stands between two quads. -/
def siteReady (s : State) (c : CtxId) (col row op : Nat) (r : Region) (st : Site) : Prop :=
  (s.ctx c).region = some r ∧ r.sealed = false ∧ r.stopped = false ∧ (s.die (dieOf c)).pmop = none ∧ col < r.w
  ∧ r.site (r.w * row + col) = some st ∧ cfgOp st.cfg = op ∧ st.outq = [] ∧ st.fired ≠ some s.fc ∧ st.ue = false ∧ st.beat = 0

/-- The site fires: memory is as before and the region goes on as r'. -/
def fires (i : Instr) (s : State) (c : CtxId) (r' : Region) : Prop :=
  ∃ t, exec i s = .next t ∧ t.mem = s.mem ∧ (t.ctx c).region = some r' ∧ (t.ctx c).x = (s.ctx c).x

/-- The newest token on every link of a list has this kind and these lanes. -/
def newest (r : Region) (links : List Nat) (k : TokKind) (lanes : List Lane) : Prop :=
  ∀ l ∈ links, ∃ tok, (SMap.getD r.links l []).getLast? = some tok ∧ tok.kind = k ∧ tok.lanes = lanes

/-- The site fires and puts a token of this kind and lanes on its ROUTE links. -/
def emits (i : Instr) (s : State) (c : CtxId) (r : Region) (site : Nat) (k : TokKind) (lanes : List Lane) : Prop :=
  ∃ r', fires i s c r' ∧ newest r' (r.routeKeys site) k lanes

/-- The range of LT = I32 or N32 (R205), or of n bits of it (R208). -/
def clampTo (sg : Bool) (n : Nat) (v : Int) : Int :=
  if sg then max (-(2 ^ (n - 1))) (min (2 ^ (n - 1) - 1) v) else max 0 (min (2 ^ n - 1) v)

/-- A lane of LT = I32 or N32 as a number. -/
def laneInt (sg : Bool) (a : BitVec 32) : Int := if sg then a.toInt else a.toNat

/-- All ones or 0 (Table 8.5). -/
def truthLane (p : Bool) : BitVec 32 := if p then 0xFFFFFFFF else 0

/-- Table 8.5: one lane of an operator on bit patterns. -/
def bitsSpec (op : Nat) (a b : BitVec 32) : Option (BitVec 32) :=
  match op with
  | 0x0A => some (a &&& b) | 0x0B => some (a ||| b) | 0x0C => some (a ^^^ b) | 0x0D => some (~~~a)
  | 0x0E => some (a <<< (b &&& 31)) | 0x0F => some (a >>> (b &&& 31)) | 0x10 => some (a.sshiftRight' (b &&& 31))
  | 0x21 => some (BitVec.ofNat 32 ((List.range 32).countP a.getLsbD))
  | 0x22 => some (BitVec.ofNat 32 ((List.range 32).countP (fun i => a.toNat < 2 ^ i)))
  | 0x24 => some ((a &&& 0x7FFFFFFF) ||| (b &&& 0x80000000))
  | _ => none

/-- Table 8.5, R205: one lane of an operator on I32 (`sg`) or N32, computed exactly, then reduced or clamped. -/
def intSpec (sg sat : Bool) (op : Nat) (a b c : BitVec 32) : Option (BitVec 32) :=
  let x := laneInt sg a
  let y := laneInt sg b
  let z := laneInt sg c
  let fit (v : Int) : Option (BitVec 32) := some (BitVec.ofInt 32 (if sat then clampTo sg 32 v else v))
  match op with
  | 0x01 => fit (x + y) | 0x02 => fit (x - y) | 0x03 => fit (x * y) | 0x04 => fit (x * y + z) | 0x05 => fit (x * y - z)
  | 0x06 => fit (-x) | 0x07 => fit x.natAbs | 0x27 => fit (x - y).natAbs | 0x20 => if c = 0 then some a else fit (x + y)
  | 0x08 => some (BitVec.ofInt 32 (min x y)) | 0x09 => some (BitVec.ofInt 32 (max x y))
  | 0x17 => some (BitVec.ofInt 32 (min (max x y) z))
  | 0x11 => some (BitVec.ofInt 32 (x * y / 2 ^ 32))
  | 0x12 => some (truthLane (decide (x = y))) | 0x13 => some (truthLane (decide (x ≠ y)))
  | 0x14 => some (truthLane (decide (x < y))) | 0x15 => some (truthLane (decide (x ≤ y)))
  | _ => none

/-- The fields of a binary32 pattern. -/
def f32Exp (a : BitVec 32) : Nat := (a.extractLsb' 23 8).toNat
def f32Frac (a : BitVec 32) : Nat := (a.extractLsb' 0 23).toNat

/-- A pattern is a NaN, an infinity, a finite value. -/
def f32IsNan (a : BitVec 32) : Bool := f32Exp a == 255 && f32Frac a != 0
def f32IsInf (a : BitVec 32) : Bool := f32Exp a == 255 && f32Frac a == 0

/-- The number that a finite binary32 pattern stands for. -/
def f32Value (a : BitVec 32) : Rat :=
  (if a.msb then -1 else 1) *
    (if f32Exp a = 0 then f32Frac a * (2 : Rat) ^ (-149 : Int) else (2 ^ 23 + f32Frac a) * (2 : Rat) ^ ((f32Exp a : Int) - 150))

/-- The order of patterns that are no NaN, −0 below +0 (R204). -/
def f32Less (a b : BitVec 32) : Bool :=
  match a.msb, b.msb with
  | true, false => true
  | false, true => false
  | false, false => decide (a.toNat < b.toNat)
  | true, true => decide (b.toNat < a.toNat)

/-- The class of Table 8.6. -/
def f32Class (a : BitVec 32) : Nat :=
  if f32IsNan a then 8
  else if f32IsInf a then (if a.msb then 0 else 7)
  else if f32Exp a ≠ 0 then (if a.msb then 1 else 6)
  else if f32Frac a ≠ 0 then (if a.msb then 2 else 5)
  else if a.msb then 3 else 4

/-- The least and the greatest of two patterns that are no NaN. -/
def f32Min (a b : BitVec 32) : BitVec 32 := if f32Less b a then b else a
def f32Max (a b : BitVec 32) : BitVec 32 := if f32Less a b then b else a

/-- How many of its inputs a lane operator on F32 numbers uses; 0 where a NaN is no rule of R204. -/
def f32Inputs (op : Nat) : Nat :=
  if op ∈ [0x06, 0x07, 0x23, 0x50, 0x51, 0x52, 0x53] then 1
  else if op ∈ [0x01, 0x02, 0x03, 0x08, 0x09, 0x27] then 2
  else if op ∈ [0x04, 0x05, 0x17] then 3 else 0

/-- Tables 8.5, 8.6 and 8.9, R204: one lane of an operator on F32 where no rounding takes part. -/
def floatSpec (op : Nat) (a b c : BitVec 32) : Option (BitVec 32) :=
  let nan : BitVec 32 := 0x7FC00000
  let inf (s : Bool) : BitVec 32 := if s then 0xFF800000 else 0x7F800000
  let zero (s : Bool) : BitVec 32 := if s then 0x80000000 else 0
  let n := f32Inputs op
  let number := !f32IsNan a && !f32IsNan b
  let same := a == b || (a ||| b) == 0x80000000
  if (1 ≤ n && f32IsNan a) || (2 ≤ n && f32IsNan b) || (3 ≤ n && f32IsNan c) then some nan
  else match op with
  | 0x06 => some (a ^^^ 0x80000000) | 0x07 => some (a &&& 0x7FFFFFFF)
  | 0x08 => some (f32Min a b) | 0x09 => some (f32Max a b) | 0x17 => some (f32Min (f32Max a b) c)
  | 0x12 => some (truthLane (number && same)) | 0x13 => some (truthLane !(number && same))
  | 0x14 => some (truthLane (number && f32Less a b && !same)) | 0x15 => some (truthLane (number && (f32Less a b || same)))
  | 0x16 => some (BitVec.ofNat 32 (2 ^ f32Class a))
  | 0x20 => if c = 0 then some (if f32IsNan a then nan else a) else if number then none else some nan
  | 0x01 => if f32IsInf a then some (if f32IsInf b && a.msb != b.msb then nan else a) else if f32IsInf b then some b else none
  | 0x02 => if f32IsInf a then some (if f32IsInf b && a.msb == b.msb then nan else a)
            else if f32IsInf b then some (b ^^^ 0x80000000) else none
  | 0x03 => if f32IsInf a || f32IsInf b then
              some (if a &&& 0x7FFFFFFF = 0 ∨ b &&& 0x7FFFFFFF = 0 then nan else inf (a.msb != b.msb))
            else none
  | 0x27 => if f32IsInf a && f32IsInf b && a.msb == b.msb then some nan
            else if f32IsInf a || f32IsInf b then some (inf false) else none
  | 0x23 => if f32IsInf a ∨ a &&& 0x7FFFFFFF = 0 then some a else none
  | 0x50 => if f32IsInf a then some (if a.msb then 0 else inf false) else if a &&& 0x7FFFFFFF = 0 then some 0x3F800000 else none
  | 0x51 => if f32IsInf a then some (zero a.msb) else if a &&& 0x7FFFFFFF = 0 then some (inf a.msb) else none
  | 0x52 => if a &&& 0x7FFFFFFF = 0 then some (inf a.msb) else if a.msb then some nan
            else if f32IsInf a then some 0 else none
  | 0x53 => if f32IsInf a then some (if a.msb then 0 else 0x3F800000) else if a &&& 0x7FFFFFFF = 0 then some 0x3F000000 else none
  | _ => none

/-- The exact result of an operator on finite F32 lanes, which is rounded once (R204). -/
def floatExact (op : Nat) (a b c : BitVec 32) : Option Rat :=
  let x := f32Value a
  let y := f32Value b
  match op with
  | 0x01 => some (x + y) | 0x02 => some (x - y) | 0x03 => some (x * y) | 0x04 => some (x * y + f32Value c)
  | 0x05 => some (x * y - f32Value c) | 0x27 => some (if x ≤ y then y - x else x - y) | 0x20 => if c = 0 then none else some (x + y)
  | _ => none

/-- One field of n bits that PACK makes of a lane (R208). -/
def packSpec (sat sg : Bool) (n : Nat) (v : BitVec 32) : BitVec 32 :=
  (if sat then BitVec.ofInt n (clampTo sg n (laneInt sg v)) else v.setWidth n).setWidth 32

/-- One field of n bits that UNPK makes a lane of (R208). -/
def unpackSpec (sg : Bool) (n : Nat) (v : BitVec 32) : BitVec 32 :=
  if sg then (v.setWidth n).signExtend 32 else (v.setWidth n).setWidth 32


/-- A word of a sender entered an inbox (R247): behind the words that arrived before, but in a cc in which words have arrived
already, before those whose senders have higher numbers. -/
def inboxTakes (e f : Chan) (now src : Nat) (w : Lane) : Prop :=
  (∃ i ≤ e.inbox.length, f.inbox = e.inbox.take i ++ w :: e.inbox.drop i
    ∧ ((e.lateAt ≠ now ∨ ∀ v ∈ e.late, v ≤ src) → i = e.inbox.length)
    ∧ (e.lateAt = now → (∀ v ∈ e.late, src < v) → e.late.length ≤ e.inbox.length → i = e.inbox.length - e.late.length))
  ∧ { f with inbox := e.inbox, late := e.late, lateAt := e.lateAt, peer := e.peer } = e

/-- The run of a context begins at the entry of a handler or task: no register of an earlier run is left, and either the
context stands before the header at this address or the check of the header has trapped (R88, R248, R261). -/
def beginsAt (s t : State) (c addr : Nat) : Prop :=
  t.mem = s.mem ∧ (t.ctx c).run = true ∧ (t.ctx c).runNo = (s.ctx c).runNo + 1 ∧ (∀ r, (t.ctx c).getX r = 0)
  ∧ (∀ r, ((t.ctx c).getH r).v = false) ∧ (t.ctx c).trapDepth ≤ 1
  ∧ ((t.ctx c).trapDepth = 0 → (t.ctx c).blk.pc = addr ∧ (t.ctx c).blk.entering = true)

/-- The only context of the domain that is not as reset is c, of die d, whose task the group is that PMLNCH and PMGIDX of the
die name. -/
def namesOnly (s : State) (d : DieId) (c : CtxId) (y : Ctx) (tk : Task) : Prop :=
  s.ctxs = [(c, y)] ∧ dieOf c = d ∧ y.task = some tk ∧ tk.launch = (s.die d).pmlnch ∧ tk.group = (s.die d).pmgidx

/-- The saturating counters of a die's agents and of its core k, by offset in space 7 (Tables 16.1, 18.2, 21.4, 24.1). -/
def countersAt (s : State) (d : DieId) (k : Nat) : List (Nat × Nat) :=
  let q := s.core (64 * d + k)
  let x := s.die d
  [(4096 * k + 0xC40, q.ixrows), (4096 * k + 0xC48, q.ixnull), (4096 * k + 0xC50, q.ixoob), (4096 * k + 0xC58, q.ixrreq),
   (4096 * k + 0xC60, q.ixrstl), (4096 * k + 0xC68, q.ixnz), (4096 * k + 0xC90, q.cclost), (0x120018, x.vlost),
   (0x120028, x.shwalk), (0x120030, x.shalloc), (0x120038, x.shlose), (0x130030, x.vfetch), (0x150028, x.trdrop),
   (0x150030, x.trunsnk)]


/-- No write is held back from any home: nothing pending, buffered or dirty in an L1. -/
def landed (s : State) : Prop := quiet s ∧ s.dirty = [] ∧ ∀ e ∈ s.ctxs, e.2.sbuf = []

/-- No engine of the context's core has a command of it, and no push of it is in flight. -/
def noCommands (s : State) (c : CtxId) : Prop :=
  (s.ctx c).pushes = [] ∧ (∀ m ∈ (s.core (coreOf c)).copies, m.owner ≠ c) ∧ ∀ m ∈ (s.core (coreOf c)).ix, m.owner ≠ c

/-- The unit of a stage that is under way at a package (R402). -/
def atUnit (s : State) (p : PkgId) (stage u : Nat) : Prop := (s.pkg p).power = true ∧ (s.pkg p).shutdown = false ∧ (s.pkg p).stage = stage ∧ (s.pkg p).unit = u

/-- The start goes on to the next unit, or from a stage's last unit to the next stage (R402). -/
def nextIn (t : State) (p : PkgId) (stage u size : Nat) : Prop :=
  if u + 1 < size then (t.pkg p).stage = stage ∧ (t.pkg p).unit = u + 1
  else (t.pkg p).unit = 0 ∧ ((t.pkg p).stage = stage + 1 ∨ (t.pkg p).stage = 15)

/-- The image begins with the magic value, and its signature verifies under a key that the fuse PKH names (R406). -/
def signedImage (f : Fuses) (i : List Byte) : Prop :=
  leNat (i.take 4) = 0x5855524B ∧ Config.signatureOk i = true ∧ Config.shake256 (Config.imageKey i) = f.pkh

/-- The instruction parcel at a virtual address of a context is fetched from a GA: a lease-table entry of its job grants
execution there, and the read completes (R111). -/
def fetchable (s : State) (c : CtxId) (va g : Nat) : Prop :=
  va < 2 ^ 56 ∧ ∃ e, leaseFind (s.die (dieOf c)) (s.ctx c).sys.asid va = some e ∧ e.x = true ∧ gaSpace e.gbase ≤ 2
    ∧ g = e.gbase + (va - e.va) ∧ fenced s (pkgOf (dieOf c)) .engine g 2 = false ∧ hasUe s g 2 = false

/-- The turn that comes next, and the state without it: the first planned one, or that of the current context's core, in
which a header or a prefix takes no cc of its own (log 10). -/
def turnIs (s s0 : State) (turn : Turn) : Prop :=
  (s.agenda = turn :: s0.agenda ∧ s0 = { s with agenda := s0.agenda })
  ∨ (s.agenda = [] ∧ s0 = s
      ∧ turn = .core (if s.me.blk.entering = true ∨ s.me.imx ≠ [] then 0 else 1) (coreOf s.cur))

/-- Words written out from Tables 3.1 to 3.16, as memory holds them, with the instruction each stands for. -/
def knownWords : List (List Byte × Instr) :=
  let t : Pred := ⟨0, false⟩
  [ ([0xC1, 0x10, 0x30, 0x00], .hdr 3 4 false true true),
    ([0x1D, 0x14, 0x91, 0x20], .ld t 5 2 .w .own .acq 16),
    ([0x27, 0x14, 0x00, 0x00], .qputW t 0 5),
    ([0x64, 0xF8], .adds 3 0x3E),
    ([0x95, 0x46, 0x02, 0x00], .imx 0x91A),
    ([0x13, 0x1C, 0x3C, 0x2B], .li t 7 0x5678),
    -- SUB x3, x4, x5 under p2 false: FN 1, B 5, A 4, D 3, PN 1, PG 2, MAJ 1
    ([0x83, 0x0E, 0x52, 0x02], .sub ⟨2, true⟩ 3 4 5),
    -- BR −4: DISP22 = 2^22 − 2, MAJ 11
    ([0x17, 0xF8, 0xFF, 0xFF], .br t (BitVec.ofInt 22 (-2))),
    -- AMO.ADD.D x6, [h1 + x7], acqrel, DOMAIN: ORD 3, SCOPE 3, SZW 1, AOP 1, Y 7, H 1, X 6, MAJ 17
    ([0x23, 0x98, 0x38, 0xF9], .amo t 6 1 7 .add true .domain .acqrel),
    -- MTS 0x307, x9: DIR 1, A 9, MAJ 23
    ([0x2F, 0x80, 0x74, 0xB0], .mts t 0x307 9),
    -- LDC.D x2, [y1 + x3]: SUB 9, Q 1, Y 3, K 3, X 2, MAJ 20
    ([0x29, 0x88, 0x48, 0x63], .ldc t false .d 2 1 3),
    -- BCLOSE d2, tag 33: SUB 2, Q 2, Y 1, K 1, MAJ 21
    ([0x2B, 0x00, 0x11, 0x21], .bclose t 2 33),
    -- TRAP #37: FN 0x10, B 1, A 5, MAJ 22
    ([0x2D, 0x80, 0x12, 0x20], .trap t 37) ]

end Sys2Proof.Claims

open Sys2Proof.Claims

/-! ## Integer arithmetic, compares, immediates -/

/-- R95, Tables 4.2 and 4.4: each row completes by writing its result of a and b to xd with its latency. What `finish`
does with the result is ResultLands. Counts, byte reversal and widening are said by the bits of their result. -/
def Obligations.IntResults : Prop :=
  (∀ r ∈ intRows, ∀ (p : Pred) (d a b : BitVec 5) (s : State), Issues s p →
    exec (r.1 p d a b) s = .next (finish s 4 r.2.1 (.x d.toNat (r.2.2 (s.x a) (s.x b)))))
  ∧ (∀ (p : Pred) (d a : BitVec 5) (s : State), Issues s p →
    (∀ n ≤ 64, (∀ i < n, (s.x a).getLsbD (63 - i) = false) → (n < 64 → (s.x a).getLsbD (63 - n) = true) →
      exec (.clz p d a) s = .next (finish s 4 1 (.x d.toNat (wordOf n))))
    ∧ (∀ n ≤ 64, (∀ i < n, (s.x a).getLsbD i = false) → (n < 64 → (s.x a).getLsbD n = true) →
      exec (.ctz p d a) s = .next (finish s 4 1 (.x d.toNat (wordOf n))))
    ∧ exec (.popc p d a) s = .next (finish s 4 1
        (.x d.toNat (wordOf ((List.range 64).countP (fun i => (s.x a).getLsbD i)))))
    ∧ (∀ v : Word, (∀ i < 8, v.extractLsb' (8 * i) 8 = (s.x a).extractLsb' (56 - 8 * i) 8) →
      exec (.bswap p d a) s = .next (finish s 4 1 (.x d.toNat v)))
    ∧ ∀ r ∈ widenRows, exec (r.1 p d a) s = .next (finish s 4 1 (.x d.toNat (r.2 (s.x a)))))

/-- R96: the division edges; and a divisor other than 0 gives the quotient rounded toward zero and its remainder. -/
def Obligations.DivisionResults : Prop :=
  ∀ (p : Pred) (d a b : BitVec 5) (s : State), Issues s p →
    (s.x b ≠ 0 → ∀ r ∈ divRows, exec (r.1 p d a b) s = .next (finish s 4 20 (.x d.toNat (r.2 (s.x a) (s.x b)))))
    ∧ (s.x b = 0 →
        exec (.div p d a b) s = .next (finish s 4 20 (.x d.toNat 0xFFFFFFFFFFFFFFFF))
        ∧ exec (.divu p d a b) s = .next (finish s 4 20 (.x d.toNat 0xFFFFFFFFFFFFFFFF))
        ∧ exec (.rem p d a b) s = .next (finish s 4 20 (.x d.toNat (s.x a)))
        ∧ exec (.remu p d a b) s = .next (finish s 4 20 (.x d.toNat (s.x a))))
    ∧ (s.x a = BitVec.intMin 64 → s.x b = BitVec.allOnes 64 →
        exec (.div p d a b) s = .next (finish s 4 20 (.x d.toNat (BitVec.intMin 64)))
        ∧ exec (.rem p d a b) s = .next (finish s 4 20 (.x d.toNat 0)))

/-- R97 (BFX, BFXS) and R98: bit fields, said bit by bit of the result. -/
def Obligations.BitFields : Prop :=
  ∀ (p : Pred) (d a b wm1 : BitVec 5) (pos : BitVec 6) (v : Word) (s : State), Issues s p →
    (pos.toNat + wm1.toNat < 64 →
      ((∀ i < 64, v.getLsbD i = (decide (i ≤ wm1.toNat) && (s.x a).getLsbD (pos.toNat + i))) →
        exec (.bfx p d a wm1 pos) s = .next (finish s 4 1 (.x d.toNat v)))
      ∧ ((∀ i < 64, v.getLsbD i = (s.x a).getLsbD (pos.toNat + min i wm1.toNat)) →
        exec (.bfxs p d a wm1 pos) s = .next (finish s 4 1 (.x d.toNat v))))
    ∧ (let lo := ((s.x b).extractLsb' 0 6).toNat
       let w := ((s.x b).extractLsb' 8 6).toNat + 1
       (∀ i < 64, v.getLsbD i =
          if lo ≤ i ∧ i < lo + w then (s.x a).getLsbD (i - lo) else (s.x d).getLsbD i) →
        exec (.bfins p d a b) s = .next (finish s 4 1 (.x d.toNat v)))

/-- R99: compares write the condition to pd, the predicate operations their function; MVPX and MVXP move between the files. -/
def Obligations.ComparesAndPredicates : Prop :=
  ∀ (p : Pred) (d a b : BitVec 5) (pd pa pb : BitVec 3) (s : State), Issues s p →
    (∀ r ∈ cmpRows, exec (r.1 p pd a b) s = .next (finish s 4 1 (.p pd.toNat (r.2 (s.x a) (s.x b)))))
    ∧ (∀ r ∈ predRows, exec (r.1 p pd pa pb) s = .next (finish s 4 1 (.p pd.toNat (r.2 (s.p pa) (s.p pb)))))
    ∧ exec (.mvpx p d pa) s = .next (finish s 4 1 (.x d.toNat (if s.p pa = true then 1 else 0)))
    ∧ exec (.mvxp p pd a) s = .next (finish s 4 1 (.p pd.toNat (decide (s.x a ≠ 0))))

/-- R71, R97, R99: the immediate words, with up to two prefixes before those that take them. R63: each 16-bit form has the
effect of its 32-bit form, and takes 2 bytes; HINT has none. -/
def Obligations.ImmediateResults : Prop :=
  (∀ (p : Pred) (d a : BitVec 5) (pd : BitVec 3) (imm : BitVec 12) (long : BitVec 17) (sh : BitVec 6) (s : State),
    s.me.imx.length ≤ 2 → s.me.holds p = true →
    (∀ r ∈ immRows, exec (r.1 p d a imm) s = .next (finish s 4 1 (.x d.toNat (r.2 (s.x a) (immBits s.me.imx imm)))))
    ∧ (∀ r ∈ cmpiRows, exec (r.1 p pd a imm) s = .next (finish s 4 1 (.p pd.toNat (r.2 (s.x a) (immBits s.me.imx imm)))))
    ∧ exec (.li p d long) s = .next (finish s 4 1 (.x d.toNat (immBits s.me.imx long)))
    ∧ (s.me.imx = [] → ∀ r ∈ shiftRows, exec (r.1 p d a sh) s = .next (finish s 4 1 (.x d.toNat (r.2 (s.x a) sh)))))
  ∧ (∀ (d a : BitVec 5) (imm : BitVec 6) (c : BitVec 11) (s : State), s.me.imx = [] →
    exec (.mvs d a) s = .next (finish s 2 1 (.x d.toNat (s.x a)))
    ∧ exec (.adds d imm) s = .next (finish s 2 1 (.x d.toNat (s.x d + imm.signExtend 64)))
    ∧ exec (.lis d imm) s = .next (finish s 2 1 (.x d.toNat (imm.signExtend 64)))
    ∧ exec (.hint c) s = .next (retire s 2))

/-- The frame of the words that only write a register: whatever the mode, a step of one leaves memory, every die, core,
package and every other context as they were; of the running context it leaves every handle and fibre with no write
pending on it, every x and p register but its destination and those that a pending write of exposed mode names, and every
system register. -/
def Obligations.RegisterWordFrame : Prop :=
  ∀ (i : Instr) (s t : State), regOnly i = true → s.me.imx = [] → exec i s = .next t →
    t.mem = s.mem ∧ t.dies = s.dies ∧ t.cores = s.cores ∧ t.pkgs = s.pkgs ∧ t.now = s.now ∧ t.cur = s.cur
    ∧ t.dir = s.dir ∧ t.dirty = s.dirty ∧ t.bmsgs = s.bmsgs ∧ t.cmsgs = s.cmsgs
    ∧ (∀ c, c ≠ s.cur → t.ctx c = s.ctx c)
    ∧ (∀ r, xDest i ≠ some r → (∀ q ∈ s.me.pend, ∀ v, q.wr ≠ .x r v) → t.me.getX r = s.me.getX r)
    ∧ (∀ r < 8, pDest i ≠ some r → (∀ q ∈ s.me.pend, ∀ v, q.wr ≠ .p r v) → t.me.getP r = s.me.getP r)
    ∧ (∀ r, (∀ q ∈ s.me.pend, ∀ v, q.wr ≠ .h r v) → t.me.getH r = s.me.getH r)
    ∧ ((∀ q ∈ s.me.pend, ∀ r v, q.wr ≠ .f r v) → t.me.f = s.me.f)
    ∧ t.me.s = s.me.s ∧ t.me.q = s.me.q ∧ t.me.y = s.me.y ∧ t.me.d = s.me.d ∧ t.me.rg = s.me.rg
    ∧ t.me.sys = s.me.sys ∧ t.me.sbuf = s.me.sbuf ∧ t.me.task = s.me.task ∧ t.me.run = s.me.run

/-! ## Registers, steps and blocks -/

/-- R88, R91, R92: what becomes of a result of latency n ≥ 1. In scoreboard mode the register holds it after the step, for
every later reader; in exposed mode it is written at step t + n and the register keeps its value until then, unless an
earlier result is written. x0 and p0 keep their values. -/
def Obligations.ResultLands : Prop :=
  (∀ (s : State) (n lat r : Nat) (v : Word), s.me.blk.m = true → s.me.pend = [] →
    (finish s n lat (.x r v)).me.getX r = (if r = 0 then 0 else v)
    ∧ (∀ q, q ≠ r → (finish s n lat (.x r v)).me.getX q = s.me.getX q))
  ∧ (∀ (s : State) (n lat r : Nat) (v : Bool), s.me.blk.m = true → s.me.pend = [] → r < 8 →
    (finish s n lat (.p r v)).me.getP r = (if r = 0 then true else v)
    ∧ (∀ q < 8, q ≠ r → (finish s n lat (.p r v)).me.getP q = s.me.getP q))
  ∧ (∀ (s : State) (n lat r : Nat) (v : Word), s.me.blk.m = false → s.me.pend = [] → r ≠ 0 →
    (lat = 1 → (finish s n lat (.x r v)).me.getX r = v ∧ (finish s n lat (.x r v)).me.pend = [])
    ∧ (1 < lat → (finish s n lat (.x r v)).me.getX r = s.me.getX r
        ∧ (finish s n lat (.x r v)).me.pend = [⟨s.me.stepNo + lat, .x r v⟩]))
  ∧ (∀ (c : Ctx) (due r : Nat) (v : Word), c.pend = [⟨due, .x r v⟩] → r ≠ 0 →
    (due = c.stepNo + 1 → c.tickStep.getX r = v ∧ c.tickStep.pend = [])
    ∧ (c.stepNo + 1 < due → c.tickStep.getX r = c.getX r ∧ c.tickStep.pend = c.pend))

/-- R66: where the program counter stands after a word of n bytes: at the next word of the body; after the last one at the
first word of the body again, REP times; then before the header that follows the block, to be entered by fall-through.
The word takes one issue step. -/
def Obligations.BlockAdvance : Prop :=
  ∀ (s : State) (n : Nat),
    let b := s.me.blk
    let t := (retire s n).me
    t.stepNo = s.me.stepNo + 1 ∧ t.imx = [] ∧ t.wait = none
    ∧ (b.pc + n < b.hdr + 4 + 2 * b.len → t.blk.pc = b.pc + n ∧ t.blk.hdr = b.hdr ∧ t.blk.iter = b.iter
        ∧ t.blk.entering = b.entering)
    ∧ (b.hdr + 4 + 2 * b.len ≤ b.pc + n → b.iter < b.rep →
        t.blk.pc = b.hdr + 4 ∧ t.blk.hdr = b.hdr ∧ t.blk.iter = b.iter + 1 ∧ t.blk.entering = b.entering)
    ∧ (b.hdr + 4 + 2 * b.len ≤ b.pc + n → b.rep ≤ b.iter →
        t.blk.pc = b.hdr + 4 + 2 * b.len ∧ t.blk.entering = true ∧ t.blk.ft = true)

/-- R89: a predicated-off word takes its step and has no other effect: no fault, no pop, no write; an
undecodable word traps whatever its predicate bits. -/
def Obligations.PredicatedOff : Prop :=
  (∀ (i : Instr) (p : Pred) (s : State), predicateOf i = some p → s.me.holds p = false →
    s.me.imx = [] ∨ takesPrefix i = true → exec i s = .next (retire s 4))
  ∧ (∀ (w : Lane) (s : State), s.me.imx = [] → exec (.badop w) s = .next (trapEntry s s.cur 0x01 w.toNat false false))

/-! ## Prefixes, headers, transfers -/

/-- R71: a prefix joins the instruction and takes no step; a third prefix, or one that no word of the body follows, and a
prefix before a word that takes none, are BADOP at the first prefix of the instruction. -/
def Obligations.LongImmediatePrefix : Prop :=
  ∀ (m : BitVec 26) (s : State),
    let c := s.me
    let last := c.blk.hdr + 4 + 2 * c.blk.len ≤ c.blk.pc + 4
    (c.imx.length < 2 → ¬last →
      exec (.imx m) s = .next (s.modMe (fun c => { c with imx := c.imx ++ [m], blk := { c.blk with pc := c.blk.pc + 4 } })))
    ∧ (∀ a l, c.imx = a :: l → (c.imx.length = 2 ∨ last) →
      exec (.imx m) s = .next (trapEntry s s.cur 0x01 (21 + 64 * a.toNat) false false))
    ∧ (c.imx = [] → last → exec (.imx m) s = .next (trapEntry s s.cur 0x01 (21 + 64 * m.toNat) false false))
    ∧ (∀ i a l, c.imx = a :: l → (predicateOf i).isSome = true ∨ i.bytes = 2 → takesPrefix i = false →
      exec i s = .next (trapEntry s s.cur 0x01 (21 + 64 * a.toNat) false false))

/-- R64 to R66, R93, R284: a header where execution enters a block, whose fetched body is well formed, opens the block in the
iteration it is entered in and takes no step; results of a block of the other mode land first. Elsewhere, with LEN = 0, or before
a malformed body, it is BADOP at the header. While a host owns a region that the body is fetched from, it waits. -/
def Obligations.HeaderEntersBlock : Prop :=
  ∀ (rep : BitVec 12) (len : BitVec 10) (l e m : Bool) (s : State),
    (∀ s' ps, s.me.blk.entering = true → len ≠ 0 → s.me.blk.pin = none →
      codeWait s s.cur (s.me.blk.pc + 4) len.toNat = none →
      fetchParcels s s.cur (s.me.blk.pc + 4) len.toNat = (s', .ok ps) → bodyBad false ps = false →
      ∃ t, exec (.hdr rep len l e m) s = .next t
        ∧ t.me.blk.pc = s'.me.blk.pc + 4 ∧ t.me.blk.hdr = s'.me.blk.pc ∧ t.me.blk.rep = rep.toNat
        ∧ t.me.blk.len = len.toNat ∧ t.me.blk.m = m ∧ t.me.blk.iter = s'.me.blk.iter ∧ t.me.blk.entering = false
        ∧ t.me.stepNo = s'.me.stepNo ∧ t.mem = s'.mem
        ∧ (m = s'.me.blk.m → t.me.pend = s'.me.pend ∧ t.me.x = s'.me.x) ∧ (m ≠ s'.me.blk.m → t.me.pend = []))
    ∧ (∀ s' ps, s.me.blk.entering = true → len ≠ 0 → s.me.blk.pin = none →
      codeWait s s.cur (s.me.blk.pc + 4) len.toNat = none →
      fetchParcels s s.cur (s.me.blk.pc + 4) len.toNat = (s', .ok ps) → bodyBad false ps = true →
      ∃ w, encode (.hdr rep len l e m) = some w ∧ exec (.hdr rep len l e m) s = .next (trap s' 0x01 w))
    ∧ (∀ w, s.me.blk.entering = true → len ≠ 0 → s.me.blk.pin = none →
      codeWait s s.cur (s.me.blk.pc + 4) len.toNat = some w → exec (.hdr rep len l e m) s = .next (waitFor s w))
    ∧ (s.me.blk.entering = false ∨ len = 0 →
      ∃ w, encode (.hdr rep len l e m) = some w ∧ exec (.hdr rep len l e m) s = .next (trap s 0x01 w))

/-- R101: a transfer whose target passes the check of R100 goes to it at once, CALL and CALLR writing the link value. -/
def Obligations.TransferTaken : Prop :=
  ∀ (p : Pred) (d a b : BitVec 5) (disp : BitVec 22) (s s' : State), Issues s p →
    let here := (BitVec.ofNat 64 s.me.blk.pc + 2 * disp.signExtend 64).toNat
    let go (tgt : Nat) (link : Bool) : State := s'.modMe (fun c =>
      ((if link then c.put 1 (.x 1 (wordOf (c.blk.hdr + 4 + 2 * c.blk.len))) else c).goTo tgt false).tickStep)
    (headerWait s s.cur here = none → checkTarget s s.cur here = (s', .ok ()) →
      exec (.br p disp) s = .next (go here false) ∧ exec (.call p disp) s = .next (go here true))
    ∧ (headerWait s s.cur (s.x a).toNat = none → checkTarget s s.cur (s.x a).toNat = (s', .ok ()) →
      exec (.jr p a) s = .next (go (s.x a).toNat false) ∧ exec (.callr p d a b) s = .next (go (s.x a).toNat true))

/-- R60, R100, R284: what the check of a target finds, and that a transfer whose check fails traps at the transferring word
and writes neither the program counter nor x1; while a host owns a region that the check reads, the transfer waits. -/
def Obligations.TargetCheck : Prop :=
  (∀ (s : State) (c : CtxId) (tgt : Nat), tgt % 2 = 1 → checkTarget s c tgt = (s, .error (0x02, tgt, false)))
  ∧ (∀ (s s' : State) (c : CtxId) (tgt : Nat), tgt % 2 = 0 →
      (∀ code va, fetchHeader s c tgt = (s', .error (code, va)) → checkTarget s c tgt = (s', .error (code, va, true)))
      ∧ (fetchHeader s c tgt = (s', .ok none) → checkTarget s c tgt = (s', .error (0x02, tgt, false)))
      ∧ (∀ rep len l m, fetchHeader s c tgt = (s', .ok (some (rep, len, l, false, m))) →
          checkTarget s c tgt = (s', .error (0x02, tgt, false)))
      ∧ (∀ rep len l m, fetchHeader s c tgt = (s', .ok (some (rep, len, l, true, m))) → checkTarget s c tgt = (s', .ok ())))
  ∧ (∀ (p : Pred) (d a b : BitVec 5) (disp : BitVec 22) (s s' : State) (code va : Nat) (fetch : Bool) (w : Wait), Issues s p →
      let here := (BitVec.ofNat 64 s.me.blk.pc + 2 * disp.signExtend 64).toNat
      (headerWait s s.cur here = none → checkTarget s s.cur here = (s', .error (code, va, fetch)) →
        exec (.br p disp) s = .next (trapEntry s' s'.cur code va false fetch)
        ∧ exec (.call p disp) s = .next (trapEntry s' s'.cur code va false fetch))
      ∧ (headerWait s s.cur (s.x a).toNat = none → checkTarget s s.cur (s.x a).toNat = (s', .error (code, va, fetch)) →
        exec (.jr p a) s = .next (trapEntry s' s'.cur code va false fetch)
        ∧ exec (.callr p d a b) s = .next (trapEntry s' s'.cur code va false fetch))
      ∧ (headerWait s s.cur here = some w →
        exec (.br p disp) s = .next (waitFor s w) ∧ exec (.call p disp) s = .next (waitFor s w))
      ∧ (headerWait s s.cur (s.x a).toNat = some w →
        exec (.jr p a) s = .next (waitFor s w) ∧ exec (.callr p d a b) s = .next (waitFor s w)))

/-- R102, R284: BRQ and BRQ.N at an admitted branch-outcome queue with a passing target and a token at its head: DATA whose
outcome bit agrees is taken, DATA that does not and EOS go on, EEOS traps QERR; the token is popped. An unbound q traps
BOUNDS first. -/
def Obligations.BranchOnQueue : Prop :=
  ∀ (p : Pred) (q : BitVec 4) (disp : BitVec 17) (neg : Bool) (s s' : State), Issues s p →
    let i : Instr := if neg then .brqN p q disp else .brq p q disp
    let tgt := (BitVec.ofNat 64 s.me.blk.pc + 2 * disp.signExtend 64).toNat
    (s.me.boundFor q.toNat .bqpop = none → exec i s = .next (trap s 0x13 q.toNat))
    ∧ (∀ b w, s.me.boundFor q.toNat .bqpop = some b → headerWait s s.cur tgt = some w → exec i s = .next (waitFor s w))
    ∧ (∀ b e, headerWait s s.cur tgt = none → s.me.boundFor q.toNat .bqpop = some b → checkTarget s s.cur tgt = (s', .error e) →
        exec i s = .next (trapEntry s' s'.cur e.1 e.2.1 false e.2.2))
    ∧ (∀ b k r t ts, headerWait s s.cur tgt = none → s.me.boundFor q.toNat .bqpop = some (b, k) → checkTarget s s.cur tgt = (s', .ok ()) →
        s'.me.boundFor q.toNat .bqpop = some r → consumerBusy s' s'.cur q.toNat = false → r.1.err = false →
        r.2.ctxQ = t :: ts → r.2.cut = false →
        let cnt := (r.1.cnt + 1) % 2 ^ 32
        (t.kind = .data → t.eng = false →
          let done := s'.modMe (fun c => c.putEnd q.toNat
            ({ r.1 with cnt := cnt, endf := false, cur := none, lp := 0 }, { r.2 with ctxQ := ts }))
          exec i s = .next (if (t.lane 0).getLsbD 0 != neg then done.modMe (fun c => (c.goTo tgt false).tickStep)
                            else retire done 4))
        ∧ (t.kind = .eos → exec i s = .next (retire (s'.modMe (fun c => c.putEnd q.toNat
            ({ r.1 with cnt := cnt, endf := true }, { r.2 with ctxQ := ts }))) 4))
        ∧ (t.kind = .eeos → exec i s = .next (trap (s'.modMe (fun c => c.putEnd q.toNat
            ({ r.1 with err := true }, { r.2 with ctxQ := ts }))) 0x20 q.toNat)))

/-! ## Traps, returns, privilege, system registers -/

/-- R108: what taking a trap saves and where it goes. Results in flight land first. Execution stands before the handler's
header, or, where TVEC fails its check, the context has stopped; memory is as before. While a host owns a region that the
handler's header is read from, the trap is held: the model's reading of R284 (log 125). -/
def Obligations.TrapEntrySaves : Prop :=
  ∀ (s : State) (c : CtxId) (code eva : Nat) (skip fetch : Bool),
    let x := (s.ctx c).landAll
    let t := trapEntry s c code eva skip fetch
    let y := (t.ctx c).sys
    (headerWait s c (s.ctx c).sys.tvec.toNat = none →
      y.epc = wordOf (x.blk.pc - 4 * x.imx.length)
      ∧ y.ehdr = wordOf (if x.blk.entering then x.blk.pc else x.blk.hdr)
      ∧ y.eitr = wordOf (if x.blk.entering then (if x.blk.ft then 2 ^ 12 else 0) + x.blk.iter else x.blk.iter)
      ∧ y.cause = wordOf (code + (if fetch then 2 ^ 8 else 0)) ∧ y.eva = wordOf eva
      ∧ y.ppl = x.sys.pl ∧ y.pie = x.sys.ie ∧ y.skip = skip ∧ y.pl = true ∧ y.ie = false
      ∧ y.tvec = x.sys.tvec ∧ y.lease = x.sys.lease ∧ y.asid = x.sys.asid ∧ y.sscr0 = x.sys.sscr0
      ∧ y.timecmp = x.sys.timecmp
      ∧ (t.ctx c).x = x.x ∧ (t.ctx c).p = x.p ∧ (t.ctx c).h = x.h ∧ (t.ctx c).pend = [] ∧ (t.ctx c).imx = []
      ∧ t.mem = s.mem ∧ (∀ k, k ≠ c → t.ctx k = s.ctx k)
      ∧ (((t.ctx c).blk.pc = x.sys.tvec.toNat ∧ (t.ctx c).blk.entering = true ∧ (t.ctx c).blk.ft = false
            ∧ (t.ctx c).stopped = x.stopped)
          ∨ ((t.ctx c).stopped = true ∧ (t.ctx c).blk = x.blk))
      ∧ (x.sys.tvec.toNat % 2 = 1 → (t.ctx c).stopped = true))
    ∧ (∀ w, headerWait s c (s.ctx c).sys.tvec.toNat = some w →
      t = s.modCtx c (fun z => { z with held := some ⟨code, eva, skip, fetch⟩, wait := some ⟨w, s.now⟩ }))

/-- R109, R77: TRAP, BKPT and a word that is no instruction enter the handler with their cause, EVA and SKIP; the TIMER
trap is taken of a context between two words with IE = 1 once CYCLE has reached TIMECMP, and is not taken before. -/
def Obligations.TrappingWords : Prop :=
  (∀ (p : Pred) (n : BitVec 10) (s : State), Issues s p →
    exec (.trap p n) s = .next (trapEntry s s.cur 0x08 n.toNat true false)
    ∧ exec (.bkpt p) s = .next (trapEntry s s.cur 0x29 0 false false))
  ∧ (∀ (w : Lane) (s : State), s.me.imx = [] → exec (.badop w) s = .next (trapEntry s s.cur 0x01 w.toNat false false))
  ∧ (∀ (c : CtxId) (s : State), (s.ctx c).between = true →
    ((s.ctx c).sys.ie = true → (s.ctx c).sys.timecmp.toNat ≤ s.now →
      exec (.timerTrap c) s = .next (trapEntry s c 0x48 0 false false))
    ∧ ((s.ctx c).sys.ie = false ∨ s.now < (s.ctx c).sys.timecmp.toNat → exec (.timerTrap c) s = .next s))

/-- R110: RETH restores PL and IE, clears SKIP and resumes: at the header, to be entered in the iteration of EITR, where EPC =
EHDR; else at EPC in that iteration, or past the instruction that stands there when SKIP = 1; where EPC starts no word of the
body it traps BADTGT. R284: it waits while a host owns a region that it reads. R67: of a pinned block the parcels are those of the
loop buffer. Choices of the model: SKIP at the header (log 12), which parcels are fetched and which read ahead (log 49), how long an
instruction counts whose parcels cannot all be read (log 129), EVA = EPC of BADTGT (log 50). -/
def Obligations.ReturnFromTrap : Prop :=
  ∀ (p : Pred) (s s1 : State) (rep len : Nat) (l e m : Bool), Issues s p → s.me.sys.pl = true → s.me.ending = false →
    let y := s.me.sys
    let epc := y.epc.toNat
    let ehdr := y.ehdr.toNat
    let iter := (y.eitr.extractLsb' 0 12).toNat
    let i := (epc - (ehdr + 4)) / 2
    (∀ w, rethWait s = some w → exec (.reth p) s = .next (waitFor s w))
    ∧ (rethWait s = none → ehdr % 2 = 0 → fetchHeader s s.cur ehdr = (s1, .ok (some (rep, len, l, e, m))) → iter ≤ rep →
      (epc = ehdr → y.eitr.getLsbD 12 = true ∨ e = true →
        ∃ t, exec (.reth p) s = .next t ∧ t.me.blk.pc = ehdr ∧ t.me.blk.entering = true ∧ t.me.blk.iter = iter
          ∧ t.me.blk.ft = y.eitr.getLsbD 12 ∧ t.me.sys.pl = s1.me.sys.ppl ∧ t.me.sys.ie = s1.me.sys.pie
          ∧ t.me.sys.skip = false)
      ∧ (∀ s2 v before here, ehdr + 4 ≤ epc → epc < ehdr + 4 + 2 * len → epc % 2 = 0 →
        bodyParcel s1 s.cur ehdr epc = (s2, .ok v) → aheadParcels s2 s.cur ehdr (ehdr + 4) i = before → before.length = i →
        aheadParcels s2 s.cur ehdr epc (min (len - i) 5) = here →
        (startsWord (before ++ here) (ehdr + 4) epc = false → exec (.reth p) s = .next (trap s2 0x02 epc))
        ∧ (startsWord (before ++ here) (ehdr + 4) epc = true →
          ∃ t, exec (.reth p) s = .next t ∧ t.me.sys.pl = s2.me.sys.ppl ∧ t.me.sys.ie = s2.me.sys.pie
            ∧ t.me.sys.skip = false ∧ t.me.blk.hdr = ehdr ∧ t.me.blk.rep = rep ∧ t.me.blk.len = len ∧ t.me.blk.m = m
            ∧ (y.skip = false → t.me.blk.pc = epc ∧ t.me.blk.iter = iter ∧ t.me.blk.entering = false)
            ∧ (y.skip = true →
                let next := epc + instrBytes here
                (next < ehdr + 4 + 2 * len → t.me.blk.pc = next ∧ t.me.blk.iter = iter)
                ∧ (ehdr + 4 + 2 * len ≤ next → iter < rep → t.me.blk.pc = ehdr + 4 ∧ t.me.blk.iter = iter + 1)
                ∧ (ehdr + 4 + 2 * len ≤ next → rep ≤ iter →
                    t.me.blk.pc = ehdr + 4 + 2 * len ∧ t.me.blk.entering = true)))))

/-- R110, R75: RETH traps PRIV at U, and BADTGT where EHDR names no header, EITR passes its REP, or EPC stands outside
the body; a fetch fault of its checks is the resumed word's, with SKIP, EPC, EHDR and EITR kept. The other words of
privilege S trap PRIV at U too. That BADTGT leaves EPC in EVA is the model's choice (log 50). -/
def Obligations.PrivilegeAndReturnFaults : Prop :=
  (∀ (i : Instr) (p : Pred) (s : State), privilegedWord i = true → predicateOf i = some p → Issues s p →
    s.me.sys.pl = false → ∃ w, encode i = some w ∧ exec i s = .next (trapEntry s s.cur 0x03 w false false))
  ∧ (∀ (p : Pred) (s : State), Issues s p → s.me.sys.pl = true → s.me.ending = false → rethWait s = none →
    let y := s.me.sys
    let ehdr := y.ehdr.toNat
    (ehdr % 2 = 1 → exec (.reth p) s = .next (trap s 0x02 y.epc.toNat))
    ∧ (∀ s1, ehdr % 2 = 0 → fetchHeader s s.cur ehdr = (s1, .ok none) → exec (.reth p) s = .next (trap s1 0x02 y.epc.toNat))
    ∧ (∀ s1 rep len l e m, ehdr % 2 = 0 → fetchHeader s s.cur ehdr = (s1, .ok (some (rep, len, l, e, m))) →
        (rep < (y.eitr.extractLsb' 0 12).toNat
          ∨ (y.epc.toNat = ehdr ∧ y.eitr.getLsbD 12 = false ∧ e = false)
          ∨ (y.epc.toNat ≠ ehdr ∧ (y.epc.toNat < ehdr + 4 ∨ ehdr + 4 + 2 * len ≤ y.epc.toNat ∨ y.epc.toNat % 2 = 1))) →
        exec (.reth p) s = .next (trap s1 0x02 y.epc.toNat))
    ∧ (∀ s1 code va, ehdr % 2 = 0 → fetchHeader s s.cur ehdr = (s1, .error (code, va)) →
        headerWait s1 s1.cur s1.me.sys.tvec.toNat = none →
        headerWait (s1.modMe Ctx.restore) s1.cur s1.me.sys.tvec.toNat = none →
        ∃ t, exec (.reth p) s = .next t ∧ t.me.sys.epc = s1.me.sys.epc ∧ t.me.sys.ehdr = s1.me.sys.ehdr
          ∧ t.me.sys.eitr = s1.me.sys.eitr ∧ t.me.sys.skip = s1.me.sys.skip
          ∧ t.me.sys.cause = wordOf (code + 2 ^ 8) ∧ t.me.sys.eva = wordOf va
          ∧ t.me.sys.ppl = s1.me.sys.ppl ∧ t.me.sys.pie = s1.me.sys.pie))

/-- R104 to R106: MFS writes the register's value with latency 2 and MTS writes the register, each at the level that Table
4.5 asks for; below it PRIV, an unassigned number BADOP. A register that a context holds reads what MTS wrote, reserved
bits 0; ASID keeps 15 bits (R272). That a write of PPL 2 or 3 leaves PPL alone and writes the other fields is the model's reading
of Table 4.6 (log 6). -/
def Obligations.SystemRegisters : Prop :=
  (∀ (p : Pred) (d a : BitVec 5) (n : BitVec 11) (s : State), Issues s p →
    (sysAssigned n.toNat = true → (sysReadS n.toNat = true → s.me.sys.pl = true) →
      exec (.mfs p d n) s = .next (finish s 4 2 (.x d.toNat (sysRead s s.cur n.toNat))))
    ∧ (sysAssigned n.toNat = true → sysReadS n.toNat = true → s.me.sys.pl = false →
      ∃ w, encode (.mfs p d n) = some w ∧ exec (.mfs p d n) s = .next (trap s 0x03 w))
    ∧ (sysAssigned n.toNat = false → ∃ w, encode (.mfs p d n) = some w ∧ exec (.mfs p d n) s = .next (trap s 0x01 w))
    ∧ (sysWritten n.toNat = true → (n ≠ 0x020 → s.me.sys.pl = true) →
      exec (.mts p n a) s = .next (retire (sysWrite s s.cur n.toNat (s.x a)) 4))
    ∧ (sysWritten n.toNat = true → n ≠ 0x020 → s.me.sys.pl = false →
      ∃ w, encode (.mts p n a) = some w ∧ exec (.mts p n a) s = .next (trap s 0x03 w))
    ∧ (sysWritten n.toNat = false → ∃ w, encode (.mts p n a) = some w ∧ exec (.mts p n a) s = .next (trap s 0x01 w)))
  ∧ (∀ (y : Sys) (m : Bool) (v : Word), ∀ n ∈ [0x002, 0x003, 0x004, 0x006, 0x008, 0x009, 0x00A, 0x00B, 0x010, 0x030, 0x031,
        0x032, 0x033, 0x041], (y.write n v).read m n = some v)
  ∧ (∀ (y : Sys) (m : Bool) (v : Word),
      (y.write 0x001 v).read m 0x001 = some (v &&& 0x1FF) ∧ (y.write 0x011 v).read m 0x011 = some (v &&& 0x7FFF)
      ∧ (y.write 0x005 v).read m 0x005 = some (v &&& 0x1FFF)
      ∧ (y.write 0x020 v).read m 0x020 = some (v &&& 0x80000000FFFFFFFF)
      ∧ (y.write 0x045 v).read m 0x045 = some (v &&& 0xFFFFFFFFFFFFFFF8)
      ∧ (y.write 0x000 v).pl = y.pl ∧ (y.write 0x000 v).pri = y.pri ∧ (y.write 0x000 v).skip = v.getLsbD 7
      ∧ (y.write 0x000 v).pie = v.getLsbD 5 ∧ (y.write 0x000 v).ie = v.getLsbD 4
      ∧ (y.write 0x000 v).ppl = (if v.getLsbD 3 then y.ppl else v.getLsbD 2))

/-- R103, R105, R108: an invariant of every word. At level U no word of an access core changes STATUS.PL but by taking a trap,
after which its context stands one level of handler deeper. -/
def Obligations.PrivilegeOnlyByTrap : Prop :=
  ∀ (i : Instr) (s t : State), (encode i).isSome = true → s.me.sys.pl = false → exec i s = .next t →
    (t.ctx s.cur).sys.pl = false ∨ s.me.trapDepth < (t.ctx s.cur).trapDepth

/-! ## Handles, loads, stores, atomics, updates, fences -/

/-- R122 to R124, R136, R284: XLAT and XLAT.W make the handle of the translation found, 32 steps later, or trap with what the
lookup finds; pending updates of the lease list are recalled first, and while a host owns a region of it the word waits. HMV
copies a valid handle and traps HINV on another, HREL makes one invalid, HSPAN describes one. -/
def Obligations.HandleWords : Prop :=
  ∀ (p : Pred) (hd ha : BitVec 4) (a d : BitVec 5) (write : Bool) (s : State), Issues s p →
    let i : Instr := if write then .xlatW p hd a else .xlat p hd a
    let va := (s.x a).toNat
    let t := recallReads s s.myCore (translateGas s s.cur va)
    (∀ w, firstOwned s (translateGas s s.cur va) = some w → exec i s = .next (waitFor s w))
    ∧ (firstOwned s (translateGas s s.cur va) = none →
      (∀ e, translate t t.cur va write = .ok e → exec i s = .next (finish t 4 32 (.h hd.toNat (handleOf e va write))))
      ∧ (∀ c, translate t t.cur va write = .error c → exec i s = .next (trap t c.1 c.2)))
    ∧ ((s.me.getH ha.toNat).v = true → exec (.hmv p hd ha) s = .next (finish s 4 1 (.h hd.toNat (s.me.getH ha.toNat))))
    ∧ ((s.me.getH ha.toNat).v = false → exec (.hmv p hd ha) s = .next (trap s 0x12 ha.toNat))
    ∧ exec (.hrel p ha) s = .next (finish s 4 1 (.h ha.toNat { s.me.getH ha.toNat with v := false }))
    ∧ exec (.hspan p d ha) s = .next (finish s 4 1 (.x d.toNat (hspan (s.me.getH ha.toNat))))

/-- R122: what the lookup of XLAT checks, in its order. -/
def Obligations.TranslationChecks : Prop :=
  ∀ (s : State) (c : CtxId) (va : Nat) (write : Bool),
    let lease := gaOf (s.ctx c).sys.lease.toNat
    let asid := (s.ctx c).sys.asid
    (2 ^ 56 ≤ va → translate s c va write = .error (0x11, va))
    ∧ (va < 2 ^ 56 → lease % 8 = 0 →
      (∀ e, leaseSearch s c lease va 64 0 = .error e → translate s c va write = .error e)
      ∧ (leaseSearch s c lease va 64 0 = .ok false → write = true → translate s c va write = .error (0x11, va))
      ∧ (∀ r, leaseSearch s c lease va 64 0 = .ok r → (write = true → r = true) →
          (leaseFind (s.die (dieOf c)) asid va = none → translate s c va write = .error (0x10, va))
          ∧ (∀ e, leaseFind (s.die (dieOf c)) asid va = some e →
              (write = true → e.w = false → translate s c va write = .error (0x11, va))
              ∧ ((write = true → e.w = true) → aliased s e = true → translate s c va write = .error (0x15, va))
              ∧ ((write = true → e.w = true) → aliased s e = false →
                  translate s c va write = .ok e ∧ e.asid = asid ∧ e.va ≤ va ∧ va < e.va + pageBytes e.psize))))

/-- R121: the checks of an access of n bytes through a handle, in order; the first that fails decides the fault. An access
whose checks fail performs nothing and traps with their cause (R128, R133, R135). R30, Table 1.12, for a handle of space 7 after
HINV and BOUNDS (that order is the model's, log 108): at U FENCED; at S another size or alignment ALIGN; a load of 8 bytes gives
the register's value; a store to a read-only register or one of level M is PRIV, any other store that passes R121 is performed;
an atomic or update is FENCED. Write-only and unassigned registers read 0, and a store to an unassigned offset changes nothing. -/
def Obligations.AccessChecks : Prop :=
  (∀ (s : State) (c : CtxId) (h : Handle) (hn n : Nat) (off : Word),
    let va := (h.anchor + off.toNat) % 2 ^ 64
    let ga := h.gbase + (va - h.pbase)
    let inside := h.pbase ≤ va ∧ va + n ≤ h.pbase + pageBytes h.psize
    (h.v = false → checkRead h hn off n true = .error (0x12, hn) ∧ checkOwnWrite s c h hn off n = .error (0x12, hn))
    ∧ (h.v = true → va % n ≠ 0 →
        checkRead h hn off n true = .error (0x14, off.toNat) ∧ checkOwnWrite s c h hn off n = .error (0x14, off.toNat))
    ∧ (h.v = true → va % n = 0 → ¬inside →
        checkRead h hn off n true = .error (0x13, off.toNat) ∧ checkOwnWrite s c h hn off n = .error (0x13, off.toNat))
    ∧ (h.v = true → va % n = 0 → inside → checkRead h hn off n true = .ok ga
        ∧ (h.w = false → checkOwnWrite s c h hn off n = .error (0x11, va))
        ∧ (h.w = true → h.bnd = true → checkOwnWrite s c h hn off n = .error (0x38, off.toNat))
        ∧ (h.w = true → h.bnd = false →
            (∀ b, watchCore s c ga n = some b → checkOwnWrite s c h hn off n = .error (0x28, b % 2 ^ 50))
            ∧ (watchCore s c ga n = none → checkOwnWrite s c h hn off n = .ok ga))))
  ∧ (∀ (p : Pred) (x y ix : BitVec 5) (h : BitVec 4) (sz : Size) (rt : Rt) (ord : Ord) (off : BitVec 7) (op : AmoOp) (dbl : Bool)
    (scope : Scope) (u : UpdOp) (s : State) (e : Cause), s.me.imx.length ≤ 2 → s.me.holds p = true → s.me.wait = none →
    let hd := s.me.getH h.toNat
    let m := immBits s.me.imx off * BitVec.ofNat 64 (width sz)
    let mx := s.x ix * BitVec.ofNat 64 (width sz)
    let al := decide (gaSpace hd.gbase ≠ 7)
    let na := if dbl then 8 else 4
    (checkRead hd h.toNat m (width sz) al = .error e →
      exec (.ld p x h sz rt ord off) s = .next (trap s e.1 e.2) ∧ exec (.st p x h sz rt ord off) s = .next (trap s e.1 e.2))
    ∧ (gaSpace hd.gbase ≠ 7 → checkOwnWrite s s.cur hd h.toNat m (width sz) = .error e →
        exec (.st p x h sz rt ord off) s = .next (trap s e.1 e.2))
    ∧ (s.me.imx = [] →
      (checkRead hd h.toNat mx (width sz) al = .error e →
        exec (.ldx p x h sz rt ord ix) s = .next (trap s e.1 e.2) ∧ exec (.stx p x h sz rt ord ix) s = .next (trap s e.1 e.2))
      ∧ (gaSpace hd.gbase ≠ 7 → checkOwnWrite s s.cur hd h.toNat mx (width sz) = .error e →
          exec (.stx p x h sz rt ord ix) s = .next (trap s e.1 e.2))
      ∧ (gaSpace hd.gbase ≠ 7 → checkOwnWrite s s.cur hd h.toNat (s.x y) na = .error e →
          exec (.amo p x h y op dbl scope ord) s = .next (trap s e.1 e.2))
      ∧ (gaSpace hd.gbase ≠ 7 → checkOwnWrite s s.cur hd h.toNat (s.x y) (updWidth u) = .error e →
          exec (.upd p u x h y) s = .next (trap s e.1 e.2))
      ∧ (gaSpace hd.gbase = 7 →
        (checkRead hd h.toNat (s.x y) na false = .error e → exec (.amo p x h y op dbl scope ord) s = .next (trap s e.1 e.2))
        ∧ (checkRead hd h.toNat (s.x y) (updWidth u) false = .error e →
            exec (.upd p u x h y) s = .next (trap s e.1 e.2)))))
  ∧ (∀ (p : Pred) (x y : BitVec 5) (h : BitVec 4) (sz : Size) (rt : Rt) (ord : Ord) (off : BitVec 7) (op : AmoOp) (dbl : Bool)
    (scope : Scope) (u : UpdOp) (s : State) (g : Nat), Issues s p → s.me.wait = none →
    let hd := s.me.getH h.toNat
    let m := immBits [] off * BitVec.ofNat 64 (width sz)
    let na := if dbl then 8 else 4
    let ld := exec (.ld p x h sz rt ord off) s
    let st := exec (.st p x h sz rt ord off) s
    gaSpace hd.gbase = 7 →
    (checkRead hd h.toNat m (width sz) false = .ok g →
      (s.me.sys.pl = false → ld = .next (trap s 0x51 g) ∧ st = .next (trap s 0x51 g))
      ∧ (s.me.sys.pl = true → width sz ≠ 8 ∨ g % 8 ≠ 0 → ld = .next (trap s 0x14 g) ∧ st = .next (trap s 0x14 g))
      ∧ (s.me.sys.pl = true → sz = .d → g % 8 = 0 →
        (fenced s (pkgOf s.myDie) (.load true) g 8 = true → ld = .next (trap s 0x51 g))
        ∧ (∀ v, fenced s (pkgOf s.myDie) (.load true) g 8 = false → agentAcquires (gaOff g) = false →
            agentRead s s.cur (gaDie g) (gaOff g) x.toNat = .val v → ld = .next (finish s 4 4 (.x x.toNat (wordOf v))))
        ∧ (storePriv s (gaDie g) (gaOff g) = true → st = .next (trap s 0x03 g))
        ∧ (storePriv s (gaDie g) (gaOff g) = false →
          (∀ e, checkOwnWrite s s.cur hd h.toNat m 8 = .error e → st = .next (trap s e.1 e.2))
          ∧ (checkOwnWrite s s.cur hd h.toNat m 8 = .ok g →
            (fenced s (pkgOf s.myDie) .store g 8 = true → st = .next (trap s 0x51 g))
            ∧ (fenced s (pkgOf s.myDie) .store g 8 = false → s.me.sbuf = [] →
                agentStoreWait s (gaDie g) (gaOff g) (s.x x).toNat = none →
              ∃ u, st = .next (retire (agentWrite u (some s.cur) (gaDie g) (gaOff g) (s.x x).toNat) 4)
                ∧ u.me = s.me ∧ u.mem = s.mem ∧ u.dies = s.dies ∧ u.cores = s.cores ∧ u.pkgs = s.pkgs)))))
    ∧ (checkRead hd h.toNat (s.x y) na false = .ok g →
      let amo := exec (.amo p x h y op dbl scope ord) s
      (s.me.sys.pl = false → amo = .next (trap s 0x51 g))
      ∧ (s.me.sys.pl = true → na ≠ 8 ∨ g % 8 ≠ 0 → amo = .next (trap s 0x14 g))
      ∧ (s.me.sys.pl = true → na = 8 → g % 8 = 0 → amo = .next (trap s 0x51 g)))
    ∧ (checkRead hd h.toNat (s.x y) (updWidth u) false = .ok g →
      let upd := exec (.upd p u x h y) s
      (s.me.sys.pl = false → upd = .next (trap s 0x51 g))
      ∧ (s.me.sys.pl = true → updWidth u ≠ 8 ∨ g % 8 ≠ 0 → upd = .next (trap s 0x14 g))
      ∧ (s.me.sys.pl = true → updWidth u = 8 → g % 8 = 0 → upd = .next (trap s 0x51 g))))
  ∧ (∀ (s : State) (c : CtxId) (d : DieId) (x : Nat),
    (∀ o ∈ writeOnlyRegs, agentRead s c d o x = .val 0 ∧ storePriv s d o = false)
    ∧ (∀ o ∈ noStoreRegs, storePriv s d o = true) ∧ (∀ o ∈ storedRegs, storePriv s d o = false)
    ∧ (∀ o v, 0x100000 ≤ o → o < 0x160000 → o ∉ writeOnlyRegs → o ∉ noStoreRegs → o ∉ storedRegs →
      let t := agentWrite s (some c) d o v
      agentRead s c d o x = .val 0 ∧ storePriv s d o = false
      ∧ t.mem = s.mem ∧ t.ctxs = s.ctxs ∧ t.cores = s.cores ∧ t.pkgs = s.pkgs ∧ ∀ e, t.die e = s.die e))

/-- R128 to R131, R189, R343, R348: a load that Table 1.8 does not admit traps FENCED, one of a range whose regions a host owns
waits, and one that meets an uncorrectable error traps MEMUE. Any other within one line, whatever its ordering and its page,
writes the zero-extended bytes that memory holds, under the context's own buffered stores, to xd with latency 4, and changes no
byte of memory: where no pending update or narrow-scope record stands, dirty tracking is off, no earlier STRONG store waits in the
buffer of a STRONG load, and no SI copy stands but one that the load, an acquire, drops. In a read group a load of a BND page
takes the version that R189 picks. -/
def Obligations.LoadReturnsMemory : Prop :=
  ∀ (p : Pred) (x ix : BitVec 5) (h : BitVec 4) (sz : Size) (rt : Rt) (ord : Ord) (off : BitVec 7) (s : State) (g : Nat),
    s.me.imx.length ≤ 2 → s.me.holds p = true → s.me.wait = none →
    let hd := s.me.getH h.toNat
    let n := width sz
    let acc : Acc := .load s.me.sys.pl
    let own := decide (rt = .own ∧ hd.nt = false)
    let v := wordOf (leNat (overlay s.me.sbuf g (s.bytesAt g n)))
    let acquires := hd.bnd = true ∨ hd.ord = 0 ∨ ((ord = .acq ∨ ord = .acqrel) ∧ hd.ord ≠ 2)
    let goal (i : Instr) : Prop :=
      (fenced s (pkgOf s.myDie) acc g n = true → exec i s = .next (trap s 0x51 g))
      ∧ (fenced s (pkgOf s.myDie) acc g n = false →
        (∀ w, heldBy s s.me.sys.asid own g = some w → exec i s = .next (waitFor s w))
        ∧ (heldBy s s.me.sys.asid own g = none → prepared s g = false →
          (hasUe s g n = true → exec i s = .next (trap s 0x50 g))
          ∧ (hasUe s g n = false → lineOf (g + n - 1) = lineOf g → quiet s → untracked s s.me.sys.asid g →
            (hd.ord = 0 → ∀ b ∈ s.me.sbuf, b.strong = false) →
            (acquires ∨ SMap.find (s.core s.myCore).si (lineOf g) = none) →
            (hd.bnd = false ∨ s.me.rg = none →
              ∃ t, exec i s = .next (finish t 4 4 (.x x.toNat v)) ∧ t.mem = s.mem ∧ t.me = s.me)
            ∧ (∀ grp, hd.bnd = true → s.me.rg = some grp →
              let r := grp.load s (lineOf g)
              ∃ t, exec i s = .next (finish t 4 4 (.x x.toNat (match r.2.data with
                  | none => v
                  | some l => wordOf (leNat ((l.drop (g % 128)).take n)))))
                ∧ t.mem = s.mem ∧ t.me = { s.me with rg := some r.1 }))))
    gaSpace hd.gbase ≠ 7 →
    (checkRead hd h.toNat (immBits s.me.imx off * BitVec.ofNat 64 n) n true = .ok g → goal (.ld p x h sz rt ord off))
    ∧ (s.me.imx = [] → checkRead hd h.toNat (s.x ix * BitVec.ofNat 64 n) n true = .ok g → goal (.ldx p x h sz rt ord ix))

/-- R128, R132, R345: a store that reaches a space of memory enters the store buffer of its context at issue, with its bytes,
request type, order and job; memory and registers are as before. One to an absent or fenced package traps FENCED at issue. R284:
where a host owns a region it needs it waits (at issue: the model's choice, log 46). A release takes the trap that an earlier
store owes, and stands between the stores on its two sides. A later load of the context sees the bytes of a buffered
store, and elsewhere what it saw before. -/
def Obligations.StoreEntersBuffer : Prop :=
  (∀ (p : Pred) (x ix : BitVec 5) (h : BitVec 4) (sz : Size) (rt : Rt) (ord : Ord) (off : BitVec 7) (s : State) (g : Nat),
    s.me.imx.length ≤ 2 → s.me.holds p = true →
    let hd := s.me.getH h.toNat
    let b : BufStore :=
      { ga := g, parts := (List.range (width sz)).map (fun i => (g + i, (s.x x).extractLsb' (8 * i) 8)), rt := rt, nt := hd.nt
        strong := decide (hd.ord = 0), rel := decide (hd.ord = 0 ∨ ((ord = .rel ∨ ord = .acqrel) ∧ hd.ord ≠ 2))
        unord := decide (hd.ord = 2), scope := s.me.fscope, epoch := s.me.epoch, fences := s.me.fences, entries := [hd.entry]
        asid := s.me.sys.asid }
    let goal (i : Instr) : Prop :=
      (pkgGone s (pkgOf s.myDie) (gaPkg g) = true → exec i s = .next (trap s 0x51 g))
      ∧ (pkgGone s (pkgOf s.myDie) (gaPkg g) = false →
        (∀ w, heldBy s s.me.sys.asid true g = some w → exec i s = .next (waitFor s w))
        ∧ (heldBy s s.me.sys.asid true g = none →
          (b.rel = false → exec i s = .next (retire (s.modMe (fun c => { c with sbuf := pushStore c.sbuf b })) 4))
          ∧ (b.rel = true → s.me.owed = none → quiet s →
              exec i s = .next (retire (s.modMe (fun c =>
                { c with sbuf := pushStore c.sbuf b, fences := c.fences + 1 })) 4))
          ∧ (∀ a, b.rel = true → s.me.owed = some a →
              exec i s = .next (trap (s.modMe (fun c => { c with owed := none })) 0x51 a))))
    gaSpace hd.gbase ≠ 7 →
    (checkOwnWrite s s.cur hd h.toNat (immBits s.me.imx off * BitVec.ofNat 64 (width sz)) (width sz) = .ok g →
      goal (.st p x h sz rt ord off))
    ∧ (s.me.imx = [] → checkOwnWrite s s.cur hd h.toNat (s.x ix * BitVec.ofNat 64 (width sz)) (width sz) = .ok g →
      goal (.stx p x h sz rt ord ix)))
  ∧ (∀ (l : List BufStore) (b : BufStore) (g i : Nat) (bs : List Byte), i < bs.length →
    (∀ v, b.parts.find? (fun p => p.1 == g + i) = some v → (overlay (pushStore l b) g bs)[i]? = some v.2)
    ∧ (b.parts.find? (fun p => p.1 == g + i) = none → (overlay (pushStore l b) g bs)[i]? = (overlay l g bs)[i]?))

/-- R128, R131: a buffered store that may perform, of any space of memory, writes its bytes, each at its address, and no other
byte of memory where its job is not tracked; it
leaves the buffer, and the registers of every context are as before. -/
def Obligations.StorePerforms : Prop :=
  ∀ (c : CtxId) (i : Nat) (s : State) (b : BufStore), (s.ctx c).sbuf[i]? = some b → mayPerform (s.ctx c).sbuf i = true →
    heldBy s b.asid true b.ga = none → fenced s (pkgOf (dieOf c)) .store b.ga 1 = false →
    (∀ q ∈ b.parts, untracked s b.asid q.1 ∧ ∀ r ∈ b.parts, away s b.asid q.1 r.1) → quiet s → still s →
    ∃ t, exec (.storePerform c i) s = .next t
      ∧ t.mem = b.parts.foldl (fun m q => Mem.set m q.1 q.2) s.mem
      ∧ (t.ctx c).sbuf = (s.ctx c).sbuf.eraseIdx i ∧ (t.ctx c).x = (s.ctx c).x ∧ (t.ctx c).p = (s.ctx c).p
      ∧ (t.ctx c).sys = (s.ctx c).sys ∧ (∀ k, k ≠ c → t.ctx k = s.ctx k)

/-- R134: an atomic of any ordering on any page writes the old value to x[X] and the new value to memory, both of its width, in
24 steps, or in 6 at scope CORE where the core's L1 owns the line; a CAS that fails writes nothing. One that acquires leaves the
core no SI copy (R129). One that its space does not admit traps FENCED, one whose region a host owns waits, and one that meets an
uncorrectable error traps MEMUE. That it completes in its own step is the model's choice (log 1). -/
def Obligations.AtomicCompletes : Prop :=
  (∀ (op : AmoOp) (o a b : BitVec 32),
    let r := amoResult op 4 o.toNat a.toNat b.toNat
    r.2 = (amoSpec o a b op).2 ∧ (r.2 = true → r.1 = (amoSpec o a b op).1.toNat))
  ∧ (∀ (op : AmoOp) (o a b : BitVec 64),
    let r := amoResult op 8 o.toNat a.toNat b.toNat
    r.2 = (amoSpec o a b op).2 ∧ (r.2 = true → r.1 = (amoSpec o a b op).1.toNat))
  ∧ (∀ (p : Pred) (x y : BitVec 5) (h : BitVec 4) (op : AmoOp) (dbl : Bool) (scope : Scope) (ord : Ord) (s : State) (g : Nat),
    Issues s p →
    let hd := s.me.getH h.toNat
    let n := if dbl then 8 else 4
    let r := amoResult op n (s.peek g n) ((s.x x).toNat % 2 ^ (8 * n)) ((s.me.getX (x.toNat + 1)).toNat % 2 ^ (8 * n))
    let i : Instr := .amo p x h y op dbl scope ord
    let strongOr (o : Ord) := hd.ord = 0 ∨ ((ord = o ∨ ord = .acqrel) ∧ hd.ord ≠ 2)
    checkOwnWrite s s.cur hd h.toNat (s.x y) n = .ok g → gaSpace hd.gbase ≠ 7 →
    (fenced s (pkgOf s.myDie) .store g n = true → exec i s = .next (trap s 0x51 g))
    ∧ (∀ w, fenced s (pkgOf s.myDie) .store g n = false → heldBy s s.me.sys.asid true g = some w → exec i s = .next (waitFor s w))
    ∧ (fenced s (pkgOf s.myDie) .store g n = false → heldBy s s.me.sys.asid true g = none → hasUe s g n = true →
        exec i s = .next (trap s 0x50 g))
    ∧ (reaches s .store true g n → s.me.sbuf = [] → (strongOr .rel → s.me.owed = none) → quiet s → lineOf (g + n - 1) = lineOf g →
      untracked s s.me.sys.asid g → still s →
      ∃ t lat, exec i s = .next (finish t 4 lat (.x x.toNat (wordOf (s.peek g n))))
        ∧ t.mem = (if r.2 then Mem.write s.mem g n r.1 else s.mem) ∧ t.me = s.me
        ∧ (strongOr .acq → (t.core s.myCore).si = [])
        ∧ lat = (if scope = .core ∧ SMap.find (s.core s.myCore).l1 (lineOf g) = some true ∧ hd.nt = false then 6 else 24)))

/-- R128, R135, R136: a UPD to an absent or fenced package traps FENCED at issue; another that its space does not admit writes
nothing and owes its trap; one whose region a host owns waits. One on a tracked page, with nothing buffered and room in the L1,
leaves memory alone and joins the core's update-only line: as a new delta where no pending one meets its bytes, combined with a
pending one of its operation and word, whose contexts it joins. A pending delta of another operation on its bytes merges first;
FENCE.rel merges the context's deltas: the home word becomes the combination of Table 5.4. -/
def Obligations.UpdateCompletes : Prop :=
  (∀ (p : Pred) (op : UpdOp) (x y : BitVec 5) (h : BitVec 4) (s : State) (g : Nat), Issues s p →
    let hd := s.me.getH h.toNat
    let n := updWidth op
    let v := (s.x x).toNat % 2 ^ (8 * n)
    let l := (s.core s.myCore).deltas
    let me := (s.cur, s.me.sys.asid)
    let i : Instr := .upd p op x h y
    checkOwnWrite s s.cur hd h.toNat (s.x y) n = .ok g → gaSpace hd.gbase ≠ 7 →
    (pkgGone s (pkgOf s.myDie) (gaPkg g) = true → exec i s = .next (trap s 0x51 g))
    ∧ (pkgGone s (pkgOf s.myDie) (gaPkg g) = false →
      (fenced s (pkgOf s.myDie) .store g n = true →
        exec i s = .next (retire (s.modMe (fun c => { c with owed := some (c.owed.getD g) })) 4))
      ∧ (∀ w, fenced s (pkgOf s.myDie) .store g n = false → heldBy s s.me.sys.asid true g = some w →
          exec i s = .next (waitFor s w))
      ∧ (fenced s (pkgOf s.myDie) .store g n = false → heldBy s s.me.sys.asid true g = none → hd.nt = false → s.me.sbuf = [] →
        s.me.owed = none → (hd.ord = 0 → quiet s) → hasRoom s s.myCore →
        ((∀ e ∈ s.cores, ∀ d ∈ e.2.deltas, d.ga + updWidth d.op ≤ g ∨ g + n ≤ d.ga) →
          ∃ t, exec i s = .next (retire t 4) ∧ t.mem = s.mem ∧ t.me = s.me
            ∧ (t.core s.myCore).deltas = l ++ [⟨g, op, v, [me], false⟩])
        ∧ (∀ e, l = [e] → onlyCore s s.myCore → e.ga = g →
          (e.op = op →
            ∃ t, exec i s = .next (retire t 4) ∧ t.mem = s.mem ∧ t.me = s.me
              ∧ (t.core s.myCore).deltas = [{ e with v := updApply op e.v v
                                                     who := if e.who.contains me then e.who else e.who ++ [me] }])
          ∧ (e.op ≠ op → fenced s (pkgOf s.myDie) .engine g (updWidth e.op) = false → still s →
            (∀ w ∈ e.who, untracked s w.2 g) →
            ∃ t, exec i s = .next (retire t 4) ∧ t.me = s.me ∧ (t.core s.myCore).deltas = [⟨g, op, v, [me], false⟩]
              ∧ t.mem = Mem.write s.mem g (updWidth e.op) (updApply e.op (s.peek g (updWidth e.op)) e.v))))))
  ∧ (∀ (p : Pred) (scope : Scope) (s : State) (e : Delta), Issues s p → s.me.owed = none →
    (s.core s.myCore).deltas = [e] → onlyCore s s.myCore → e.who.any (fun w => w.1 == s.cur) = true →
    fenced s (pkgOf s.myDie) .engine e.ga (updWidth e.op) = false → still s →
    (∀ w ∈ e.who, untracked s w.2 e.ga) →
    ∃ t, exec (.fence p .rel scope) s = .next (retire t 4) ∧ (t.core s.myCore).deltas = []
      ∧ t.mem = Mem.write s.mem e.ga (updWidth e.op) (updApply e.op (s.peek e.ga (updWidth e.op)) e.v))
  ∧ (∀ a b : BitVec 32, updApply .addW a.toNat b.toNat = (a + b).toNat
      ∧ updApply .minW a.toNat b.toNat = (if a.toInt ≤ b.toInt then a else b).toNat
      ∧ updApply .maxW a.toNat b.toNat = (if a.toInt ≤ b.toInt then b else a).toNat)
  ∧ (∀ a b : BitVec 32,
    let special (v : BitVec 32) : Prop := v.extractLsb' 23 8 = 255
    let nan (v : BitVec 32) : Prop := special v ∧ v.extractLsb' 0 23 ≠ 0
    let r := updApply .addF32 a.toNat b.toNat
    (nan a ∨ nan b → r = 0x7FC00000)
    ∧ (special a → ¬nan a → ¬nan b → (¬special b ∨ b = a) → r = a.toNat)
    ∧ (special b → ¬nan b → ¬special a → r = b.toNat)
    ∧ (special a → special b → ¬nan a → ¬nan b → a ≠ b → r = 0x7FC00000)
    ∧ (∀ x y, f32Scaled a.toNat = some x → f32Scaled b.toNat = some y →
      (x + y = 0 → r = if a = 0x80000000 ∧ b = 0x80000000 then 0x80000000 else 0)
      ∧ (∀ c : BitVec 32, x + y ≠ 0 → f32Scaled c.toNat = some (x + y) → r = c.toNat)))
  ∧ (∀ a b : BitVec 64, updApply .addD a.toNat b.toNat = (a + b).toNat ∧ updApply .orD a.toNat b.toNat = (a ||| b).toNat
      ∧ updApply .andD a.toNat b.toNat = (a &&& b).toNat ∧ updApply .xorD a.toNat b.toNat = (a ^^^ b).toNat)

/-- R67, R129, R138, R139: fences and line operations of a context with nothing buffered and no update pending. A full or acq
fence drops the core's SI copies, a full or rel one begins a new epoch of its stores (that FENCE.rel waits for no store: the
model's choice, log 27); CLEAN and FLUSHL leave every byte and give up the core's dirty words of the line, FLUSHL its copies too;
INVL loses them; PREFL changes no byte, and one whose check fails has no effect, which the model extends to one whose read cannot
complete (log 47); ICINV empties the loop buffer. -/
def Obligations.FencesAndLines : Prop :=
  ∀ (p : Pred) (scope : Scope) (ha : BitVec 4) (b : BitVec 5) (s : State), Issues s p → s.me.sbuf = [] → s.me.owed = none →
    (∀ e ∈ s.cores, ∀ d ∈ e.2.deltas, ∀ w ∈ d.who, w.1 ≠ s.cur) →
    (∃ t, exec (.fence p .full scope) s = .next (retire t 4) ∧ (t.core s.myCore).si = [] ∧ t.me.epoch = s.me.epoch + 1
      ∧ t.mem = s.mem)
    ∧ (∃ t, exec (.fence p .acq scope) s = .next (retire t 4) ∧ (t.core s.myCore).si = [] ∧ t.me.epoch = s.me.epoch
      ∧ t.mem = s.mem)
    ∧ (∃ t, exec (.fence p .rel scope) s = .next (retire t 4) ∧ (t.core s.myCore).si = (s.core s.myCore).si
      ∧ t.me.epoch = s.me.epoch + 1 ∧ t.mem = s.mem)
    ∧ (∃ t, exec (.icinv p) s = .next (retire t 4) ∧ t.me.blk.buf = [] ∧ t.me.blk.pin = none ∧ t.mem = s.mem)
    ∧ (∀ e, checkRead (s.me.getH ha.toNat) ha.toNat (s.x b) 1 false = .error e →
        exec (.clean p ha b) s = .next (trap s e.1 e.2) ∧ exec (.flushl p ha b) s = .next (trap s e.1 e.2)
        ∧ exec (.prefl p ha b) s = .next (retire s 4)
        ∧ (s.me.sys.pl = true → exec (.invl p ha b) s = .next (trap s e.1 e.2)))
    ∧ (∀ g, checkRead (s.me.getH ha.toNat) ha.toNat (s.x b) 1 false = .ok g → quiet s →
        (∃ t, exec (.clean p ha b) s = .next (retire t 4) ∧ t.mem = s.mem ∧ t.me = s.me
          ∧ (∀ o, SMap.find t.dirty (lineOf g) = some o → o.core ≠ s.myCore))
        ∧ (∃ t, exec (.flushl p ha b) s = .next (retire t 4) ∧ t.mem = s.mem ∧ t.me = s.me
          ∧ (∀ o, SMap.find t.dirty (lineOf g) = some o → o.core ≠ s.myCore)
          ∧ SMap.find (t.core s.myCore).si (lineOf g) = none)
        ∧ (s.me.sys.pl = true →
          ∃ t, exec (.invl p ha b) s = .next (retire t 4) ∧ t.me = s.me
            ∧ SMap.find (t.core s.myCore).si (lineOf g) = none
            ∧ (∀ o, SMap.find s.dirty (lineOf g) = some o → o.core = s.myCore →
                t.mem = Mem.setBytes s.mem (lineOf g * 128) (withoutDirty (s.bytesAt (lineOf g * 128) 128) o)))
        ∧ (untracked s s.me.sys.asid (lineOf g * 128) →
          ∃ t, exec (.prefl p ha b) s = .next (retire t 4) ∧ t.mem = s.mem ∧ t.me = s.me))

/-! ## Directory, hosts, publishes -/

/-- R283, R284, R353, R404: a host's read of a range that PROC owns returns its bytes and changes none, and its write changes those
bytes alone; while the region is the device's it waits and asks for the region; through BAR0 it reads the Purser agent. An
ownership transfer that an agent asks for flips OWN once the owner has had the region for 4 µs; with nobody asking nothing happens.
A read from inside the scope recorded with a line publishes nothing, and one from outside clears the record. That a performed
write is seen by all, so that the record alone is cleared (log 67), which accesses start a transfer (log 73), and the widths and
addresses that a host uses (log 74) are the model's choices. -/
def Obligations.HostsAndScopes : Prop :=
  (∀ (p : PkgId) (ga v : Word) (n : Nat) (s : State), let g := gaOf ga.toNat
    let r := (gaDie g, gaOff g / 2 ^ 21)
    (inBar p g = false → 0 < n → n ≤ 8 → lineOf (g + n - 1) = lineOf g →
      (hostMay s p g n = false → ∀ w, exec (.hostAccess p ga n w) s = .next (
        if bitOf (ownByte s g) 0 && bitOf (ownByte s g) 1 then
          s.modPkg p (fun k => { k with hostAsks := k.hostAsks.erase r ++ [r] })
        else s))
      ∧ (hostMay s p g n = true → quiet s → still s →
        (∃ t, exec (.hostAccess p ga n none) s = .next t ∧ t.mem = s.mem ∧ t.ctxs = s.ctxs ∧ (t.pkg p).readData = s.peek g n)
        ∧ (∃ t, exec (.hostAccess p ga n (some v)) s = .next t ∧ t.mem = Mem.write s.mem g n v.toNat ∧ t.ctxs = s.ctxs)))
    ∧ (inBar p g = true → (s.pkg p).power = true → purserHere s (4 * p) = true → n = 8 → gaOff g % 8 = 0 →
      exec (.hostAccess p ga n none) s =
        .next (s.modPkg p (fun k => { k with readData := purserRead s p (gaOff g - 0x160000) }))
      ∧ exec (.hostAccess p ga n (some v)) s = .next s))
  ∧ (∀ (d : DieId) (r b : Nat) (s : State), (s.die d).started = true → s.peek ((s.die d).rotbase + r) 1 = b → b % 2 = 1 →
      SMap.find (s.die d).flips r = none → quiet s → still s → (∀ e ∈ s.ctxs, e.2.sbuf = []) →
      let asked := if bitOf b 1 then s.pkgs.any (fun p => p.2.hostAsks.contains (d, r)) else deviceAsks s d r
      (asked = true → ∃ t, exec (.ownershipTransfer d r) s = .next t
        ∧ t.mem = Mem.write s.mem ((s.die d).rotbase + r) 1 (if bitOf b 1 then b - 2 else b + 2)
        ∧ SMap.find (t.die d).flips r = some s.now)
      ∧ (asked = false → exec (.ownershipTransfer d r) s = .next s))
  ∧ (∀ (d : DieId) (r since : Nat) (s : State), SMap.find (s.die d).flips r = some since → s.now < since + 8000 →
      exec (.ownershipTransfer d r) s = .next s)
  ∧ (∀ (line k reader : Nat) (sc : Scope) (s : State), SMap.find s.scopes line = some (k, sc) →
    (inScope k reader sc = true → exec (.forcedPublish line reader) s = .next s)
    ∧ (inScope k reader sc = false → (∀ i < 16, (s.ctx (16 * k + i)).sbuf = []) →
      ∃ t, exec (.forcedPublish line reader) s = .next t ∧ t.mem = s.mem ∧ SMap.find t.scopes line = none))

/-- R372 to R374: the directory's messages. RDO is forwarded to a holder that may own dirty data, else answered with DATA;
FWD is answered by the holder with DATA, ACK or NOCOPY, and ACK and NOCOPY have the home supply DATA; UPG sends INV to every
other holder and is granted when none is left; GNT makes the requester the owner; EVC and WB remove a die's copy. A message
of another kind at that place is not taken. A grant whose dirty bits stand in a region of a host waits (R284). The core that takes
a line which no access brought, and the jobs whose bits a grant sets, are the model's choice (log 22). -/
def Obligations.DirectoryMessages : Prop :=
  (∀ (d : DieId) (line : Nat) (s : State), quiet s →
    let e := s.dirOf line
    let msg : CKind × DieId := match e.owner with | some o => if o = d then (.data, d) else (.fwd, o) | none => (.data, d)
    let send (t : State) : State :=
      if e.owner = some d then t else postC t msg.1 (homeOf line) msg.2 d line
    let f := l2Fill s line
    (d ∈ e.dies → (e.st = .E → grantHeld s d line = false) → exec (.rdo d line) s = .next (send (setDir f line e)))
    ∧ (d ∉ e.dies → e.st ≠ .I → exec (.rdo d line) s = .next (send (setDir (shareLine f line) line (dirRead e d))))
    ∧ (d ∉ e.dies → e.st = .I → (∀ x ∈ s.ctxs, x.2.task = none) →
        exec (.rdo d line) s = .next (send (setDir (shareLine f line) line ⟨.E, some d, [d]⟩)))
    ∧ (d ∉ e.dies → e.st = .I → grantHeld s d line = true → exec (.rdo d line) s = .next s)
    ∧ (e.dies.filter (fun o => o != d) = [] → exec (.upg d line) s = .next (postC s .gnt (homeOf line) d d line))
    ∧ (∀ o, e.dies.filter (fun o => o != d) = [o] → exec (.upg d line) s = .next (postC s .inv (homeOf line) o d line)))
  ∧ (∀ (m : CMsg) (l : List CMsg) (s : State), s.cmsgs = m :: l →
    let t := { s with cmsgs := l }
    (m.kind = .fwd → dieDirty s m.dst m.line = true →
      exec (.fwd 0) s = .next (postC t .data m.dst m.req m.req m.line))
    ∧ (m.kind = .fwd → dieDirty s m.dst m.line = false →
      exec (.fwd 0) s = .next (postC t (if (s.dirOf m.line).dies.contains m.dst then .ack else .nocopy) m.dst m.src m.req m.line))
    ∧ (m.kind = .ack → exec (.ack 0) s = .next (postC t .data m.dst m.req m.req m.line))
    ∧ (m.kind = .nocopy → exec (.nocopy 0) s = .next (postC t .data m.dst m.req m.req m.line))
    ∧ (m.kind = .data → exec (.data 0) s = .next (
        if t.dieHolds m.req m.line then t else l1Enter t (m.req * 64) m.line ((s.dirOf m.line).st == .E)))
    ∧ (m.kind = .inv → exec (.inv 0) s = .next (postC (evictLine t m.dst m.line) .iack m.dst m.src m.req m.line))
    ∧ (m.kind = .iack → (∀ o ∈ l, o.line = m.line → o.kind ≠ .inv ∧ o.kind ≠ .iack) →
      exec (.iack 0) s = .next (postC t .gnt m.dst m.req m.req m.line))
    ∧ (m.kind = .gnt → grantHeld s m.req m.line = true → exec (.gnt 0) s = .next s)
    ∧ (m.kind = .gnt → (∀ e ∈ s.ctxs, e.2.task = none) →
      exec (.gnt 0) s = .next (
        setDir (if t.dieHolds m.req m.line then t else l1Enter t (m.req * 64) m.line true) m.line ⟨.M, some m.req, [m.req]⟩))
    ∧ (m.kind ≠ .fwd → exec (.fwd 0) s = .next s))
  ∧ (∀ (d : DieId) (line : Nat) (s : State),
    (dieDirty s d line = false → exec (.evc d line) s = .next (evictLine s d line))
    ∧ (dieDirty s d line = true → exec (.wb d line) s = .next (evictLine s d line)
      ∧ exec (.evc d line) s = .next s ∧ SMap.find (evictLine s d line).dirty line = none))

/-! ## Queues -/

/-- R148, R150, R151, R154, R156, R355: the words that append to a queue, at a binding that admits them, with no earlier producer
of it under way and room for what they enter. One lane joins the assembly, and the 16th completes a DATA token; QPUT.D takes
two; QPUT.T, the end tokens and QFLUSHT flush a partial assembly first; BQPUSH enters one token. A token enters at once where no
store that a fence ordered is still buffered (a fence of release lets them stand in the buffer: log 27), and waits where a host
owns a region that one needs (R284; that the word itself waits is the model's choice, log 46). -/
def Obligations.QueueProducers : Prop :=
  ∀ (p : Pred) (q : BitVec 4) (x : BitVec 5) (short : Bool) (s : State) (b : Binding) (k : Queue), Issues s p →
    producerBusy s s.cur q.toNat = false →
    let v := s.x x
    let low : Lane := v.extractLsb' 0 32
    let high : Lane := v.extractLsb' 32 32
    let done (n : Nat) (e : End) : State := retire (s.modMe (fun c => c.putEnd q.toNat e)) n
    (s.me.boundFor q.toNat .produce = some (b, k) →
      (b.asm.length < 15 → exec (laneWord short p q x) s = .next (done (wordBytes short) ({ b with asm := b.asm ++ [low] }, k)))
      ∧ (b.asm.length = 15 → 1 ≤ k.room → unfenced s → exec (laneWord short p q x) s = .next (done (wordBytes short)
          (entered ({ b with asm := [], asmEng := false }, k) s.fc (madeToken .data (b.asm ++ [low]) b.asmEng))))
      ∧ (b.asm.length % 2 = 0 → b.asm.length < 14 →
          exec (.qputD p q x) s = .next (done 4 ({ b with asm := b.asm ++ [low, high] }, k)))
      ∧ (b.asm.length = 14 → 1 ≤ k.room → unfenced s → exec (.qputD p q x) s = .next (done 4
          (entered ({ b with asm := [], asmEng := false }, k) s.fc (madeToken .data (b.asm ++ [low, high]) b.asmEng))))
      ∧ (2 ≤ k.room ∨ (b.asm = [] ∧ 1 ≤ k.room) → unfenced s →
          exec (.qputT p q x) s = .next (done 4 (entered (flushed (b, k) s.fc) s.fc (madeToken .data
            ((List.range 16).map (fun i => (s.me.getX (x.toNat + i / 2)).extractLsb' (32 * (i % 2)) 32)) false)))
          ∧ exec (.qputEos p q) s = .next (done 4 (entered (flushed (b, k) s.fc) s.fc
              (madeToken .eos (List.replicate 16 0) false)))
          ∧ exec (.qputEeos p q) s = .next (done 4 (entered (flushed (b, k) s.fc) s.fc
              (madeToken .eeos (List.replicate 16 0) false))))
      ∧ (b.asm = [] ∨ (1 ≤ k.room ∧ unfenced s) → exec (.qflusht p q) s = .next (done 4 (flushed (b, k) s.fc))))
    ∧ (s.me.boundFor q.toNat .bqpush = some (b, k) → 1 ≤ k.room →
      (unfenced s →
        exec (.bqpush p q x) s = .next (done 4 (entered (b, k) s.fc (madeToken .data (low :: List.replicate 15 0) false))))
      ∧ (∀ st w, s.me.sbuf = [st] → st.epoch < s.me.epoch → heldBy s st.asid true st.ga = some w →
        exec (.bqpush p q x) s = .next (waitFor s w)))

/-- R152, R154, R156: the words that pop, at a binding that admits them with no earlier consumer under way. QPOP takes the
next lanes of CUR, or of the DATA token at the head, which becomes CUR; EOS gives 0 and sets END; EEOS sets ERR and traps
QERR, as does a pop after it. QPOP.SKIP drops the rest of CUR. BQPOP pops a whole token. The latency 1 of
a pop is the model's choice (log 15). -/
def Obligations.QueueConsumers : Prop :=
  ∀ (p : Pred) (q : BitVec 4) (x : BitVec 5) (short : Bool) (s : State) (b : Binding) (k : Queue), Issues s p →
    consumerBusy s s.cur q.toNat = false →
    let put (e : End) : State := s.modMe (fun c => c.putEnd q.toNat e)
    let counted := (b.cnt + 1) % 2 ^ 32
    (s.me.boundFor q.toNat .consume = some (b, k) →
      (∀ t, b.cur = some t →
        (b.lp < 15 → exec (popWord short p q x) s = .next (finish (put ({ b with lp := b.lp + 1 }, k)) (wordBytes short) 1
          (.x x.toNat (zx (t.lane b.lp)))))
        ∧ (b.lp = 15 → exec (popWord short p q x) s = .next (finish (put ({ b with lp := 0, cur := none }, k))
          (wordBytes short) 1 (.x x.toNat (zx (t.lane 15)))))
        ∧ (b.lp % 2 = 0 → b.lp < 14 → exec (.qpopD p x q) s = .next (finish (put ({ b with lp := b.lp + 2 }, k)) 4 1
          (.x x.toNat (zx2 (t.lane b.lp) (t.lane (b.lp + 1))))))
        ∧ (b.lp = 14 → exec (.qpopD p x q) s = .next (finish (put ({ b with lp := 0, cur := none }, k)) 4 1
          (.x x.toNat (zx2 (t.lane 14) (t.lane 15)))))
        ∧ exec (.qpopSkip p x q) s = .next (finish (put ({ b with lp := 0, cur := none }, k)) 4 1
          (.x x.toNat (wordOf (16 - b.lp)))))
      ∧ (b.cur = none → exec (.qpopSkip p x q) s = .next (finish (put ({ b with lp := 0, cur := none }, k)) 4 1 (.x x.toNat 0)))
      ∧ (∀ t ts, b.cur = none → b.lp = 0 → b.err = false → k.ctxQ = t :: ts → k.cut = false →
        let k' := { k with ctxQ := ts }
        (t.kind = .data → t.eng = false →
          exec (popWord short p q x) s = .next (finish (put ({ b with cnt := counted, endf := false, cur := some t, lp := 1 }, k'))
            (wordBytes short) 1 (.x x.toNat (zx (t.lane 0))))
          ∧ exec (.qpopD p x q) s = .next (finish (put ({ b with cnt := counted, endf := false, cur := some t, lp := 2 }, k')) 4 1
            (.x x.toNat (zx2 (t.lane 0) (t.lane 1))))
          ∧ exec (.qpopT p x q) s = .next (retire ((put ({ b with cnt := counted, endf := false, cur := none, lp := 0 }, k')).modMe
            (fun c => (List.range 8).foldl (fun c i =>
              c.put 1 (.x (x.toNat + i) (zx2 (t.lane (2 * i)) (t.lane (2 * i + 1))))) c)) 4))
        ∧ (t.kind = .eos →
          exec (popWord short p q x) s = .next (finish (put ({ b with cnt := counted, endf := true }, k')) (wordBytes short) 1
            (.x x.toNat 0))
          ∧ exec (.qpopT p x q) s = .next (retire ((put ({ b with cnt := counted, endf := true }, k')).modMe
            (fun c => (List.range 8).foldl (fun c i => c.put 1 (.x (x.toNat + i) 0)) c)) 4))
        ∧ (t.kind = .eeos → exec (popWord short p q x) s = .next (trap (put ({ b with err := true }, k')) 0x20 q.toNat)))
      ∧ (b.cur = none → b.lp = 0 → b.err = true → exec (popWord short p q x) s = .next (trap (put (b, k)) 0x20 q.toNat)))
    ∧ (∀ t ts, s.me.boundFor q.toNat .bqpop = some (b, k) → b.err = false → k.ctxQ = t :: ts → k.cut = false →
      t.kind = .data → t.eng = false →
      exec (.bqpop p x q) s = .next (finish (put ({ b with cnt := counted, endf := false, cur := none, lp := 0 },
        { k with ctxQ := ts })) 4 1 (.x x.toNat (zx (t.lane 0)))))

/-- R148, R149, R153: an unbound or wrongly bound q traps BOUNDS; an empty or full queue makes the word wait, and the wait
traps QTIMEO once its timeout has passed; QSTAT reads a binding, 0 for an unbound q: that OCC
counts the tokens that the model places at the context's end (log 13) and the latency 1 (log 15) are the model's choices. -/
def Obligations.QueueEdges : Prop :=
  ∀ (p : Pred) (q : BitVec 4) (x : BitVec 5) (s : State), Issues s p →
    (s.me.boundFor q.toNat .produce = none → ∀ i ∈ [.qputW p q x, .qputD p q x, .qputT p q x, .qputEos p q, .qputEeos p q,
        .qflusht p q], exec i s = .next (trap s 0x13 q.toNat))
    ∧ (s.me.boundFor q.toNat .consume = none → ∀ i ∈ [.qpopW p x q, .qpopD p x q, .qpopT p x q, .qpopSkip p x q],
        exec i s = .next (trap s 0x13 q.toNat))
    ∧ (∀ b k, s.me.boundFor q.toNat .consume = some (b, k) → consumerBusy s s.cur q.toNat = false → b.cur = none → b.lp = 0 →
        b.err = false → k.ctxQ = [] → timedOut s s.cur b.tmo = false →
        exec (.qpopW p x q) s = .next (waitFor s (.qEmpty q.toNat)))
    ∧ (∀ b k, s.me.boundFor q.toNat .produce = some (b, k) → producerBusy s s.cur q.toNat = false → b.asm = [] → k.room = 0 →
        timedOut s s.cur b.tmo = false → exec (.qputEos p q) s = .next (waitFor s (.qFull q.toNat 1)))
    ∧ (∀ b k t0, s.me.wait = some ⟨.qEmpty q.toNat, t0⟩ → s.me.endOf q.toNat = some (b, k) →
        let waits := k.ctxQ = [] ∧ b.err = false ∧ b.cur = none
        let past := 0 < b.tmo ∧ b.tmo * 1024 ≤ s.now - t0
        (s.me.between = true → waits → past → exec (.qtimeo s.cur) s = .next (trap s 0x22 q.toNat))
        ∧ (¬(waits ∧ past) → exec (.qtimeo s.cur) s = .next s))
    ∧ (s.me.endOf q.toNat = none → exec (.qstat p x q) s = .next (finish s 4 1 (.x x.toNat 0)))
    ∧ (∀ b k, s.me.endOf q.toNat = some (b, k) → b.cnt < 2 ^ 32 → k.ctxTokens.length ≤ 32 → b.lp < 16 → b.asm.length < 16 →
      ∃ v : Word, exec (.qstat p x q) s = .next (finish s 4 1 (.x x.toNat v))
        ∧ v.extractLsb' 0 32 = BitVec.ofNat 32 b.cnt ∧ v.extractLsb' 45 6 = BitVec.ofNat 6 k.ctxTokens.length
        ∧ v.extractLsb' 51 4 = BitVec.ofNat 4 (if b.dir = .out then b.asm.length else b.lp)
        ∧ v.extractLsb' 41 4 = BitVec.ofNat 4 (if b.dir = .loc then b.asm.length else 0)
        ∧ v.getLsbD 57 = b.err ∧ v.getLsbD 58 = b.endf ∧ v.getLsbD 59 = b.ch ∧ v.getLsbD 60 = b.boq ∧ v.getLsbD 63 = true
        ∧ v.extractLsb' 61 2 = (match b.dir with | .out => 0 | .inn => 1 | .loc => 2)
        ∧ v.extractLsb' 55 2 = (if b.dir = .out then 0 else match k.ctxQ.head? with
            | some t => (match t.kind with | .data => 0 | .eos => 1 | .eeos => 2 | .csv => 3)
            | none => 0))

/-! ## Streams, fibres, copies -/

/-- R157 to R159: SOPEN opens a stream on a record that passes its checks and traps the cause of the first that fails; SPUSH
issues the elements asked for that remain and moves POS past them; SADV moves POS; STEND tests for the end; SCLOSE closes.
On a closed stream SPUSH and SADV trap BOUNDS, STEND is true and SCLOSE does nothing; a recorded error traps and is
cleared; a copy of the handle that has been shot traps HINV; more than 65,536 elements trap BOUNDS. The order of these checks of
SPUSH (log 130) and the latency 1 of STEND (log 15) are the model's choices. -/
def Obligations.StreamWords : Prop :=
  ∀ (p : Pred) (r : BitVec 3) (q : BitVec 4) (x : BitVec 5) (pd : BitVec 3) (s : State), Issues s p →
    let n := (s.x x).toNat
    let set (t : Stream) : State := s.modMe (fun c => { c with s := SMap.set c.s r.toNat t })
    let bound := (s.me.boundFor q.toNat .produce).isSome = true
    (sopenCheck s x.toNat (quad s x) = .ok () →
      exec (.sopen p r x) s = .next (retire ((set ⟨quad s x, s.me.getH (bitsOf ((quad s x).getD 3 0) 0 4), 0, none,
        s.me.pushSeq⟩).modMe (fun c => { c with pushSeq := c.pushSeq + 1 })) 4))
    ∧ (∀ e, sopenCheck s x.toNat (quad s x) = .error e → exec (.sopen p r x) s = .next (trap s e.1 e.2))
    ∧ (∀ t, SMap.find s.me.s r.toNat = some t → t.err = none → t.hcopy.v = true →
      let total := bitsOf (t.record.getD 2 0) 32 32 * bitsOf (t.record.getD 2 0) 0 32
      exec (.sadv p r x) s = .next (retire (set { t with pos := min (t.pos + n) total }) 4)
      ∧ exec (.stend p pd r) s = .next (finish s 4 1 (.p pd.toNat (decide (t.pos = total))))
      ∧ exec (.sclose p r) s = .next (retire (s.modMe (fun c => { c with s := SMap.erase c.s r.toNat })) 4)
      ∧ (bound → 65536 < n → exec (.spush p r q x) s = .next (trap s 0x13 n))
      ∧ (bound → n ≤ 65536 → ownPush s.me false r.toNat = none →
          producerBusy s s.cur q.toNat = false → settled s →
          let k := min n (total - t.pos)
          ∃ u, exec (.spush p r q x) s = .next (retire u 4) ∧ u.mem = s.mem
            ∧ SMap.find u.me.s r.toNat = some { t with pos := t.pos + k }
            ∧ u.me.pushes = s.me.pushes ++ (if k = 0 then [] else
                [⟨false, r.toNat, t.record, t.hcopy, t.pos, k, q.toNat, false, s.me.pushSeq, t.no, s.me.sys.asid⟩])))
    ∧ (s.me.boundFor q.toNat .produce = none → exec (.spush p r q x) s = .next (trap s 0x13 q.toNat))
    ∧ (∀ t, SMap.find s.me.s r.toNat = some t → t.err = none → t.hcopy.v = false →
      let hn := bitsOf (t.record.getD 3 0) 0 4
      exec (.sadv p r x) s = .next (trap s 0x12 hn) ∧ (bound → exec (.spush p r q x) s = .next (trap s 0x12 hn)))
    ∧ (SMap.find s.me.s r.toNat = none → exec (.sadv p r x) s = .next (trap s 0x13 r.toNat)
      ∧ (bound → exec (.spush p r q x) s = .next (trap s 0x13 r.toNat))
      ∧ exec (.stend p pd r) s = .next (finish s 4 1 (.p pd.toNat true)) ∧ exec (.sclose p r) s = .next (retire s 4))
    ∧ (∀ t code ga, SMap.find s.me.s r.toNat = some t → t.err = some (code, ga) →
      (∀ i ∈ [.sadv p r x, .stend p pd r, .sclose p r], exec i s = .next (trap (set { t with err := none }) code ga))
      ∧ (bound → exec (.spush p r q x) s = .next (trap (set { t with err := none }) code ga)))

/-- R160, R161: FOPEN reads the segment's two positions and opens the fibre, 8 steps later, where both positions and the
ranges they name pass their checks; FPUSH, FADV, FTEND and FCLOSE as their stream forms, over the two cursors, with their BOUNDS,
HINV and recorded errors (order and latency of the checks: logs 130 and 15). -/
def Obligations.FibreWords : Prop :=
  ∀ (p : Pred) (r : BitVec 3) (q : BitVec 4) (x : BitVec 5) (pd : BitVec 3) (sel : CursorSel) (s : State), Issues s p →
    let n := (s.x x).toNat
    let set (t : Fibre) : State := s.modMe (fun c => { c with f := SMap.set c.f r.toNat t })
    let bound := (s.me.boundFor q.toNat .produce).isSome = true
    (∀ g b e, let w := (quad s x).getD 3 0
      let h := s.me.getH (bitsOf w 0 4)
      let off := wordOf ((quad s x).getD 0 0 + 4 * bitsOf w 16 32)
      bitsOf w 48 16 = 0 → bitsOf w 14 2 ≠ 3 → bitsOf w 16 32 ≠ 2 ^ 32 - 1 →
      checkRead h (bitsOf w 0 4) off 4 true = .ok g → checkRead h (bitsOf w 0 4) (off + 4) 4 true = .ok (g + 4) →
      s.me.wait = none → gaSpace h.gbase ≠ 7 → s.me.sbuf = [] → quiet s →
      (∀ a ∈ [g, g + 4], reaches s (.load s.me.sys.pl) (effRt (rtOf (bitsOf w 12 2)) h.nt == .own) a 4 ∧ prepared s a = false ∧ lineOf (a + 3) = lineOf a
        ∧ untracked s s.me.sys.asid a ∧ SMap.find (s.core s.myCore).si (lineOf a) = none) →
      b = s.peek g 4 → e = s.peek (g + 4) 4 → b ≤ e → fopenRanges s (quad s x) b e = .ok () →
      ∃ t, exec (.fopen p r x) s = .next (finish t 4 8 (.f r.toNat
          ⟨quad s x, h, s.me.getH (bitsOf w 4 4), s.me.getH (bitsOf w 8 4), b, e, b, b, none,
            s.me.pushSeq⟩)) ∧ t.mem = s.mem ∧ t.me = { s.me with pushSeq := s.me.pushSeq + 1 })
    ∧ (∀ t, SMap.find s.me.f r.toNat = some t → t.err = none → t.vh.v = true → t.ch.v = true →
      exec (.fadv p r x) s = .next (retire (set { t with vpos := min (t.vpos + n) t.fin, cpos := min (t.cpos + n) t.fin }) 4)
      ∧ exec (.ftend p sel pd r) s = .next (finish s 4 1 (.p pd.toNat (match sel with
          | .v => decide (t.vpos = t.fin) | .c => decide (t.cpos = t.fin)
          | .vc => decide (t.vpos = t.fin ∧ t.cpos = t.fin))))
      ∧ exec (.fclose p r) s = .next (retire (s.modMe (fun c => { c with f := SMap.erase c.f r.toNat })) 4)
      ∧ (bound → 65536 < n → exec (.fpush p r q x) s = .next (trap s 0x13 n))
      ∧ (bound → n ≤ 65536 → ownPush s.me true r.toNat = none →
          producerBusy s s.cur q.toNat = false → settled s →
          let k := min n (t.fin - t.vpos)
          ∃ u, exec (.fpush p r q x) s = .next (retire u 4) ∧ u.mem = s.mem
            ∧ SMap.find u.me.f r.toNat = some { t with vpos := t.vpos + k }
            ∧ u.me.pushes = s.me.pushes ++ (if k = 0 then [] else
                [⟨true, r.toNat, t.record, t.vh, t.vpos, k, q.toNat, false, s.me.pushSeq, t.no, s.me.sys.asid⟩])))
    ∧ (s.me.boundFor q.toNat .produce = none → exec (.fpush p r q x) s = .next (trap s 0x13 q.toNat))
    ∧ (∀ t, SMap.find s.me.f r.toNat = some t → t.err = none →
      (t.vh.v = false →
        let hn := bitsOf (t.record.getD 3 0) 8 4
        exec (.fadv p r x) s = .next (trap s 0x12 hn) ∧ (bound → exec (.fpush p r q x) s = .next (trap s 0x12 hn)))
      ∧ (t.vh.v = true → t.ch.v = false → exec (.fadv p r x) s = .next (trap s 0x12 (bitsOf (t.record.getD 3 0) 4 4))))
    ∧ (∀ t code ga, SMap.find s.me.f r.toNat = some t → t.err = some (code, ga) →
      (∀ i ∈ [.fadv p r x, .ftend p sel pd r, .fclose p r], exec i s = .next (trap (set { t with err := none }) code ga))
      ∧ (bound → exec (.fpush p r q x) s = .next (trap (set { t with err := none }) code ga)))
    ∧ (SMap.find s.me.f r.toNat = none → exec (.fadv p r x) s = .next (trap s 0x13 r.toNat)
      ∧ (bound → exec (.fpush p r q x) s = .next (trap s 0x13 r.toNat))
      ∧ exec (.ftend p sel pd r) s = .next (finish s 4 1 (.p pd.toNat true)) ∧ exec (.fclose p r) s = .next (retire s 4))

/-- R158, R161: the unit performs the next element of a stream's or fibre's push: its lanes join the queue in order, marked
as read by an engine, the push moves on by one element, and memory is as before. -/
def Obligations.PushElements : Prop :=
  ∀ (c : CtxId) (r : BitVec 3) (u : Push) (e : End) (s : State),
    let g := u.hcopy.ga (u.hcopy.vaAt u.element.1)
    let n := u.element.2.1
    (s.ctx c).pushes = [u] → u.idx = r.toNat → (s.ctx c).endOf u.q = some e → (s.die (dieOf c)).pmop = none →
    u.dead = false → u.hcopy.v = true → 0 < u.remaining →
    readWait s u.asid u.element.2.2 u.hcopy.nt g = none →
    End.laneNeed e (if n = 8 then 2 else 1) ≤ e.2.room →
    fenced s (pkgOf (dieOf c)) .engine g n = false → hasUe s g n = false → lineOf (g + n - 1) = lineOf g → quiet s →
    untracked s u.asid g → SMap.find (s.core (coreOf c)).si (lineOf g) = none →
    ∃ t, exec (if u.fibre then .fibreRead c r else .streamRead c r) s = .next t ∧ t.mem = s.mem
      ∧ (t.ctx c).endOf u.q = some (End.lanes e s.fc true (u.lanes (s.peek g n)))
      ∧ (t.ctx c).pushes = (if u.remaining = 1 then [] else [{ u with next := u.next + 1, remaining := u.remaining - 1 }])

/-- R140 to R143: CPY and CPY.S with a descriptor that passes its checks, a free tag and room take the tag and give the copy to
the engine; a copy of no bytes completes at once. The tag waits return the tags that are clear, acquire, and trap the lowest
error they observe; FFR returns the lowest clear tag of its mask, or 64. The latency 1 of the tag waits is the model's choice
(log 15). -/
def Obligations.CopiesAndTags : Prop :=
  ∀ (p : Pred) (strided : Bool) (tag : BitVec 6) (x y : BitVec 5) (s : State), Issues s p →
    let k := s.core s.myCore
    let m := s.x y
    let i : Instr := if strided then .cpyS p tag x else .cpy p tag x
    let d := copyDesc (quad s x)
    let w := (quad s x).getD 3 0
    (bitsOf w 10 6 = 0 → (strided = false → d.rows = 1 ∧ bitsOf w 16 48 = 0) → d.dga = false → d.sga = false →
      copyCheck s d (newCopy s tag.toNat strided (quad s x)) = .ok () → k.tb.getLsbD tag.toNat = false → k.copies.length < 32 →
      settled s →
      ∃ t, exec i s = .next (retire t 4) ∧ t.mem = s.mem ∧ t.me = s.me
        ∧ (d.len ≠ 0 → (t.core s.myCore).tb.getLsbD tag.toNat = true ∧ (t.core s.myCore).copies = k.copies ++
            [{ newCopy s tag.toNat strided (quad s x) with seq := k.ixSeq }])
        ∧ (d.len = 0 → (t.core s.myCore).tb.getLsbD tag.toNat = false ∧ (t.core s.myCore).copies = k.copies))
    ∧ (m &&& ~~~k.tb ≠ 0 → k.errorIn (m &&& ~~~k.tb) = none →
        exec (.wtany p x y) s = .next (finish (acquire s) 4 1 (.x x.toNat (m &&& ~~~k.tb))))
    ∧ (m = 0 → exec (.wtany p x y) s = .next (finish s 4 1 (.x x.toNat 0))
        ∧ exec (.wtall p x y) s = .next (finish s 4 1 (.x x.toNat 0)))
    ∧ (m ≠ 0 → m &&& ~~~k.tb = 0 → exec (.wtany p x y) s = .next (waitFor s (.anyTag m.toNat)))
    ∧ (m ≠ 0 → m &&& k.tb = 0 → k.errorIn m = none →
        exec (.wtall p x y) s = .next (finish (acquire s) 4 1 (.x x.toNat m)))
    ∧ (m &&& k.tb ≠ 0 → exec (.wtall p x y) s = .next (waitFor s (.allTags m.toNat)))
    ∧ (∀ t code ga, m &&& k.tb = 0 → k.errorIn m = some (t, code, ga) →
        exec (.wtall p x y) s = .next (trap (s.modCore s.myCore (fun k => k.clearTag t none)) code ga))
    ∧ (∀ t < 64, (∀ j < t, (m &&& ~~~k.tb).getLsbD j = false) → (m &&& ~~~k.tb).getLsbD t = true →
        k.errorIn (wordOf (2 ^ t)) = none → exec (.ffr p x y) s = .next (finish (acquire s) 4 1 (.x x.toNat (wordOf t))))
    ∧ (m &&& ~~~k.tb = 0 → exec (.ffr p x y) s = .next (finish s 4 1 (.x x.toNat 64)))

/-- R142: a request of a copy moves the bytes that memory holds at the source to the destination, in any space that copies may
write, and no others; the last one ends the copy and clears its tag. How a copy is cut into requests is the model's choice
(log 19). -/
def Obligations.CopyRequestMoves : Prop :=
  ∀ (k : CoreId) (tag : BitVec 6) (c : Copy) (s : State),
    let from' := c.src.ga 0
    let dest := c.dst.ga 0
    (s.core k).copies = [c] → c.tag = tag.toNat → c.rows = 1 → c.row = 0 → c.byte = 0 → 0 < c.len → c.len ≤ 128 - dest % 128 →
    c.overlaps = false → c.err = none → (s.die (dieOf c.owner)).pmop = none → s.hits = [] → spBlocked s c.owner c.seq c.ranges = false →
    engineWaits s from' = false → writeWaits s c.asid dest = false → fenced s (pkgOf (dieOfCore k)) (.copyRead true) from' c.len = false →
    fenced s (pkgOf (dieOfCore k)) (.copyWrite true) dest c.len = false → hasUe s from' c.len = false →
    hasUe s dest c.len = false → (∀ e ∈ s.ctxs, e.2.wengine = []) → quiet s → untracked s c.asid dest → still s →
    ∃ t, exec (.copyRequest k tag) s = .next t ∧ t.mem = Mem.setBytes s.mem dest (s.bytesAt from' c.len)
      ∧ (t.core k).copies = [] ∧ (t.core k).tb.getLsbD tag.toNat = false ∧ (t.ctx c.owner).x = (s.ctx c.owner).x

/-! ## The index engine -/

/-- R163, R164, R169: the index words. The bindings, the record's fields and the handles are checked in this order; then the
list is read, and an index out of range under OOB = FAULT traps BOUNDS with its position. A command that passes, with its
tag clear, room in the engine and no earlier user of its queues, joins the engine with its rows, takes its tag, moves the
fibre's coordinate cursor past the indices it took, and changes no byte. -/
def Obligations.IndexWords : Prop :=
  ∀ (kind : Nat) (p : Pred) (e pairs : Bool) (op : ScatOp) (q : BitVec 4) (x y : BitVec 5) (s : State), Issues s p → kind < 5 →
    let i := indexInstr kind p e pairs op q x y
    let r := quad s x
    let sq := bitsOf (r.getD 3 0) 44 4
    let cnt := (s.x y).toNat
    let code := indexOp kind pairs op
    (kind ≠ 2 → s.me.boundFor q.toNat .produce = none → exec i s = .next (trap s 0x13 q.toNat))
    ∧ ((kind ≠ 2 → (s.me.boundFor q.toNat .produce).isSome = true) →
      (kind = 1 ∨ kind = 2 → s.me.boundFor sq .consume = none → exec i s = .next (trap s 0x13 sq))
      ∧ ((kind = 1 ∨ kind = 2 → (s.me.boundFor sq .consume).isSome = true) →
        (ixFieldsBad kind code cnt r = true → exec i s = .next (trap s 0x13 x.toNat))
        ∧ (ixFieldsBad kind code cnt r = false →
          (∀ c, ixHandleCheck s kind q.toNat r = .error c → exec i s = .next (trap s c.1 c.2))
          ∧ (∀ a s1 l, ixHandleCheck s kind q.toNat r = .ok () → ixSource s kind cnt r = .ok a →
            (a.n ≠ 0 → spBlocked s s.cur (s.core s.myCore).ixSeq [(a.ga 0, 4 * a.n, false)] = false
              ∧ rangeWait s (a.ga 0) (4 * a.n) = none ∧ ∀ b ∈ s.me.sbuf, storeHeld s b = false) →
            ixList (drainWhile s s.cur (fun _ => a.n != 0)) s.cur a 0 a.n = (s1, .ok l) →
            (∀ j v, recOob r = 0 → l[j]? = some v → v ≠ 0xFFFFFFFF → rowExtent r ≤ v →
                (∀ j' < j, ∀ w, l[j']? = some w → w = 0xFFFFFFFF ∨ w < rowExtent r) →
                exec i s = .next (trap s1 0x13 j))
            ∧ (∀ rows, (recOob r = 0 → ∀ v ∈ l, v = 0xFFFFFFFF ∨ v < rowExtent r) →
                (kind = 3 → quiet s1 ∧ firstOwned s1 (ixGas s1 s1.cur r l) = none) →
                ixResolve s1 s1.cur kind (s1.me.getH (ixDataHandle kind q.toNat r)) r l = .ok rows →
                (kind = 4 → nzscanCheck s1 x.toNat cnt r = .ok ()) →
                (kind ≠ 2 → producerBusy s1 s1.cur q.toNat = false) →
                (kind = 1 ∨ kind = 2 → consumerBusy s1 s1.cur sq = false) →
                (recTagged r = true → (s1.core s1.myCore).tb.getLsbD (recTag r) = false) →
                (s1.core s1.myCore).ix.length < 8 → settled s1 →
                ∃ t cmd, exec i s = .next (retire t 4) ∧ t.mem = s1.mem
                  ∧ (t.core s1.myCore).ix = (s1.core s1.myCore).ix ++ [cmd]
                  ∧ cmd.kind = kind ∧ cmd.owner = s1.cur ∧ cmd.record = r ∧ cmd.rows = rows ∧ cmd.cnt = cnt
                  ∧ cmd.q = q.toNat ∧ cmd.op = code ∧ cmd.flag = (if kind = 2 then 0 else b2n e) ∧ cmd.pos = 0
                  ∧ cmd.dh = s1.me.getH (ixDataHandle kind q.toNat r) ∧ cmd.err = none
                  ∧ (recTagged r = true → (t.core s1.myCore).tb.getLsbD (recTag r) = true)
                  ∧ (∀ f, kind ≠ 1 → kind ≠ 4 → recIsrc r = 1 → SMap.find s1.me.f (recFb r) = some f →
                      SMap.find t.me.f (recFb r) = some { f with cpos := f.cpos + rows.length }))))))

/-- R165 to R169, R309: the rows of the engine's only command. GATH, GATHQ and RGATH append the words that memory holds of
the row, or a zero row, to their queue (a reply of RGATH is one step: the model's choice, log 110); SCAT.ST writes the words it
pops at its row's place, an update form makes a delta of them, and a row of a null index is popped and discarded; NZSCAN appends
the index, and under P the value, of the next element that its zero mode counts as nonzero, passes over the others, and completes
a partial token. The command goes on with the next row and ends after its last one, entering EOS under E. On EOS GATHQ ends so too;
on EEOS it enters EEOS and sets SQ's ERR; SCAT ends errored on either, with cause QERR. -/
def Obligations.IndexRows : Prop :=
  ∀ (k : CoreId) (c : IxCmd) (e : End) (g va entry : Nat) (s : State), ixFree s k c →
    let n := rowBytes c.record
    let words := (n : Nat) / 4
    let sq := bitsOf (c.record.getD 3 0) 44 4
    let on (l : List IxRow) : List IxCmd := if c.pos + 1 < l.length then [{ c with pos := c.pos + 1 }] else []
    let more (l : List IxRow) : Prop := c.flag = 0 ∨ c.pos + 1 < l.length
    ((s.ctx c.owner).endOf c.q = some e → words ≤ e.2.room * 16 + 15 - e.1.asm.length → c.found = false →
      (c.kind = 0 → c.rows[c.pos]? = some (.row g va entry) → more c.rows → plainRow s k c g n →
        ∃ t, exec (.gathRow k 0) s = .next t ∧ t.mem = s.mem
          ∧ (t.ctx c.owner).endOf c.q = some (End.lanes e s.fc true (lanesOfBytes (s.bytesAt g n)))
          ∧ (t.core k).ix = on c.rows)
      ∧ (c.kind = 0 → c.rows[c.pos]? = some .oob → recOob c.record = 1 → more c.rows →
        ∃ t, exec (.gathRow k 0) s = .next t ∧ t.mem = s.mem
          ∧ (t.ctx c.owner).endOf c.q = some (End.lanes e s.fc false (List.replicate words 0))
          ∧ (t.core k).ix = on c.rows)
      ∧ (c.kind = 3 → c.rows = [.row g va entry] → c.pos = 0 → c.flag = 0 → plainRow s k c g n →
        ∃ t, exec (.rgathReply k 0 0) s = .next t ∧ t.mem = s.mem
          ∧ (t.ctx c.owner).endOf c.q = some (End.lanes e s.fc true (lanesOfBytes (s.bytesAt g n)))
          ∧ (t.core k).ix = [])
      ∧ (∀ (o : End) (tok : Token),
        let v := (tok.lane o.1.lp).toNat
        let row := c.dh.vaAt (recBase c.record + (v * rowStride c.record : Nat))
        let goes := c.cnt = 0 ∨ c.pos + 1 < c.cnt
        c.kind = 1 → sq ≠ c.q → (s.ctx c.owner).endOf sq = some o → o.1.entry ≠ e.1.entry → o.1.cur = some tok → o.1.lp < 15 →
        v ≠ 0xFFFFFFFF → v < rowExtent c.record → c.flag = 0 ∨ goes → plainRow s k c (c.dh.ga row) n →
        ∃ t, exec (.gathqIndex k 0) s = .next t ∧ t.mem = s.mem
          ∧ (t.ctx c.owner).endOf sq = some ({ o.1 with lp := o.1.lp + 1 }, o.2)
          ∧ (t.ctx c.owner).endOf c.q = some (End.lanes e s.fc true (lanesOfBytes (s.bytesAt (c.dh.ga row) n)))
          ∧ (t.core k).ix = (if goes then [{ c with pos := c.pos + 1 }] else [])))
    ∧ ((s.ctx c.owner).endOf c.q = some e → 2 ≤ e.2.room → c.found = false →
      let ended (t : State) (k' : TokKind) : Prop := t.mem = s.mem ∧ (t.core k).ix = []
        ∧ (t.ctx c.owner).endOf c.q = some (entered (flushed e s.fc) s.fc (endToken k'))
      (c.kind = 0 → c.rows.length ≤ c.pos → c.flag = 1 → ∃ t, exec (.gathRow k 0) s = .next t ∧ ended t .eos)
      ∧ (c.kind = 4 → c.cnt = c.pos → c.flag = 1 → ∃ t, exec (.nzscanAppend k 0) s = .next t ∧ ended t .eos)
      ∧ (∀ (o : End) (tok : Token) (ts : List Token), c.kind = 1 → sq ≠ c.q → (s.ctx c.owner).endOf sq = some o →
        o.1.entry ≠ e.1.entry → o.1.cur = none → o.1.err = false → o.2.ctxQ = tok :: ts → o.2.cut = false →
        (tok.kind = .eos → c.flag = 1 → ∃ t, exec (.gathqIndex k 0) s = .next t ∧ ended t .eos
          ∧ (t.ctx c.owner).endOf sq = some ({ o.1 with cnt := (o.1.cnt + 1) % 2 ^ 32, endf := true }, { o.2 with ctxQ := ts }))
        ∧ (tok.kind = .eos → c.flag = 0 → ∃ t, exec (.gathqIndex k 0) s = .next t ∧ t.mem = s.mem ∧ (t.core k).ix = []
          ∧ (t.ctx c.owner).endOf c.q = some e)
        ∧ (tok.kind = .eeos → ∃ t, exec (.gathqIndex k 0) s = .next t ∧ ended t .eeos
          ∧ (t.ctx c.owner).endOf sq = some ({ o.1 with err := true }, { o.2 with ctxQ := ts }))))
    ∧ (∀ (tok : Token), c.kind = 2 → (s.ctx c.owner).endOf sq = some e → e.1.cur = some tok → e.1.lp = 0 → words < 16 →
      let popped (t : State) : Prop := (t.ctx c.owner).endOf sq = some ({ e.1 with lp := words }, e.2) ∧ (t.core k).ix = on c.rows
      (c.op = 0 → c.rows[c.pos]? = some (.row g va entry) → plainRow s k c g n → still s →
        ∃ t, exec (.scatRow k 0) s = .next t ∧ popped t
          ∧ t.mem = Mem.setBytes s.mem g ((List.range words).flatMap (fun j => leBytes 4 (tok.lane j).toNat)))
      ∧ (∀ op ∈ [ScatOp.addW, .addD, .addF32, .minW, .maxW, .orD], let u := scatUpd (scatCode op)
        c.op = scatCode op → n = updWidth u → c.rows[c.pos]? = some (.row g va entry) → plainRow s k c g n → hasRoom s k →
        c.dh.nt = false →
        ∃ t, exec (.scatRow k 0) s = .next t ∧ popped t ∧ t.mem = s.mem
          ∧ (t.core k).deltas = [⟨g, u, lanesNat ((List.range words).map tok.lane), [(c.owner, c.asid)], true⟩])
      ∧ (c.rows[c.pos]? = some .null ∨ c.rows[c.pos]? = some .oob →
        ∃ t, exec (.scatRow k 0) s = .next t ∧ popped t ∧ t.mem = s.mem))
    ∧ (∀ (tok : Token) (ts : List Token) (row : IxRow), c.kind = 2 → (s.ctx c.owner).endOf sq = some e → e.1.cur = none →
      e.1.err = false → e.2.ctxQ = tok :: ts → e.2.cut = false → tok.kind = .eos ∨ tok.kind = .eeos →
      c.rows[c.pos]? = some row → recTagged c.record = true →
      ∃ t o, exec (.scatRow k 0) s = .next t ∧ t.mem = s.mem ∧ (t.core k).ix = []
        ∧ SMap.find (t.core k).tags (recTag c.record) = some ⟨o, some (0x20, sq)⟩)
    ∧ ((s.ctx c.owner).endOf c.q = some e → c.kind = 4 →
      let m := scanBytes c.record
      let a := c.dh.ga (c.dh.vaAt (recBase c.record + (c.pos * m : Nat)))
      let zero := if recZm c.record = 1 then s.peek a m % 2 ^ (8 * m - 1) = 0 else s.peek a m = 0
      (c.pos < c.cnt → plainRow s k c a m → readWait s c.asid (recRt c.record) c.dh.nt a = none → c.op ≤ 1 →
        (¬zero → End.laneNeed e (1 + c.op) ≤ e.2.room →
          ∃ t, exec (.nzscanAppend k 0) s = .next t ∧ t.mem = s.mem
            ∧ (t.ctx c.owner).endOf c.q = some (End.lanes e s.fc true
                (BitVec.ofNat 32 (bitsOf (c.record.getD 2 0) 0 32 + c.pos)
                  :: (if c.op = 1 then [BitVec.ofNat 32 (s.peek a m)] else [])))
            ∧ (t.core k).ix = [{ c with pos := c.pos + 1, found := true }])
        ∧ (zero → c.pos + 1 = c.cnt → c.found = false → c.flag = 0 →
          ∃ t, exec (.nzscanAppend k 0) s = .next t ∧ t.mem = s.mem ∧ (t.ctx c.owner).endOf c.q = some e ∧ (t.core k).ix = []))
      ∧ (c.cnt = c.pos → c.flag = 0 →
        (c.found = false ∨ e.1.asm = [] → ∃ t, exec (.nzscanAppend k 0) s = .next t ∧ t.mem = s.mem
          ∧ (t.ctx c.owner).endOf c.q = some e ∧ (t.core k).ix = [])
        ∧ (c.found = true → e.1.asm ≠ [] → 1 ≤ e.2.room → c.op ≤ 1 → ∃ t, exec (.nzscanAppend k 0) s = .next t ∧ t.mem = s.mem
          ∧ (t.core k).ix = []
          ∧ (t.ctx c.owner).endOf c.q = some (End.lanes e s.fc false ((List.range (16 - e.1.asm.length)).map (fun j =>
              if c.op = 1 ∧ j % 2 = 1 then 0 else 0xFFFFFFFF))))))

/-! ## Volumes -/

/-- R174 to R179: VOPEN reads 128 bytes and opens y on a descriptor that passes its checks, else traps DESC; VCLOSE closes.
The element words check y, the size and the coordinate, then act on the element in its frame: LDC loads it or the
background, STC writes it at the home, UPDC leaves a delta, VPROBE says whether it is allocated, VPUSH appends its lanes.
With no frame known they join the walk for their tile, or post one, and wait. A VFREE that has cleared its slot ends though y
be closed. That VPUSH's lanes enter in its step is the model's choice (log 52). -/
def Obligations.VolumeWords : Prop :=
  ∀ (p : Pred) (y : BitVec 2) (h q : BitVec 4) (x c : BitVec 5) (sz : Size) (acq rel : Bool) (op : UpdOp) (s : State),
    Issues s p →
    exec (.vclose p y) s = .next (retire (s.modMe (fun k => { k with y := SMap.erase k.y y.toNat })) 4)
    ∧ (∀ e, s.me.wait = none →
        checkRead (s.me.getH h.toNat) h.toNat (s.x x) 128 (decide (gaSpace (s.me.getH h.toNat).gbase ≠ 7)) = .error e →
        exec (.vopen p y h x) s = .next (trap s e.1 e.2))
    ∧ (∀ g, s.me.wait = none → gaSpace (s.me.getH h.toNat).gbase ≠ 7 →
        checkRead (s.me.getH h.toNat) h.toNat (s.x x) 128 true = .ok g → s.me.sbuf = [] →
        reaches s (.load s.me.sys.pl) false g 128 → prepared s g = false → lineOf (g + 127) = lineOf g → quiet s →
        (volDescBad (s.bytesAt g 128) = false →
          ∃ t, exec (.vopen p y h x) s = .next (retire t 4) ∧ t.mem = s.mem
            ∧ t.me = { s.me with y := SMap.set s.me.y y.toNat ⟨s.bytesAt g 128, g⟩ })
        ∧ (volDescBad (s.bytesAt g 128) = true →
          ∃ t, exec (.vopen p y h x) s = .next (trap t 0x19 (s.x x).toNat) ∧ t.mem = s.mem))
    ∧ (let cw := (s.x c).toNat
       let words := [.ldc p acq sz x y c, .stc p rel sz x y c, .updc p op x y c, .vprobe p x y c, .vfree p y c]
       (SMap.find s.me.y y.toNat = none → ¬freeing s → ∀ i ∈ words, exec i s = .next (trap s 0x12 (16 + y.toNat)))
       ∧ (∀ v, SMap.find s.me.y y.toNat = some v →
         (volEs v.desc ≠ width sz →
           exec (.ldc p acq sz x y c) s = .next (trap s 0x13 cw) ∧ exec (.stc p rel sz x y c) s = .next (trap s 0x13 cw))
         ∧ (¬insideVol v cw → volEs v.desc = width sz → updElement op (volEtype v.desc) = true → ¬freeing s →
             ∀ i ∈ words, exec i s = .next (trap s 0x1A cw))
         ∧ (insideVol v cw → settled s →
           (volEs v.desc = width sz → s.me.reply = none → s.me.wait = none →
              (s.core s.myCore).clbFind s.me.sys.asid v.ga (volKey v.desc cw) = none →
              let same (w : Walk) : Prop := w.asid = s.me.sys.asid ∧ w.desc = v.ga ∧ w.key = volKey v.desc cw
              ((∀ w ∈ (s.die s.myDie).walks, ¬same w) →
                ∃ t w, exec (.ldc p acq sz x y c) s = .next t ∧ t.mem = s.mem
                  ∧ (t.die s.myDie).walks = (s.die s.myDie).walks ++ [w] ∧ t.me.blk = s.me.blk
                  ∧ t.me.wait = some ⟨.walk s.myDie w.id, s.now⟩ ∧ w.node = volRoot v.desc ∧ w.level = volLevels v.desc - 1
                  ∧ same w ∧ w.askers = [⟨s.cur, cw, false, true, false⟩])
              ∧ (∀ w, (s.die s.myDie).walks = [w] → same w → (∀ a ∈ w.askers, a.ctx ≠ s.cur) →
                ∃ t, exec (.ldc p acq sz x y c) s = .next t ∧ t.mem = s.mem ∧ t.me.wait = some ⟨.walk s.myDie w.id, s.now⟩
                  ∧ (t.die s.myDie).walks = [{ w with askers := w.askers ++ [⟨s.cur, cw, false, true, w.waitPop || w.frame.isSome⟩] }]))
           ∧ (∀ fr, frameAt s v cw fr →
              let g := fr + volOffset v.desc cw
              let n := volEs v.desc
              let me' := { s.me with reply := none }
              (∃ t, exec (.vprobe p x y c) s = .next (finish t 4 1 (.x x.toNat
                    (if fr = 0 then 0 else wordOf (2 ^ 63 + (if s.me.sys.pl then gaOf g else 0))))) ∧ t.me = me' ∧ t.mem = s.mem)
              ∧ (n = width sz →
                (fr = 0 → ∃ t, exec (.ldc p acq sz x y c) s = .next
                    (finish t 4 6 (.x x.toNat (wordOf (volBg v.desc % 2 ^ (8 * n))))) ∧ t.me = me' ∧ t.mem = s.mem)
                ∧ (fr ≠ 0 → writable s (pkgOf s.myDie) s.me.sys.asid g n → untracked s s.me.sys.asid g →
                    SMap.find (s.core s.myCore).si (lineOf g) = none →
                    ∃ t, exec (.ldc p acq sz x y c) s = .next (finish t 4 6 (.x x.toNat (wordOf (s.peek g n))))
                      ∧ t.me = me' ∧ t.mem = s.mem)
                ∧ (fr ≠ 0 → writable s (pkgOf s.myDie) s.me.sys.asid g n → untracked s s.me.sys.asid g → still s →
                    ∃ t, exec (.stc p rel sz x y c) s = .next (retire t 4) ∧ t.me = me'
                      ∧ t.mem = Mem.write s.mem g n (s.x x).toNat))
              ∧ (fr ≠ 0 → updElement op (volEtype v.desc) = true → writable s (pkgOf s.myDie) s.me.sys.asid g (updWidth op) →
                  (s.core s.myCore).deltas = [] →
                  ∃ t, exec (.updc p op x y c) s = .next (retire t 4) ∧ t.me = me' ∧ t.mem = s.mem
                    ∧ (t.core s.myCore).deltas = [⟨g, op, (s.x x).toNat % 2 ^ (8 * updWidth op), [(s.cur, s.me.sys.asid)], true⟩])
              ∧ (∀ e, s.me.boundFor q.toNat .produce = some e → producerBusy s s.cur q.toNat = false → fr ≠ 0 →
                  End.laneNeed e (if n = 8 then 2 else 1) ≤ e.2.room → writable s (pkgOf s.myDie) s.me.sys.asid g n →
                  untracked s s.me.sys.asid g → SMap.find (s.core s.myCore).si (lineOf g) = none →
                  ∃ t, exec (.vpush p q y c) s = .next (retire t 4) ∧ t.mem = s.mem
                    ∧ t.me.endOf q.toNat = some (End.lanes e s.fc true (BitVec.ofNat 32 (s.peek g n)
                        :: (if n = 8 then [BitVec.ofNat 32 (s.peek (g + 4) 4)] else [])))))
           ∧ (∀ fr slot, s.me.reply = some (2, fr, slot) → ¬freeing s →
              (fr = 0 → ∃ t, exec (.vfree p y c) s = .next (retire t 4) ∧ t.mem = s.mem)
              ∧ (fr ≠ 0 → writable s (pkgOf s.myDie) s.me.sys.asid slot 8 →
                (s.peek slot 8 ≠ fr → ∃ t, exec (.vfree p y c) s = .next (retire t 4) ∧ t.mem = s.mem)
                ∧ (s.peek slot 8 = fr → untracked s s.me.sys.asid slot → still s →
                    (∀ e ∈ s.ctxs, ∀ g, e.2.reply ≠ some (0, fr, g)) →
                    ∃ t, exec (.vfree p y c) s = .next t ∧ t.mem = Mem.write s.mem slot 8 0
                      ∧ (∀ k, ∀ m ∈ (t.core k).clb, m.frame ≠ fr)
                      ∧ (∃ t0, t.me.wait = some ⟨.vfree fr (volTpool v.desc) (volTile v.desc) true, t0⟩)
                      ∧ (t.die (gaDie (volTpool v.desc))).poolOps = (s.die (gaDie (volTpool v.desc))).poolOps
                          ++ [⟨volTpool v.desc, some fr, volTile v.desc, .vfree s.cur, s.me.sys.asid⟩])))))
       ∧ (∀ fr pool size t0, s.me.wait = some ⟨.vfree fr pool size true, t0⟩ →
          (∀ d ∈ s.dies, ∀ o ∈ d.2.poolOps, o.who ≠ .vfree s.cur) → exec (.vfree p y c) s = .next (retire s 4)))

/-- R332, R337: a step of a die's only walk reads its slot: a node below it is gone down to, a tile is the reply, an empty
slot is the reply 0 or asks the level's pool for a frame, for the contexts that allocate. R330: a pop takes the frame at the top of the
pool's stack, a push puts one there, and TOP moves by one. -/
def Obligations.WalksAndPools : Prop :=
  (∀ (d : DieId) (w : Walk) (s : State), (s.die d).walks = [w] → w.waitPop = false → w.frame = none → w.filled = false →
    reachable s (pkgOf d) w.slot 8 →
    let v := s.peek w.slot 8
    (0 < w.level → v ≠ 0 → slotGaOk v 512 = true → ∃ t, exec (.shawmWalk d 0) s = .next t ∧ t.mem = s.mem
      ∧ (t.die d).walks = [{ w with node := v, level := w.level - 1, filled := false }])
    ∧ (v = 0 → w.alloc = true → ∃ t, exec (.shawmWalk d 0) s = .next t ∧ t.mem = s.mem
      ∧ (t.die (gaDie w.pool)).poolOps = (s.die (gaDie w.pool)).poolOps ++ [⟨w.pool, none, w.align, .walk d w.id, w.asid⟩]
      ∧ (t.die d).walks = [{ w with askers := w.askers.filter (fun a => a.alloc), waitPop := true }])
    ∧ (∀ a t0, w.askers = [a] → (s.ctx a.ctx).wait = some ⟨.walk d w.id, t0⟩ → a.clb = true →
      (v = 0 ∧ a.alloc = false) ∨ (v ≠ 0 ∧ w.level = 0 ∧ slotGaOk v (volTile w.body) = true) →
      ∃ t, exec (.shawmWalk d 0) s = .next t ∧ t.mem = s.mem ∧ (t.die d).walks = []
        ∧ (t.ctx a.ctx).reply = some (0, v, w.desc) ∧ (t.ctx a.ctx).x = (s.ctx a.ctx).x))
  ∧ (∀ (d : DieId) (op : PoolOp) (s : State), (s.die d).poolOps = [op] → slotGaOk op.pool 8 = true →
    let base := s.peek op.pool 8
    let top := s.peek (op.pool + 8) 8
    let cap := s.peek (op.pool + 16) 8
    (∀ a ∈ [op.pool, op.pool + 8, op.pool + 16, op.pool + 24], reachable s (pkgOf op.from') a 8) →
    s.peek (op.pool + 24) 8 = 0 → top ≤ cap → slotGaOk base 8 = true → still s → pushBehind s op = false →
    (∀ wd id w, op.push = none → op.who = .walk wd id → (s.die wd).walks = [w] → w.id = id → 0 < top →
      let fr := s.peek (base + 8 * (top - 1)) 8
      reachable s (pkgOf wd) (base + 8 * (top - 1)) 8 → fr ≠ 0 → slotGaOk fr op.align = true →
      writeWaits s op.asid (op.pool + 8) = false → untracked s op.asid (op.pool + 8) →
      ∃ t, exec (.poolPop d 0) s = .next t ∧ t.mem = Mem.write s.mem (op.pool + 8) 8 (top - 1)
        ∧ (t.die wd).walks = [{ w with waitPop := false, frame := some fr, filled := false }])
    ∧ (∀ fr c n, op.push = some fr → op.who = .plpush c n → reachable s (pkgOf (dieOf c)) (base + 8 * top) 8 →
      (∀ a ∈ [op.pool, op.pool + 8, op.pool + 24, base + 8 * top], writeWaits s op.asid a = false) →
      let m1 := Mem.write s.mem (base + 8 * top) 8 fr
      untracked s op.asid (base + 8 * top) → untracked { s with mem := m1 } op.asid (op.pool + 8) →
      (2 ^ 56 ≤ fr → ∃ t, exec (.poolPush d 0) s = .next t ∧ t.mem = s.mem ∧ (t.ctx c).plstat = 2)
      ∧ (fr < 2 ^ 56 → top < cap → ∃ t, exec (.poolPush d 0) s = .next t ∧ t.mem = Mem.write m1 (op.pool + 8) 8 (top + 1)
        ∧ (t.ctx c).plstat = 0)
      ∧ (fr < 2 ^ 56 → top = cap → ∃ t, exec (.poolPush d 0) s = .next t ∧ t.mem = s.mem ∧ (t.ctx c).plstat = 1)))

/-- R125, R180: HSHOOT removes every lease-table entry of the job's page in the domain and clears V of every handle made from
one; VSHOOT removes the volume's CLB entries and closes every y register open on it. Each ends at once where no access under
what it removed is under way. A misaligned operand of HSHOOT traps BOUNDS. -/
def Obligations.ShootDowns : Prop :=
  ∀ (p : Pred) (a : BitVec 5) (s : State), Issues s p → s.me.sys.pl = true → s.me.wait = none → settled s →
    quiet s → (∀ e ∈ s.dies, e.2.saved = []) →
    let v := (s.x a).toNat
    (shootOperandOk v = false → exec (.hshoot p a) s = .next (trap s 0x13 v))
    ∧ (shootOperandOk v = true → (∀ e ∈ s.ctxs, e.2.sbuf = [] ∧ e.2.pushes = [] ∧ e.2.inLoad = none) →
      (∀ e ∈ s.cores, e.2.copies = [] ∧ e.2.ix = []) →
      let hit (m : LtEntry) : Prop := m.asid = s.me.sys.asid ∧ m.va = bitsOf v 12 44 * 4096 ∧ m.psize = bitsOf v 10 2
      ∃ t, exec (.hshoot p a) s = .next (retire t 4) ∧ t.mem = s.mem
        ∧ (∀ d, ∀ m ∈ (t.die d).leases, m ∈ (s.die d).leases ∧ ¬hit m)
        ∧ (∀ c r, (t.ctx c).getX r = (s.ctx c).getX r)
        ∧ (∀ c hn, let h := (s.ctx c).getH hn
            ((∃ m ∈ (s.die (dieOf c)).leases, hit m ∧ m.id = h.entry) → ((t.ctx c).getH hn).v = false)
            ∧ ((∀ e ∈ s.dies, e.1 = dieOf c → ∀ m ∈ e.2.leases, hit m → m.id ≠ h.entry) → (t.ctx c).getH hn = h)))
    ∧ (v < 2 ^ 56 → (∀ e ∈ s.ctxs, ∀ f, e.2.reply ≠ some (0, f, v)) → (∀ d ∈ s.dies, ∀ w ∈ d.2.walks, w.desc ≠ v) →
      ∃ t, exec (.vshoot p a) s = .next (retire t 4) ∧ t.mem = s.mem ∧ (∀ k, ∀ m ∈ (t.core k).clb, m.desc ≠ v)
        ∧ (∀ c, ∀ e ∈ (t.ctx c).y, e ∈ (s.ctx c).y ∧ e.2.ga ≠ v))

/-! ## Bundles -/

/-- R181 to R190, R340: BOPEN opens a bundle of the next free sequence, or joins one when its coordinator has said yes; BST
writes the pending version of a bundled line and no other byte, after its checks in order; BCLOSE takes its tag, closes d and
sends CLOSE; BABORT closes d and aborts; RGBEG and RGEND open and report a read group. A line that another bundle holds
makes BST wait, 100 µs at most. The model's choices: the latency 1 of BOPEN and RGEND (log 15), BOUNDS of a BCLOSE of a closed d
(log 21), a BABORT that reaches the coordinator in its step (log 71), the 100 µs as those of one wait for the line, whichever
bundles hold it (log 131), and FENCED of a join to a die that has not started (log 146). -/
def Obligations.BundleWords : Prop :=
  ∀ (p : Pred) (d : BitVec 2) (sz : Size) (x y : BitVec 5) (h : BitVec 4) (tag : BitVec 6) (s : State), Issues s p →
    let v := (s.x x).toNat
    let words := [.bst p d sz x h y, .bclose p d tag]
    let closed := { s.me with d := SMap.erase s.me.d d.toNat }
    (SMap.find s.me.d d.toNat = none →
      (∀ i ∈ words, exec i s = .next (trap s 0x13 d.toNat))
      ∧ (bitOf v 63 = false → ∀ n, (s.die s.myDie).nextSeq = n → 1 ≤ n → n ≤ 0xFFFFF → (s.die s.myDie).bundles.length < 4096 →
        let ducat := s.myDie * 2 ^ 20 + n
        SMap.find (s.die s.myDie).bundles ducat = none →
        ∃ t, exec (.bopen p d x) s = .next (finish t 4 1 (.x x.toNat (wordOf ducat))) ∧ t.mem = s.mem
          ∧ t.me = { s.me with d := SMap.set s.me.d d.toNat ⟨ducat, .opener⟩ }
          ∧ SMap.find (t.die s.myDie).bundles ducat = some (Bundle.new s.cur) ∧ (t.die s.myDie).nextSeq = n + 1)
      ∧ (bitOf v 63 = true → let ducat := v % 2 ^ 32
        bitsOf v 32 31 = 0 → ducat < 2 ^ 28 →
        (dieGone s (pkgOf s.myDie) (ducatDie ducat) = true → exec (.bopen p d x) s = .next (trap
          (s.modMe (fun c => { c with reply := none })) 0x51 (silentGa (ducatDie ducat))))
        ∧ (dieGone s (pkgOf s.myDie) (ducatDie ducat) = false →
        (s.me.reply = none → s.me.wait = none → exec (.bopen p d x) s = .next (waitFor
          { s with bmsgs := s.bmsgs ++ [⟨.join, s.myDie, ducatDie ducat, ducat, s.cur, 0, 0⟩] } (.join ducat)))
        ∧ (∀ a, s.me.reply = some (3, 1, a) →
          ∃ t, exec (.bopen p d x) s = .next (finish t 4 1 (.x x.toNat (wordOf ducat)))
            ∧ t.me = { s.me with reply := none, d := SMap.set s.me.d d.toNat ⟨ducat, .joiner⟩ })
        ∧ (∀ a, s.me.reply = some (3, 2, a) →
          ∃ t, exec (.bopen p d x) s = .next (finish t 4 1 (.x x.toNat (wordOf ducat)))
            ∧ t.me = { s.me with reply := none, d := SMap.set s.me.d d.toNat ⟨ducat, .aborted⟩ })
        ∧ (∀ a, s.me.reply = some (3, 0, a) →
          ∃ t, exec (.bopen p d x) s = .next (trap t 0x13 v) ∧ t.me = { s.me with reply := none }))))
    ∧ (∀ r, SMap.find s.me.d d.toNat = some r → r.role = .aborted → ∀ i ∈ .bopen p d x :: words,
        exec i s = .next (trap (s.modMe (fun _ => closed)) 0x38 r.ducat))
    ∧ (∀ r, SMap.find s.me.d d.toNat = some r → r.role ≠ .aborted →
      exec (.bopen p d x) s = .next (trap s 0x13 d.toNat)
      ∧ (let hd := s.me.getH h.toNat
        let off := s.x y
        let n := width sz
        (∀ e, checkRead hd h.toNat off n (decide (gaSpace hd.gbase ≠ 7)) = .error e →
          exec (.bst p d sz x h y) s = .next (trap s e.1 e.2))
        ∧ (∀ g, gaSpace hd.gbase = 7 → checkRead hd h.toNat off n false = .ok g →
          (s.me.sys.pl = false ∨ (n = 8 ∧ g % 8 = 0) → exec (.bst p d sz x h y) s = .next (trap s 0x51 g))
          ∧ (s.me.sys.pl = true → n ≠ 8 ∨ g % 8 ≠ 0 → exec (.bst p d sz x h y) s = .next (trap s 0x14 g)))
        ∧ (∀ g, gaSpace hd.gbase ≠ 7 → checkRead hd h.toNat off n true = .ok g →
          (hd.w = false → exec (.bst p d sz x h y) s = .next (trap s 0x11 (hd.va off)))
          ∧ (hd.w = true → hd.vf = true → exec (.bst p d sz x h y) s = .next (trap s 0x19 off.toNat))
          ∧ (hd.w = true → hd.vf = false → hd.bnd = false → exec (.bst p d sz x h y) s = .next (trap s 0x38 off.toNat))
          ∧ (hd.w = true → hd.vf = false → hd.bnd = true → watchCore s s.cur g n = none →
              fenced s (pkgOf s.myDie) .engine g n = false → unfenced s →
            (∀ w, heldBy s s.me.sys.asid true g = some w → exec (.bst p d sz x h y) s = .next (waitFor s w))
            ∧ (heldBy s s.me.sys.asid true g = none → (bstBlocked s (lineOf g) r.ducat = true → s.me.wait = none →
              ∃ t, exec (.bst p d sz x h y) s = .next (waitFor t (.bstConflict (lineOf g) r.ducat off.toNat))
                ∧ t.mem = s.mem ∧ t.me = s.me)
            ∧ (∀ m w, s.pending (lineOf g) = some (m, w) → w.ducat = r.ducat →
              ∃ t, exec (.bst p d sz x h y) s = .next (retire t 4) ∧ t.mem = s.mem ∧ t.me = s.me
                ∧ t.pending (lineOf g) = some (m, { w with data := patch w.data (g % 128) (bytesOf n (s.x x))
                                                           jobs := w.jobs.erase s.me.sys.asid ++ [s.me.sys.asid] }))
            ∧ (s.pending (lineOf g) = none → quiet s →
              let k := s.die (homeOf (lineOf g))
              (k.slots.length < k.rscap → k.comp.length < k.ctcap →
                ∃ t m, exec (.bst p d sz x h y) s = .next (retire t 4) ∧ t.mem = s.mem ∧ t.me = s.me
                  ∧ t.pending (lineOf g) = some (m, ⟨verPending, r.ducat, 0, 0, lineOf g * 128,
                      patch (s.bytesAt (lineOf g * 128) 128) (g % 128) (bytesOf n (s.x x)), [s.me.sys.asid]⟩))
              ∧ (k.rscap ≤ k.slots.length →
                ∃ t, exec (.bst p d sz x h y) s = .next (trap t 0x39 r.ducat) ∧ t.mem = s.mem ∧ t.me = s.me))))))
      ∧ (∀ b, s.bundle r.ducat = some b → (s.core s.myCore).tb.getLsbD tag.toNat = false → settled s → b.st = .opened →
        ∃ t, exec (.bclose p d tag) s = .next (retire t 4) ∧ t.mem = s.mem ∧ t.me = closed
          ∧ (t.core s.myCore).tb.getLsbD tag.toNat = true
          ∧ t.bundle r.ducat = some { b with tags := b.tags ++ [(s.myCore, tag.toNat, s.cur)]
                                             st := if r.role = .opener then .closing else .opened }
          ∧ t.bmsgs = s.bmsgs ++ [⟨.close, s.myDie, ducatDie r.ducat, r.ducat, s.cur, tag.toNat, b2n (r.role == .opener)⟩])
      ∧ (∀ b, s.bundle r.ducat = some b → b.st = .opened → (∀ a t0, s.me.wait ≠ some ⟨.babort a, t0⟩) →
        (b.parts = [] → b.silent = none → b.tags = [] →
          ∃ t, exec (.babort p d) s = .next (retire t 4) ∧ t.mem = s.mem ∧ t.bundle r.ducat = none
            ∧ SMap.find t.me.d d.toNat = none)
        ∧ (b.parts ≠ [] → ∃ t, exec (.babort p d) s = .next (waitFor t (.babort r.ducat)) ∧ t.mem = s.mem ∧ t.me = closed
            ∧ t.bundle r.ducat = some { b with st := .aborting, abortedBy := [] }
            ∧ t.bmsgs = s.bmsgs ++ b.parts.map (fun q => ⟨.abort, ducatDie r.ducat, q, r.ducat, b.opener, 0, 0⟩))))
    ∧ (∀ a t0, s.me.wait = some ⟨.babort a, t0⟩ → s.bundle a = none → SMap.find s.orphans a = none →
        exec (.babort p d) s = .next (retire s 4))
    ∧ exec (.rgbeg p) s = .next (retire (s.modMe (fun c => { c with rg := some ⟨false, false, 0, []⟩ })) 4)
    ∧ exec (.rgend p x) s = .next (finish (s.modMe (fun c => { c with rg := none })) 4 1 (.x x.toNat
        (match s.me.rg with
         | none => 3
         | some g => wordOf (g.lines.length * 2 ^ 16 + g.vf * 2 ^ 8 + (if g.ov then 2 else if g.fr then 1 else 0)))))
    ∧ (∀ c line ducat off t0, (s.ctx c).wait = some ⟨.bstConflict line ducat off, t0⟩ → bstBlocked s line ducat = true →
        (s.ctx c).desched = false →
        (t0 + 200000 ≤ s.now → exec (.bstConflictTimeout c) s = .next (trapEntry s c 0x38 off false false))
        ∧ (s.now - t0 < 200000 → exec (.bstConflictTimeout c) s = .next s))

/-- R340, R364 to R369: what each bundle message does where it arrives, the only one in flight. The coordinator of an open
bundle admits holders and records participants; with every holder closed it sends PREPARE, with every participant prepared it
fixes the stamp and sends COMMIT, with every participant's answer it ends the bundle. A participant prepares, rotates or
frees the ducat's pending versions: on COMMIT, once no host owns a region that it writes (R284), the pending bytes become the
home's and the former ones the prior version. -/
def Obligations.BundleMessages : Prop :=
  ∀ (m : BMsg) (s : State), s.bmsgs = [m] → (s.die m.dst).started = true →
    let t0 := { s with bmsgs := [] }
    let reply (k : BKind) (a b : Nat) : BMsg := ⟨k, m.dst, m.src, m.ducat, m.ctx, a, b⟩
    (m.kind = .join →
      (∀ b, s.bundle m.ducat = some b → b.st = .opened →
        exec (.join 0) s = .next (postB (setBundle t0 m.ducat { b with holders := b.holders ++ [m.ctx] }) (reply .jack 1 0)))
      ∧ (s.bundle m.ducat = none → exec (.join 0) s = .next (postB t0 (reply .jack 0 0))))
    ∧ (m.kind = .jack → ∀ since, (s.ctx m.ctx).wait = some ⟨.join m.ducat, since⟩ →
        exec (.jack 0) s = .next (t0.modCtx m.ctx (fun c => { c with reply := some (3, m.a, 0) })))
    ∧ (m.kind = .reg →
      (∀ b, s.bundle m.ducat = some b → b.st ≠ .aborting → b.st ≠ .done →
        exec (.reg 0) s = .next (postB (setBundle t0 m.ducat { b with parts := b.parts.erase m.src ++ [m.src] }) (reply .rack 0 0)))
      ∧ (s.bundle m.ducat = none → exec (.reg 0) s = .next (postB t0 (reply .abort 0 0))))
    ∧ (m.kind = .rack → (SMap.find (s.die m.dst).regs m.ducat).isSome = true →
        ∃ t, exec (.rack 0) s = .next t ∧ SMap.find (t.die m.dst).regs m.ducat = some 1 ∧ t.mem = s.mem ∧ t.bmsgs = [])
    ∧ (m.kind = .close → m.b = 1 → (∀ e ∈ s.dies, SMap.find e.2.regs m.ducat ≠ some 0) →
      ∀ b, s.bundle m.ducat = some b → b.st = .closing →
        let b' := { b with closed := b.closed ++ [m.ctx] }
        (b.closed.length + 1 < b.holders.length → exec (.close 0) s = .next (setBundle t0 m.ducat b'))
        ∧ (b.holders.length ≤ b.closed.length + 1 → let c := ducatDie m.ducat
            let l := b.parts.erase c ++ [c]
            ∃ t, exec (.close 0) s = .next t ∧ t.bundle m.ducat = some { b' with st := .preparing, parts := l } ∧ t.mem = s.mem
              ∧ t.bmsgs = l.map (fun q => ⟨.prepare, c, q, m.ducat, b.opener, 0, 0⟩)))
    ∧ (m.kind = .prepare → quiet s →
        ∃ t, exec (.prepare 0) s = .next t ∧ t.mem = s.mem
          ∧ (∀ e ∈ (t.die m.dst).slots, e.2.ducat = m.ducat → e.2.state ≠ verPending)
          ∧ t.bmsgs = [reply .prepared (s.die m.dst).hss
              ((pendingSlots s m.dst m.ducat).foldl (fun g e => g ||| bloom (lineOf e.2.ga)) 0)])
    ∧ (m.kind = .prepared → ∀ b, s.bundle m.ducat = some b → b.st = .preparing →
        let l := b.prepared ++ [(m.src, m.a, m.b)]
        ((∃ q ∈ b.parts, ∀ e ∈ l, e.1 ≠ q) → exec (.prepared 0) s = .next (setBundle t0 m.ducat { b with prepared := l }))
        ∧ ((∀ q ∈ b.parts, ∃ e ∈ l, e.1 = q) →
            let c := ducatDie m.ducat
            let stamp := l.foldl (fun n e => max n e.2.1) (s.die c).hss + 1
            let digest := l.foldl (fun n e => n ||| e.2.2) 0
            ∃ t, exec (.prepared 0) s = .next t ∧ t.mem = s.mem
              ∧ t.bundle m.ducat = some { b with prepared := l, st := .committing, stamp := stamp, digest := digest }
              ∧ (t.die c).hss = stamp ∧ t.bmsgs = b.parts.map (fun q => ⟨.commit, c, q, m.ducat, b.opener, stamp, digest⟩)))
    ∧ (m.kind = .commit → ∀ n v i e, pendingSlots s m.dst m.ducat = [(n, v)] → s.companion (lineOf v.ga) = some (i, e) →
        homeOf (lineOf v.ga) = m.dst → gaDie v.ga = m.dst → (∀ a ∈ commitGas s m.dst m.ducat, procOwned s a = false) → (∀ a ∈ v.jobs, untracked s a v.ga) → still s →
        ∃ t, exec (.commit 0) s = .next t ∧ t.mem = Mem.setBytes s.mem v.ga v.data ∧ t.bmsgs = [reply .committed 0 0]
          ∧ (t.die m.dst).hss = max (s.die m.dst).hss m.a
          ∧ t.companion (lineOf v.ga) = some (i,
              { e with ctag := 2 ^ 28 + m.ducat, cstamp := m.a, cdigest := m.b, prv := some n, pnd := none })
          ∧ (t.die m.dst).slot n = ⟨verPrior, e.ctag % 2 ^ 28, e.cstamp, e.cdigest, v.ga, s.bytesAt v.ga 128, []⟩
          ∧ SMap.find (t.die m.dst).applied m.ducat = some (m.a, m.b))
    ∧ (m.kind = .committed → ∀ b, s.bundle m.ducat = some b → b.st = .committing → b.silent = none →
        (∀ q ∈ b.parts, q = m.src ∨ q ∈ b.committed) →
        ∃ t, exec (.committed 0) s = .next t ∧ t.mem = s.mem ∧ t.bundle m.ducat = none
          ∧ ∀ e ∈ b.tags, e.2.1 < 64 → (t.core e.1).tb.getLsbD e.2.1 = false)
    ∧ (m.kind = .abort →
        ∃ t, exec (.abort 0) s = .next t ∧ t.mem = s.mem ∧ t.bmsgs = [reply .aborted 0 0]
          ∧ ∀ e ∈ (t.die m.dst).slots, e ∈ (s.die m.dst).slots
              ∧ ¬(e.2.ducat = m.ducat ∧ (e.2.state = verPending ∨ e.2.state = verPrepared)))
    ∧ (m.kind = .aborted → ∀ b, s.bundle m.ducat = some b → b.st = .aborting → b.silent = none →
        (∀ q ∈ b.parts, q = m.src ∨ q ∈ b.abortedBy) →
        ∃ t, exec (.aborted 0) s = .next t ∧ t.mem = s.mem ∧ t.bundle m.ducat = none
          ∧ ∀ c, ∀ r ∈ (t.ctx c).d, r.2.ducat = m.ducat → r.2.role = .aborted)

/-! ## The systolic arrays -/

/-- R230, R233, R240, R241: MQ puts the 128-bit command of x[X], x[X+1] at the end of its SA's queue, and marks it ready there
with ABT as its semaphore then stands; a full queue makes it wait, and MQ.NB answers in pd instead. MQCAN cancels the
commands selected that have not started (R234: begun, or ready). WAITB takes the oldest record of a completion barrier, waits while there is none, and traps where the record says ERR. A command that fails the checks of R79
is BADOP. The latency 1 of WAITB and MQ.NB is the model's choice (log 15). -/
def Obligations.MatrixWords : Prop :=
  ∀ (p : Pred) (pd : BitVec 3) (b f : BitVec 4) (x : BitVec 5) (s : State), Issues s p →
    let w := (s.x x).toNat + 2 ^ 64 * (s.me.getX (x.toNat + 1)).toNat
    let k := bitsOf w 8 6
    let v := (s.x x).toNat
    (s.me.region = none →
      (∃ e, encode (.mq p x) = some e ∧ exec (.mq p x) s = .next (trap s 0x01 e))
      ∧ exec (.waitb p b x) s = .next (trap s 0x13 b.toNat)
      ∧ (bitsOf v 9 55 = 0 → bitOf v 6 = true → exec (.mqcan p f x) s = .next (retire s 4)))
    ∧ (bitsOf v 9 55 ≠ 0 → exec (.mqcan p f x) s = .next (trap s 0x13 v))
    ∧ (∀ r, s.me.region = some r →
      (mcOk w r.sas.length = false → ∃ e, encode (.mq p x) = some e ∧ exec (.mq p x) s = .next (trap s 0x01 e))
      ∧ (∀ a, mcOk w r.sas.length = true → r.sealed = false → r.sa k = some a →
        let a' := { a with queue := a.queue ++ [⟨w, false, false, if bitsOf w 0 4 = 3 then some a.pairN else none,
                              (s.core s.myCore).ixSeq, s.cur, none⟩]
                           pairN := if bitsOf w 0 4 = 3 then a.pairN + 1 else a.pairN }
        let joins (a2 : Sa) : Prop := saAlike a2 a' ∧ (a.queue = [] → a2.queue.map (fun c => c.ready) =
          [if r.readyBy w then some (r.abtFor w, s.fc) else none])
        (a.queue.length < 16 → settled s →
          (∃ t r' a2, exec (.mq p x) s = .next (retire t 4) ∧ t.mem = s.mem ∧ t.me.x = s.me.x ∧ t.me.region = some r'
            ∧ r'.sa k = some a2 ∧ joins a2)
          ∧ (∃ t r' a2, exec (.mqNb p pd x) s = .next (finish t 4 1 (.p pd.toNat true)) ∧ t.mem = s.mem ∧ t.me.x = s.me.x
            ∧ t.me.region = some r' ∧ r'.sa k = some a2 ∧ joins a2))
        ∧ (16 ≤ a.queue.length →
          (∃ t, exec (.mq p x) s = .next (waitFor t (.mqFull k)) ∧ t.mem = s.mem ∧ t.me = s.me)
          ∧ (∃ t, exec (.mqNb p pd x) s = .next (finish t 4 1 (.p pd.toNat false)) ∧ t.mem = s.mem ∧ t.me = s.me)))
      ∧ (∀ a c, bitsOf v 9 55 = 0 → bitOf v 6 = false → bitOf v 8 = false → let j := bitsOf v 0 6
        r.sa j = some a → a.queue = [c] → c.started = false → c.cancelled = false → bitsOf c.w 0 4 ≠ 3 → bitsOf c.w 0 4 ≠ 5 →
        (r.begun j c = true → ∃ t r' a2, exec (.mqcan p f x) s = .next (retire t 4) ∧ t.mem = s.mem ∧ t.me.region = some r'
            ∧ r'.sa j = some a2 ∧ saAlike a2 a)
        ∧ (r.begun j c = false → bitOf v 7 = false ∨ (mcSen c.w = true ∧ mcSsem c.w = f.toNat) →
          ∃ t r', exec (.mqcan p f x) s = .next (retire t 4) ∧ t.mem = s.mem ∧ t.me.region = some r'
            ∧ r'.sa j = some (passed a)
            ∧ (mcSen c.w = true → r'.semOf (mcSsem c.w) = (((r.semOf (mcSsem c.w)).1 + 1) % 2 ^ 16, true)))
        ∧ (r.begun j c = false → bitOf v 7 = true → mcSen c.w = false ∨ mcSsem c.w ≠ f.toNat →
          ∃ t r' a2, exec (.mqcan p f x) s = .next (retire t 4) ∧ t.mem = s.mem ∧ t.me.region = some r'
            ∧ r'.sa j = some a2 ∧ saAlike a2 a))
      ∧ (r.sas ≠ [] →
        (r.cbOf b.toNat = [] → exec (.waitb p b x) s = .next (waitFor s (.waitb b.toNat)))
        ∧ (∀ g rest, r.cbOf b.toNat = g :: rest →
          (g % 4 ≠ 1 → ∃ t r', exec (.waitb p b x) s = .next (finish t 4 1 (.x x.toNat (wordOf g))) ∧ t.mem = s.mem
            ∧ t.me.region = some r' ∧ r'.cbOf b.toNat = rest ∧ (t.core s.myCore).si = [])
          ∧ (g % 4 = 1 → ∃ t r', exec (.waitb p b x) s = .next (if bitsOf g 8 8 = 0x31 then trap t 0x31 (bitsOf g 16 6)
                else trap t 0x30 g) ∧ t.mem = s.mem ∧ t.me.region = some r' ∧ r'.cbOf b.toNat = (g + 2) :: rest))))

/-- R234 to R240, R296, R300 to R303: the steps of an SA block whose queue holds one command. MZERO zeroes its bank; MLOADB
checks its source, then moves one block of 64 bytes a step; MMUL and MMULP check their formats, start, and take one A block a
step from the port due; a pair starts when both halves stood ready within 65,536 fc of one another, is cancelled when one met ABT,
and times out else; MREAD and MRDDIAG start and complete once their quads are out; MBAR enters its record. An end token that no
command owes is ignored. Refresh windows open and close. The model's choices: when a half without a partner SA ends (log 64), the
layout of the B slices (log 103), ALIGN before FENCED (log 121), KSTEP 0 of a source fenced later (log 136), and when the other half
of a cancelled pair ends (log 137). -/
def Obligations.ArrayCommands : Prop :=
  (∀ (c : CtxId) (r : Region) (k : Nat) (a : Sa) (cmd : SaCmd) (s : State),
    let w := cmd.w
    let on (f : Sa → Sa) : Sa := f { a with queue := [{ cmd with started := true }] }
    let failed (code : Nat) : Sa := { a with queue := [], firstErr := match a.firstErr with
      | none => some ⟨0, code, 0, bitsOf w 0 4⟩
      | some e => if e.ahead = 0 then some e else some ⟨0, code, 0, bitsOf w 0 4⟩ }
    (saFree s c r k a cmd 0 →
      ∃ t r' a', exec (.mzero c k) s = .next t ∧ t.mem = s.mem ∧ (t.ctx c).region = some r' ∧ r'.sa k = some a' ∧ a'.queue = []
        ∧ (∀ row < 128, ∀ j < 8, a'.quadAt (bitsOf w 4 1) row j = Quad.zero)
        ∧ (∀ row < 128, ∀ j < 8, a'.quadAt (1 - bitsOf w 4 1) row j = a.quadAt (1 - bitsOf w 4 1) row j))
    ∧ (saFree s c r k a cmd 1 → let g := bitsOf w 64 56
      let nblk := bitsOf w 48 8 + 1
      (cmd.started = false →
        (g % 64 ≠ 0 → saThen (.mloadb c k) s c k (failed 0x14))
        ∧ (g % 64 = 0 → fenced s (pkgOf (dieOf c)) .mloadb g (8192 * nblk) = true → saThen (.mloadb c k) s c k (failed 0x51))
        ∧ (g % 64 = 0 → fenced s (pkgOf (dieOf c)) .mloadb g (8192 * nblk) = false →
            saThen (.mloadb c k) s c k (on (fun a => { a with load := 0, loadErr := none }))))
      ∧ (cmd.started = true → let n := a.load
        let dst := sliceGa (dieOf c) a.index (n % 128) (bitsOf w 40 8 + n / 128)
        spBlocked s c cmd.seq cmd.ranges = false →
        (fenced s (pkgOf (dieOf c)) .mloadb (g + 64 * n) 64 = true → a.loadErr = none →
          saThen (.mloadb c k) s c k { failed 0x51 with load := 0 })
        ∧ (fenced s (pkgOf (dieOf c)) .mloadb (g + 64 * n) 64 = false → refreshing s (g + 64 * n) = false → hasUe s (g + 64 * n) 64 = false →
        lineOf (g + 64 * n + 63) = lineOf (g + 64 * n) → quiet s →
        ∃ t r', exec (.mloadb c k) s = .next t ∧ t.mem = Mem.setBytes s.mem dst (s.bytesAt (g + 64 * n) 64)
          ∧ (t.ctx c).region = some r'
          ∧ (n + 1 < 128 * nblk → r'.sa k = some { a with load := n + 1 })
          ∧ (128 * nblk ≤ n + 1 → a.loadErr = none → r'.sa k = some { passed a with load := 0 }))))
    ∧ (saFree s c r k a cmd 2 →
      (cmd.started = false → blkLogical a.afmt % blkLogical a.bfmt ≠ 0 → saThen (.mmul c k) s c k (failed 0x13))
      ∧ (cmd.started = false → blkLogical a.afmt % blkLogical a.bfmt = 0 →
          saThen (.mmul c k) s c k (on (fun a => { a with n := 0, ablk := [], rowK := [] })))
      ∧ (∀ tok ts, cmd.started = true → a.n % 128 ≠ 127 → endNow a s.fc (mcApm w) a.n (128 * mcKb w) = none →
          let p := (apmPorts (mcApm w)).getD (a.n % (apmPorts (mcApm w)).length) 3
          a.port p = tok :: ts → tok.kind = .data → tok.arr ≤ s.fc → (blkDecode a.afmt (laneBytes tok.lanes)).2 = false →
          saThen (.mmul c k) s c k
            { (a.setPort p ts) with n := a.n + 1, ablk := SMap.set a.ablk (a.n % 128) (laneBytes tok.lanes) }))
    ∧ (saFree s c r k a cmd 3 → cmd.started = false → let n := cmd.num.getD 0
      a.pairCancel.contains n = false → a.pairErr.contains n = false →
      (r.partner k = none → saThen (.mmulp c k) s c k { (failed 0x13) with pair := .errd })
      ∧ (∀ j o, r.partner k = some (j, o) → o.pairPlace n = none → a.pair ≠ .wait →
          saThen (.mmulp c k) s c k { a with pair := .wait, pairSince := cmd.readyAt })
      ∧ (∀ j o q code, r.partner k = some (j, o) → o.pairPlace n = some 0 → o.queue = [q] →
          (pairLate cmd q = true ∧ code = 0x31) ∨ (pairLate cmd q = false ∧ q.abt = false ∧ pairAgrees a o w q.w = false ∧ code = 0x13) →
          saThen (.mmulp c k) s c k { (failed code) with pair := .errd })
      ∧ (∀ j o q, r.partner k = some (j, o) → o.pairPlace n = some 0 → o.queue = [q] → pairLate cmd q = false → q.abt = true →
          ∃ t r', exec (.mmulp c k) s = .next t ∧ t.mem = s.mem ∧ (t.ctx c).region = some r'
            ∧ r'.sa k = some { passed a with pair := .cand } ∧ r'.sa j = some { passed o with pair := .cand })
      ∧ (∀ j o q, r.partner k = some (j, o) → o.pairPlace n = some 0 → o.queue = [q] → pairLate cmd q = false → q.abt = false →
          pairAgrees a o w q.w = true →
          ∃ t r', exec (.mmulp c k) s = .next t ∧ t.mem = s.mem ∧ (t.ctx c).region = some r'
            ∧ r'.sa k = some { a with queue := [{ cmd with started := true }], pair := .run, n := 0, ablk := [], rowK := [] }
            ∧ r'.sa j = some { o with queue := [{ q with started := true }], pair := .run, n := 0, ablk := [], rowK := [] })
      ∧ (a.pair = .wait → a.pairSince + 65536 ≤ s.fc → r.partner k = none →
          ∃ t r', exec (.pairTimeout c k) s = .next t ∧ t.mem = s.mem ∧ (t.ctx c).region = some r'
            ∧ r'.sa k = some { (failed 0x31) with pair := .errd })
      ∧ (s.fc < a.pairSince + 65536 → exec (.pairTimeout c k) s = .next s))
    ∧ (∀ op ∈ [4, 6], saFree s c r k a cmd op → let i : Instr := if op = 4 then .mread c k else .mrddiag c k
      (cmd.started = false → a.reader = false → saThen i s c k (failed 0x13))
      ∧ (cmd.started = false → a.reader = true → saThen i s c k (on (fun a => { a with quad := 0, beat := 0 })))
      ∧ (cmd.started = true → (if op = 6 then 8 else 1024) ≤ a.quad → a.accUe = [] →
          saThen i s c k { passed a with quad := 0, beat := 0 }))
    ∧ (saFree s c r k a cmd 5 → let b := bitsOf w 40 4
      (r.cbOf b).length < 4 →
      ∃ t r', exec (.mbar c k) s = .next t ∧ t.mem = s.mem ∧ (t.ctx c).region = some r'
        ∧ r'.sa k = some { a with queue := [], firstErr := none }
        ∧ r'.cbOf b = r.cbOf b ++ [match a.firstErr with
            | some e => e.kstep * 2 ^ 32 + e.mop * 2 ^ 24 + k * 2 ^ 16 + e.code * 2 ^ 8 + 1
            | none => k * 2 ^ 16]))
  ∧ (∀ (c : CtxId) (r : Region) (k port : Nat) (a : Sa) (tok : Token) (ts : List Token) (s : State),
      (s.ctx c).region = some r → r.sa k = some a → port < 3 → a.port port = tok :: ts → tok.kind ≠ .data → tok.arr ≤ s.fc →
      r.sealed = false → (s.die (dieOf c)).pmop = none → a.queue = [] → r.owesFirst k port = false →
      saThen (.aPortEos c k port) s c k (a.setPort port ts))
  ∧ (∀ (d : DieId) (g : BitVec 4) (since : Nat) (s : State), (s.die d).refresh = some since →
      let at' := (s.now - since) % 128000
      (8000 * g.toNat ≤ at' → at' < 8000 * g.toNat + 3000 →
        (g.toNat ∉ (s.die d).inRefresh → ∃ t, exec (.refreshWindowStart d g) s = .next t ∧ t.mem = s.mem
          ∧ (t.die d).inRefresh = (s.die d).inRefresh ++ [g.toNat])
        ∧ exec (.refreshWindowEnd d g) s = .next s)
      ∧ (at' < 8000 * g.toNat ∨ 8000 * g.toNat + 3000 ≤ at' →
        (∃ t, exec (.refreshWindowEnd d g) s = .next t ∧ t.mem = s.mem
          ∧ (t.die d).inRefresh = (s.die d).inRefresh.erase g.toNat)
        ∧ exec (.refreshWindowStart d g) s = .next s))

/-! ## The fabric -/

/-- R191, R195, R202, R204 to R210, R214: each computing operator fires once every input it uses holds a DATA token and its
links have room, and puts one DATA token of its result's lanes on every ROUTE link; on EOS at every input it emits EOS. The
lanes of the operators on bits, on I32 and on N32 are those of Table 8.5, reduced or clamped as R205 says, and PACK, UNPK, BCAST,
ROTL, SHUF, LANEID, RSUM, RMAX, RMIN, RSCAN and CVT give those of Table 8.7, R208 and R209. On F32 the statement says what
becomes of NaNs, infinities, zeros, signs and orders (R204, Tables 8.5, 8.6 and 8.9), that a nonzero exact result which is a
binary32 value is that value in every rounding mode, and R214's five examples; which neighbour an inexact result is
rounded to it does not say. Of R210 it has BF16 values, and NaNs. -/
def Obligations.FabricComputes : Prop :=
  (∀ row' ∈ [(Instr.fabricAdd, 0x01), (.fabricSub, 0x02), (.fabricMul, 0x03), (.fabricFma, 0x04), (.fabricFms, 0x05),
      (.fabricNeg, 0x06), (.fabricAbs, 0x07), (.fabricMin, 0x08), (.fabricMax, 0x09), (.fabricAnd, 0x0A), (.fabricOr, 0x0B),
      (.fabricXor, 0x0C), (.fabricNot, 0x0D), (.fabricShl, 0x0E), (.fabricShr, 0x0F), (.fabricSar, 0x10), (.fabricMulhi, 0x11),
      (.fabricCmpeq, 0x12), (.fabricCmpne, 0x13), (.fabricCmplt, 0x14), (.fabricCmple, 0x15), (.fabricClass, 0x16),
      (.fabricClamp, 0x17), (.fabricBcast, 0x18), (.fabricRsum, 0x19), (.fabricRmax, 0x1A), (.fabricRmin, 0x1B),
      (.fabricShuf, 0x1C), (.fabricRotl, 0x1D), (.fabricPack, 0x1E), (.fabricUnpk, 0x1F), (.fabricCadd, 0x20),
      (.fabricPopc, 0x21), (.fabricClz, 0x22), (.fabricRint, 0x23), (.fabricCopysign, 0x24), (.fabricLaneid, 0x25),
      (.fabricRscan, 0x26), (.fabricAbsdiff, 0x27), (.fabricCvt, 0x40), (.fabricCvtBf16, 0x41), (.fabricCvtFp16, 0x42),
      (.fabricCvtI8, 0x43), (.fabricExp2, 0x50), (.fabricRcp, 0x51), (.fabricRsq, 0x52), (.fabricSig, 0x53)],
    ∀ (c : CtxId) (col row : Nat) (r : Region) (st : Site) (s : State), siteReady s c col row row'.2 r st → cfgLt st.cfg ≠ 3 →
      let i := r.w * row + col
      let head (x : Nat) := r.head (fireEnv s c) i x
      let lanes (x : Nat) : List Nat := ((head x).getD (initToken st.cfg)).lanes.map (fun l => l.toNat)
      let live (x : Nat) : Prop := x < 3 ∧ cfgSel st.cfg x ≠ 0 ∧ cfgSel st.cfg x ≠ 9
      r.room (fireEnv s c) (r.routeKeys i) = true →
      ((∀ x, live x → ∃ t, head x = some t ∧ t.kind = .data) →
        emits (row'.1 c col row) s c r i .data ((computeLanes st.cfg (lanes 0) (lanes 1) (lanes 2)).map (BitVec.ofNat 32)))
      ∧ ((∃ x, live x) → (∀ x, live x → ∃ t, head x = some t ∧ t.kind = .eos) →
        emits (row'.1 c col row) s c r i .eos (List.replicate 16 0))
      ∧ (∀ x, live x → head x = none → (∀ y, live y → ∀ t, head y = some t → t.kind ≠ .eeos) →
        exec (row'.1 c col row) s = .next s))
  ∧ (∀ (w : Nat) (a b c : List (BitVec 32)), a.length = 16 → b.length = 16 → c.length = 16 →
      let l (f : List (BitVec 32)) : List Nat := f.map (fun v => v.toNat)
      let res := (computeLanes w (l a) (l b) (l c)).map (BitVec.ofNat 32)
      let k := cfgAux w % 16
      let sat := cfgSat w
      let sg := cfgLt w == 1
      let at' (f : List (BitVec 32)) (i : Nat) : BitVec 32 := f.getD i 0
      let int := cfgLt w = 1 ∨ cfgLt w = 2
      let fin (v : BitVec 32) : Prop := f32Exp v ≠ 255
      -- lane by lane
      (∀ i < 16, ∀ v, bitsSpec (cfgOp w) (at' a i) (at' b i) = some v → res[i]? = some v)
      ∧ (int → ∀ i < 16, ∀ v, intSpec sg sat (cfgOp w) (at' a i) (at' b i) (at' c i) = some v → res[i]? = some v)
      ∧ (cfgLt w = 0 → ∀ i < 16,
          (∀ v, floatSpec (cfgOp w) (at' a i) (at' b i) (at' c i) = some v → res[i]? = some v)
          ∧ (∀ q v, fin (at' a i) → fin (at' b i) → (f32Inputs (cfgOp w) = 3 → fin (at' c i)) →
              floatExact (cfgOp w) (at' a i) (at' b i) (at' c i) = some q → fin v → f32Value v = q → q ≠ 0 → res[i]? = some v)
          ∧ (cfgRm w = .rne → ∀ e ∈ [(0x50, 0xBFC00000#32, 0x3EB504F3#32), (0x51, 0x40400000#32, 0x3EAAAAAB#32),
              (0x52, 0x40800000#32, 0x3F000000#32), (0x53, 0#32, 0x3F000000#32), (0x53, 0x43480000#32, 0x3F800000#32)],
              cfgOp w = e.1 → at' a i = e.2.1 → res[i]? = some e.2.2))
      ∧ (cfgOp w = 0x40 → ∀ i < 16, let v := at' a i
          (int → (cfgMod w = 1 ∨ cfgMod w = 2) → res[i]? = some (BitVec.ofInt 32 (clampTo (cfgMod w == 1) 32 (laneInt sg v))))
          ∧ (int → cfgMod w = 0 → (v = 0 → res[i]? = some 0)
              ∧ ∀ d, fin d → f32Value d = laneInt sg v → v ≠ 0 → res[i]? = some d)
          ∧ (cfgLt w = 0 → cfgMod w = 0 → res[i]? = some (if f32IsNan v then 0x7FC00000 else v))
          ∧ (cfgLt w = 0 → (cfgMod w = 1 ∨ cfgMod w = 2) → (f32IsNan v = true → res[i]? = some 0)
              ∧ (f32IsInf v = true → res[i]? =
                  some (if cfgMod w = 1 then (if v.msb then 0x80000000 else 0x7FFFFFFF) else if v.msb then 0 else 0xFFFFFFFF))
              ∧ ∀ z : Int, fin v → f32Value v = z → res[i]? = some (BitVec.ofInt 32 (clampTo (cfgMod w == 1) 32 z))))
      -- lanes moved
      ∧ (cfgOp w = 0x18 → res = List.replicate 16 (at' a k))
      ∧ (cfgOp w = 0x1D → ∀ i < 16, res[i]? = a[(i + k) % 16]?)
      ∧ (cfgOp w = 0x1C → (cfgMod w = 1 → res = a.reverse) ∧ (cfgMod w = 2 → ∀ i < 16, res[i]? = a[i ^^^ 1]?)
          ∧ (cfgMod w = 3 → ∀ r < 4, ∀ q < 4, res[4 * r + q]? = a[4 * q + r]?)
          ∧ (cfgMod w = 0 → ∀ i < 8, res[i]? = a[((cfgConst w).extractLsb' (4 * i) 4).toNat]?
              ∧ res[8 + i]? = a[((BitVec.ofNat 32 (cfgAux w)).extractLsb' (4 * i) 4).toNat]?))
      ∧ (cfgOp w = 0x1E → (int ∨ (cfgLt w = 4 ∧ sat = false)) →
          (cfgMod w = 0 → let h := packSpec sat sg 16
            ∀ i < 8, res[i]? = some (h (at' a (2 * i)) ||| h (at' a (2 * i + 1)) <<< 16)
              ∧ res[8 + i]? = some (h (at' b (2 * i)) ||| h (at' b (2 * i + 1)) <<< 16))
          ∧ (cfgMod w = 1 → let h := packSpec sat sg 8
            let four (f : List (BitVec 32)) (i : Nat) : BitVec 32 := h (at' f (4 * i)) ||| h (at' f (4 * i + 1)) <<< 8
              ||| h (at' f (4 * i + 2)) <<< 16 ||| h (at' f (4 * i + 3)) <<< 24
            ∀ i < 4, res[i]? = some (four a i) ∧ res[4 + i]? = some (four b i) ∧ res[8 + i]? = some (four c i)
              ∧ res[12 + i]? = some 0))
      ∧ (cfgOp w = 0x1F → (cfgMod w = 0 → ∀ i < 16, res[i]? =
              some (unpackSpec sg 16 (at' a (8 * (cfgAux w % 2) + i / 2) >>> (16 * (i % 2)))))
          ∧ (cfgMod w = 1 → ∀ i < 16, res[i]? = some (unpackSpec sg 8 (at' a (4 * (cfgAux w % 4) + i / 4) >>> (8 * (i % 4))))))
      ∧ (cfgOp w = 0x25 → ∀ i < 16, res[i]? = some (at' a 0 + BitVec.ofNat 32 i))
      -- lanes combined
      ∧ (int → (cfgOp w = 0x19 → res = List.replicate 16 (a.foldl (· + ·) 0))
          ∧ (cfgOp w = 0x1A → ∃ m ∈ a, res = List.replicate 16 m ∧ ∀ v ∈ a, laneInt sg v ≤ laneInt sg m)
          ∧ (cfgOp w = 0x1B → ∃ m ∈ a, res = List.replicate 16 m ∧ ∀ v ∈ a, laneInt sg m ≤ laneInt sg v)
          ∧ (cfgOp w = 0x26 → ∀ i < 16,
            (cfgMod w = 0 → res[i]? = some ((a.take (i + 1)).foldl (· + ·) 0))
            ∧ (cfgMod w = 1 → ∃ m ∈ a.take (i + 1), res[i]? = some m ∧ ∀ v ∈ a.take (i + 1), laneInt sg v ≤ laneInt sg m)
            ∧ (cfgMod w = 2 → ∃ m ∈ a.take (i + 1), res[i]? = some m ∧ ∀ v ∈ a.take (i + 1), laneInt sg m ≤ laneInt sg v)))
      ∧ (cfgLt w = 0 → (cfgOp w = 0x1A ∨ cfgOp w = 0x1B) →
          ((∃ v ∈ a, f32IsNan v = true) → res = List.replicate 16 0x7FC00000)
          ∧ ((∀ v ∈ a, f32IsNan v = false) → ∃ m ∈ a, res = List.replicate 16 m
              ∧ ∀ v ∈ a, (if cfgOp w = 0x1A then f32Less m v else f32Less v m) = false))
      -- BF16 and NaNs of the narrow formats
      ∧ (cfgOp w = 0x41 → cfgMod w = 1 → ∀ i < 16, let h := at' a (8 * (cfgAux w / 256 % 2) + i / 2) >>> (16 * (i % 2))
          let v := h <<< 16
          res[i]? = some (if f32IsNan v then 0x7FC00000 else v))
      ∧ (cfgOp w = 0x41 → cfgMod w = 0 → ∀ i < 8, ∀ x y, x.setWidth 16 = 0#16 → y.setWidth 16 = 0#16 → f32IsNan x = false →
          f32IsNan y = false → (at' a (2 * i) = x → at' a (2 * i + 1) = y → res[i]? = some ((x >>> 16) ||| y))
          ∧ (at' b (2 * i) = x → at' b (2 * i + 1) = y → res[8 + i]? = some ((x >>> 16) ||| y)))
      ∧ ((cfgOp w = 0x41 ∨ cfgOp w = 0x42) → cfgMod w = 0 → ∀ i < 8, f32IsNan (at' a (2 * i)) = true → ∀ v, res[i]? = some v →
          v.setWidth 16 = (if cfgOp w = 0x41 then 0x7FC0#16 else 0x7E00#16)))


/-- R208 to R228: the other operators, each on DATA tokens at its inputs (the quads of CSV apart) with room on the links it
emits to. Selection, steering and merging follow the control value; CARRY, INVAR, CTR and ONCE move between their states; the
port operators move tokens between the region and the task's queues; SAFEED and SAREAD stand between links and an SA block;
TRACE writes its record and TRCNT counts. On quads (R58, R59, R196, R227), ADD emits the first beat of the sum with the fourth
pair of beats, NORM the lanes' values with the fourth beat. That a port of an SA has a path of two tokens, where SAFEED puts one,
and that a token stands in its queue in the fc of its push, are the model's choices (log 13). -/
def Obligations.FabricControls : Prop :=
  (∀ (c : CtxId) (col row op : Nat) (r : Region) (st : Site) (s : State), siteReady s c col row op r st → cfgLt st.cfg ≠ 3 →
    let i := r.w * row + col
    let env := fireEnv s c
    let keys := r.routeKeys i
    let aux := cfgAux st.cfg
    let ctl (t : Token) : Bool := (t.lane 0 != 0) != (cfgMod st.cfg % 2 == 1)
    let site' (r' : Region) (f : Site → Prop) : Prop := ∃ st', r'.site i = some st' ∧ f st'
    eeosAt env r i [0, 1, 2] = false → r.room env keys = true →
    -- operators of several inputs
    (∀ a b d, r.head env i 0 = some a → a.kind = .data → r.head env i 1 = some b → b.kind = .data →
      (r.head env i 2 = some d → d.kind = .data → cfgSel st.cfg 2 ≠ 0 →
        (op = 0x60 → emits (.fabricSel c col row) s c r i .data ((List.range 16).map (fun l =>
            if (d.lane l != 0) != (cfgMod st.cfg % 2 == 1) then a.lane l else b.lane l)))
        ∧ (op = 0x62 → emits (.fabricMerge c col row) s c r i .data (if ctl d then a.lanes else b.lanes)))
      ∧ (op = 0x61 → cfgSel st.cfg 0 ≠ 0 → cfgSel st.cfg 1 ≠ 0 →
          let mask := if ctl b then cfgRoute st.cfg else aux % 256
          let to' := ((List.range 8).filter (bitOf mask)).map (fun d => 9 * i + d)
          r.room env to' = true → ∃ r', fires (.fabricSteer c col row) s c r' ∧ newest r' to' .data a.lanes)
      ∧ (op = 0x66 → ctl b = true → emits (.fabricDrop c col row) s c r i .data a.lanes)
      ∧ (op = 0x66 → ctl b = false → ∃ r', fires (.fabricDrop c col row) s c r' ∧
          ∀ l ∈ keys, SMap.getD r'.links l [] = SMap.getD (r.take env i [0, 1]).links l [])
      ∧ (op = 0x68 → ∃ r', fires (.fabricEosgen c col row) s c r' ∧ newest r' keys .data a.lanes
          ∧ site' r' (fun st' => st'.outq = if ctl b then [Token.eos] else []))
      ∧ (op = 0x69 → st.held = [] → (∀ l < 16, ((b.lane l != 0) != (cfgMod st.cfg % 2 == 1)) = true) →
          emits (.fabricFilt c col row) s c r i .data ((List.range 16).map a.lane))
      ∧ (op = 0x64 → st.sub = 1 → ∀ h, st.held = [h] → ctl b = true → emits (.fabricInvar c col row) s c r i h.kind h.lanes))
    -- operators of one input
    ∧ (∀ a, r.head env i 0 = some a → a.kind = .data →
      (op = 0x63 → st.sub = 0 → ∃ r', fires (.fabricCarry c col row) s c r' ∧ newest r' keys .data a.lanes
          ∧ site' r' (fun st' => st'.sub = 1))
      ∧ (op = 0x64 → st.sub = 0 → st.held = [] → ∃ r', fires (.fabricInvar c col row) s c r'
          ∧ site' r' (fun st' => st'.sub = 1 ∧ st'.held.map (fun t => t.lanes) = [a.lanes]))
      ∧ (op = 0x65 → st.sub = 0 → cfgSel st.cfg 0 ≠ 0 → (a.lane 0).toNat ≠ 0 → (∀ b, r.head env i 1 = some b → b.kind = .data) →
          ∃ r', fires (.fabricCtr c col row) s c r' ∧ site' r' (fun st' => st'.sub = 1 ∧ st'.k = 0 ∧ st'.n = (a.lane 0).toNat))
      ∧ (op = 0x6A → cfgSel st.cfg 0 ≠ 0 → st.sub = 0 → ∃ r', fires (.fabricOnce c col row) s c r' ∧ newest r' keys .data a.lanes
          ∧ site' r' (fun st' => st'.sub = 2))
      ∧ (op = 0x67 → (s.die (dieOf c)).tren = false → ∃ r', fires (.fabricSink c col row) s c r'
          ∧ r'.links = (r.take env i [0]).links)
      ∧ (op = 0x90 → st.buf = [] → emits (.fabricBuf c col row) s c r i .data a.lanes)
      ∧ (op = 0x91 → emits (.fabricRoute c col row) s c r i .data a.lanes)
      ∧ (op = 0x48 → cfgMod st.cfg = 0 → ∀ l ls, sdbDecode (aux % 256) (laneBytes a.lanes)
            (if bitOf aux 8 then some (cfgConst st.cfg) else none) = (l :: ls, false) →
          emits (.fabricCvtSdbDecode c col row) s c r i .data l)
      ∧ (op = 0x48 → cfgMod st.cfg = 1 → blkTokens (aux % 256) ≤ st.buf.length + 1 →
          emits (.fabricCvtSdbEncode c col row) s c r i .data
            (bytesLanes (sdbEncode (aux % 256) ((st.buf ++ [a]).flatMap (fun t => t.lanes)))))
      ∧ (cfgSel st.cfg 0 ≠ 0 → cfgSel st.cfg 3 = 0 →
        (∀ k, (s.ctx c).queue (aux % 64) = some k →
          (op = 0x83 → ∃ hk, emits (.fabricQpeek c col row) s c r i .data
              (BitVec.ofNat 32 k.portTokens.length :: hk :: List.replicate 14 0)
            ∧ (∀ t ts, k.portTokens = t :: ts → t.kind = .data → hk = 0))
          ∧ (op = 0x81 ∨ op = 0x82 → (s.die (dieOf c)).tren = false → k.portTokens.length < 32 →
              let ins : Instr := if op = 0x81 then .fabricQpush c col row else .fabricBqpush c col row
              let x : Token := { a with mark := none, arr := s.fc }
              ∃ t, exec ins s = .next t ∧ t.mem = s.mem ∧ (t.ctx c).queue (aux % 64)
                = some (if k.ends = 0 && k.inward then { k with ctxQ := k.ctxQ ++ [x] } else { k with regQ := k.regQ ++ [x] })))
        ∧ (op = 0xC1 → (s.die (dieOf c)).tren = false → let base := (s.ctx c).sys.bbhbase
            let g := gaOf (base.toNat + 8 * (aux % 256))
            (base = 0 → ∃ r', fires (.fabricTrcnt c col row) s c r')
            ∧ (base ≠ 0 → (∀ e ∈ (s.core (coreOf c)).cc, e.ga ≠ g) → (s.core (coreOf c)).cc.length < 256 →
              ∃ t, exec (.fabricTrcnt c col row) s = .next t ∧ t.mem = s.mem
                ∧ (t.core (coreOf c)).cc = (s.core (coreOf c)).cc
                    ++ [⟨g, 1, s.now, (s.core (coreOf c)).ccSeq, (s.ctx c).sys.asid, false⟩]))
        ∧ (op = 0xC0 → let d := s.die (dieOf c)
            let g := d.trbase + d.trhead % d.trsize
            (d.tren = false → ∃ r', fires (.fabricTrace c col row) s c r')
            ∧ (∀ tk, d.tren = true → d.trsize ≠ 0 → d.trstop = false → a.mark = none → a.lanes.length = 16 →
              (s.ctx c).task = some tk → writable s (pkgOf (dieOf c)) tk.asid g 64 → untracked s tk.asid g → still s →
              ∃ t, exec (.fabricTrace c col row) s = .next t ∧ t.mem = Mem.setBytes s.mem g (admitRecord r env i a)
                ∧ (t.die (dieOf c)).trhead = (d.trhead + 64) % 2 ^ 64)))
      ∧ (op = 0xA1 → (s.die (dieOf c)).tren = false → ∀ sa, let p := bitsOf aux 6 2
          r.sa (aux % 64) = some sa → (sa.port p).length < 2 →
          ∃ r', fires (.fabricSafeed c col row) s c r'
            ∧ r'.sa (aux % 64) = some (sa.setPort p (sa.port p ++ [{ a with mark := none, arr := s.fc + 1 }]))))
    -- operators that wait for no link
    ∧ (op = 0x65 → st.sub = 1 → st.k < st.n → st.fsp = true → cfgSel st.cfg 1 = 0 → (∀ l, st.last = some l → l + aux % 256 ≤ s.fc) →
        ∃ r', fires (.fabricCtr c col row) s c r'
          ∧ newest r' keys .data (BitVec.ofNat 32 (b2n (decide (st.k + 1 < st.n))) :: BitVec.ofNat 32 (b2n (st.k == 0))
              :: BitVec.ofNat 32 (b2n (st.k + 1 == st.n))
              :: List.replicate 13 (BitVec.ofInt 32 ((st.k : Int) * (BitVec.ofNat 8 (bitsOf aux 8 8)).toInt)))
          ∧ site' r' (fun st' => st'.k = st.k + 1))
    ∧ (op = 0x80 → ∀ k a ts, (s.ctx c).queue (aux % 64) = some k → k.inward = false → k.regQ = a :: ts → a.kind = .data →
        a.arr ≤ s.fc → ∃ r' t, exec (.fabricQpop c col row) s = .next t ∧ t.mem = s.mem ∧ (t.ctx c).region = some r'
          ∧ newest r' keys .data a.lanes ∧ (t.ctx c).queue (aux % 64) = some { k with regQ := ts }))
  ∧ (∀ (c : CtxId) (col row op : Nat) (r : Region) (st : Site) (s : State), siteReady s c col row op r st → cfgLt st.cfg = 3 →
    let i := r.w * row + col
    let env := fireEnv s c
    r.room env (r.routeKeys i) = true →
    (∀ a b, op = 0x01 → cfgSel st.cfg 2 = 0 → cfgSel st.cfg 0 ≠ 0 → cfgSel st.cfg 1 ≠ 0 → r.head env i 0 = some a → a.kind = .csv →
      r.head env i 1 = some b → b.kind = .csv → st.buf.length = 6 →
      let l := st.buf ++ [a, b]
      let half (o : Nat) : Quad := csvQuad ((List.range 4).map (fun n => ((l[2 * n + o]?).getD Token.eos).lanes))
      emits (.fabricAdd c col row) s c r i .csv (((half 0).reduce (half 1)).beats.getD 0 []))
    ∧ (∀ a, op = 0xA3 → r.head env i 0 = some a → a.kind = .csv → st.buf.length = 3 →
      emits (.fabricNorm c col row) s c r i .data
        ((List.range 16).map (csvQuad ((st.buf ++ [a]).map (fun t => t.lanes))).norm))
    ∧ (∀ a cmd, op = 0xA2 → r.sa (cfgAux st.cfg % 64) = some a → a.eosDue = false → a.queue = [cmd] → cmd.started = true →
      bitsOf cmd.w 0 4 = 4 ∨ bitsOf cmd.w 0 4 = 6 → a.quad < readQuads cmd.w → a.beat < 4 →
      ∃ r', fires (.fabricSaread c col row) s c r'
        ∧ newest r' (r.routeKeys i) .csv ((a.readQuad cmd.w a.quad).beats.getD a.beat [])
        ∧ r'.sa (cfgAux st.cfg % 64) = some { a with
            beat := (a.beat + 1) % 4, quad := if a.beat = 3 then a.quad + 1 else a.quad
            eosDue := decide (a.beat = 3 ∧ a.quad + 1 = readQuads cmd.w) && a.eosAfter }))

/-! ## Tasks, channels and progress -/

/-- R113, R114, R116 to R119, R250: the words of tasks and channels. Model's choices: LAUNCH reads its tables at acceptance
(log 55), answers the first of DESCBAD, ASIDBAD and QFULL (log 56), ENDT waits for what the context began in a fixed order (log
61), and which sender of one cc keeps the last place of an inbox, or gives it up (log 115). -/
def Obligations.TaskWords : Prop :=
  ∀ (p : Pred) (d a b : BitVec 5) (hb : BitVec 4) (n : BitVec 8) (s : State), Issues s p →
    let v := (s.x a).toNat
    let k := v / 64 % 2 ^ 14
    let ch := v % 64
    let e := (s.core k).chan ch
    let gone := pkgGone s (pkgOf s.myDie) (pkgOf (dieOfCore k)) = true ∨ (s.core k).started = false
    -- SENDW
    (2 ^ 20 ≤ v → exec (.sendw p a b) s = .next (trap s 0x13 v))
    ∧ (v < 2 ^ 20 → s.me.sys.pl = false → 1 ≤ ch → ch ≤ 7 → exec (.sendw p a b) s = .next (trapWord s 0x03 (.sendw p a b)))
    ∧ (v < 2 ^ 20 → (s.me.sys.pl = true ∨ ch = 0 ∨ 7 < ch) →
      (gone → exec (.sendw p a b) s = .next (trap s 0x51 v))
      ∧ (¬gone → settled s →
        (e.en = false → ∃ t, exec (.sendw p a b) s = .next (retire t 4) ∧ t.me = s.me ∧ t.mem = s.mem ∧ t.cores = s.cores)
        ∧ (e.en = true → (s.ctx (16 * k + e.ctx)).task = none →
          let w := (s.x b).setWidth 32
          (e.inbox.length < 4 → ∃ t, exec (.sendw p a b) s = .next (retire t 4) ∧ t.me = { s.me with sent := some s.me.blk }
            ∧ t.mem = s.mem ∧ inboxTakes e ((t.core k).chan ch) s.now (coreId s s.cur) w
            ∧ ∀ j c, (j ≠ k ∨ c ≠ ch) → (t.core j).chan c = (s.core j).chan c)
          ∧ (4 ≤ e.inbox.length → e.lateAt ≠ s.now → s.me.wait = none → ∃ t, exec (.sendw p a b) s = .next t ∧ t.mem = s.mem
            ∧ t.me.wait = some ⟨.sendFull k ch w, s.now⟩ ∧ t.me.blk = s.me.blk ∧ t.cores = s.cores)
          -- a word that a sender of a higher number put there in this cc goes back to it
          ∧ (∀ s1, 4 ≤ e.inbox.length → giveWay s k ch (coreId s s.cur) = some s1 →
            ((s1.core k).chan ch).inbox = e.inbox.dropLast
            ∧ ∃ t, exec (.sendw p a b) s = .next t ∧ t.mem = s.mem
              ∧ inboxTakes ((s1.core k).chan ch) ((t.core k).chan ch) s.now (coreId s s.cur) w))))
    -- WAITCH
    ∧ (s.me.chan = none → exec (.waitch p d) s = .next (trapWord s 0x01 (.waitch p d)))
    ∧ (∀ c, s.me.chan = some c → let own := (s.core s.myCore).chan c
        (own.inbox = [] → s.me.wait = none → ∃ t, exec (.waitch p d) s = .next t ∧ t.mem = s.mem
          ∧ t.me.wait = some ⟨.inbox, s.now⟩ ∧ t.me.blk = s.me.blk)
        ∧ (∀ w ws, own.inbox = w :: ws → firstSending s s.myCore c = none → (∀ x ∈ s.dies, x.2.words = []) →
          ∃ t, exec (.waitch p d) s = .next (finish t 4 1 (.x d.toNat (w.setWidth 64))) ∧ t.me = s.me ∧ t.mem = s.mem
            ∧ (t.core s.myCore).chan c = { own with inbox := ws } ∧ (t.core s.myCore).si = [])
        -- the word of a sender that waits takes the place
        ∧ (∀ w ws o t0 v, own.inbox = w :: ws → firstSending s s.myCore c = some (o, t0, v) → o ≠ s.cur →
          ∃ t, exec (.waitch p d) s = .next (finish t 4 1 (.x d.toNat (w.setWidth 64))) ∧ t.me = s.me ∧ t.mem = s.mem
            ∧ inboxTakes { own with inbox := ws } ((t.core s.myCore).chan c) s.now (coreId s o) v
            ∧ (t.ctx o).wait = none ∧ (t.ctx o).stepNo = (s.ctx o).stepNo + 1))
    -- YIELD: the next choice of its priority begins after it
    ∧ (∃ t, exec (.yield p) s = .next (retire t 4) ∧ t.me = s.me ∧ t.mem = s.mem
        ∧ SMap.find (t.core s.myCore).lastIss s.me.sys.pri = some (s.cur % 16))
    -- BARV and BARW
    ∧ ((2 ^ 24 ≤ v ∨ s.me.task = none) →
        exec (.barv p a) s = .next (trap s 0x13 v) ∧ exec (.barw p a) s = .next (trap s 0x13 v))
    ∧ (∀ tk, s.me.task = some tk → v < 2 ^ 24 →
      (tk.bars[v % 256]? = none → exec (.barv p a) s = .next (trap s 0x13 v) ∧ exec (.barw p a) s = .next (trap s 0x13 v))
      ∧ (∀ slot bar, tk.bars[v % 256]? = some slot → SMap.find (s.die s.myDie).bars slot = some bar →
        let phase := v / 256 % 2 ^ 16
        ((phase ≠ bar.phase ∨ bitOf bar.arrived tk.tidx = true) → exec (.barv p a) s = .next (trap s 0x13 v))
        ∧ (phase = bar.phase → bitOf bar.arrived tk.tidx = false → settled s →
          ∃ t, exec (.barv p a) s = .next (retire t 4) ∧ t.me = s.me ∧ t.mem = s.mem
            ∧ SMap.find (t.die s.myDie).bars slot = some
                (if bar.count + 1 = bar.expected then { bar with count := 0, arrived := 0, phase := (bar.phase + 1) % 2 ^ 16 }
                 else { bar with count := bar.count + 1, arrived := bar.arrived ||| 2 ^ tk.tidx }))
        ∧ (phase = bar.phase → s.me.wait = none → ∃ t, exec (.barw p a) s = .next t ∧ t.mem = s.mem
            ∧ t.me.wait = some ⟨.barw slot bar.phase, s.now⟩ ∧ t.me.blk = s.me.blk)
        ∧ (phase ≠ bar.phase → ∃ t, exec (.barw p a) s = .next (retire t 4) ∧ t.me = s.me ∧ t.mem = s.mem
            ∧ (t.core s.myCore).si = [])))
    -- BBH
    ∧ (s.me.sys.bbhbase = 0 → exec (.bbh p n) s = .next (retire s 4))
    ∧ (s.me.sys.bbhbase ≠ 0 → let g := (s.me.sys.bbhbase.toNat + 8 * n.toNat) % 2 ^ 56
        let k := s.core s.myCore
        (k.cc = [] → ∃ t, exec (.bbh p n) s = .next (retire t 4) ∧ t.me = s.me ∧ t.mem = s.mem
          ∧ (t.core s.myCore).cc = [⟨g, 1, s.now, k.ccSeq, s.me.sys.asid, false⟩])
        ∧ (∀ c, k.cc = [c] → c.ga = g → 0 < c.delta → c.delta + 2 < 2 ^ 32 →
          ∃ t, exec (.bbh p n) s = .next (retire t 4) ∧ t.me = s.me ∧ t.mem = s.mem
            ∧ (t.core s.myCore).cc = [{ c with delta := c.delta + 1, used := k.ccSeq, asid := s.me.sys.asid }]))
    -- ENDT
    ∧ (s.me.wait = none → settled s → s.me.d = [] → (∀ m ∈ (s.core s.myCore).copies, m.owner ≠ s.cur) →
        ∃ t, exec (.endt p) s = .next t ∧ t.mem = s.mem ∧ t.me.run = false ∧ t.me.ended = s.me.task.isSome ∧ t.me.h = []
          ∧ t.me.s = [] ∧ t.me.f = [] ∧ t.me.y = [] ∧ t.me.rg = none ∧ t.me.sys = s.me.sys
          ∧ (s.me.ending = true → ∀ tk r, s.me.task = some tk → tk.sliceDone = false → tk.region = some r →
              ∃ r', (t.ctx s.cur).region = some r' ∧ r'.sealed = true))
    -- LAUNCH
    ∧ (let h := s.me.getH hb.toNat
       let off := s.x a
       (h.v = false → exec (.launch p d a hb) s = .next (trap s 0x12 hb.toNat))
       ∧ (h.v = true → gaSpace h.gbase ≠ 7 → off.toNat % 64 ≠ 0 → exec (.launch p d a hb) s = .next (trap s 0x14 off.toNat))
       ∧ (∀ g, checkRead h hb.toNat off 128 false = .ok g → gaSpace h.gbase = 7 →
          exec (.launch p d a hb) s = .next (trap s (if s.me.sys.pl then 0x14 else 0x51) g))
       ∧ (∀ g, checkRead h hb.toNat off 128 false = .ok g → gaSpace h.gbase ≠ 7 → off.toNat % 64 = 0 → settled s →
          reaches s (.load s.me.sys.pl) false g 128 → prepared s g = false → quiet s →
          let s1 := drain s s.cur
          let bs := s.bytesAt g 128
          (∀ w, firstOwned s (launchGas s bs) = some w → exec (.launch p d a hb) s = .next (waitFor s w))
          ∧ (firstOwned s (launchGas s bs) = none →
          (descFieldsOk bs s.me.sys.pl = false → ∃ t, exec (.launch p d a hb) s = .next (finish t 4 1 (.x d.toNat 2))
            ∧ t.me = s.me ∧ t.mem = s.mem ∧ (t.die s.myDie).launches = (s.die s.myDie).launches)
          ∧ (∀ l, readLaunch s1 bs = some l → admits s1 s.myDie l = false →
            ∃ t, exec (.launch p d a hb) s = .next (finish t 4 1 (.x d.toNat 2))
              ∧ t.me = s.me ∧ t.mem = s.mem ∧ (t.die s.myDie).launches = (s.die s.myDie).launches)
          ∧ (∀ l, readLaunch s1 bs = some l → admits s1 s.myDie l = true →
            (s.me.sys.pl = false → l.asid ≠ s.me.sys.asid → ∃ t, exec (.launch p d a hb) s = .next (finish t 4 1 (.x d.toNat 3))
              ∧ t.me = s.me ∧ t.mem = s.mem ∧ (t.die s.myDie).launches = (s.die s.myDie).launches)
            ∧ ((s.me.sys.pl = true ∨ l.asid = s.me.sys.asid) →
                16 ≤ ((s.die s.myDie).launches.filter (fun m => decide (m.next < m.groups))).length →
              ∃ t, exec (.launch p d a hb) s = .next (finish t 4 1 (.x d.toNat 1))
                ∧ t.me = s.me ∧ t.mem = s.mem ∧ (t.die s.myDie).launches = (s.die s.myDie).launches)
            ∧ ((s.me.sys.pl = true ∨ l.asid = s.me.sys.asid) →
                ((s.die s.myDie).launches.filter (fun m => decide (m.next < m.groups))).length < 16 →
              let num := ((s.die s.myDie).nextLaunch + 1) % 2 ^ 32
              ∃ t, exec (.launch p d a hb) s = .next (finish t 4 1 (.x d.toNat (wordOf (num * 2 ^ 32))))
                ∧ t.me = s.me ∧ t.mem = s.mem
                ∧ (t.die s.myDie).launches = (s.die s.myDie).launches ++ [{ l with num := num }]
                ∧ l.gx = s.peek g 2 ∧ l.gy = s.peek (g + 2) 2 ∧ l.gz = s.peek (g + 4) 2 ∧ l.asid = s.peek (g + 10) 2
                ∧ l.entry = s.peek (g + 16) 8 ∧ l.next = 0 ∧ l.finished = 0)))))

/-- R34, R146, R247, R248, R254, R257 to R261, R266, R269, R401: what happens to tasks, channels and contexts of itself. Model's
choices: where a word that no context sends stands in an inbox (log 115), and the overflow bit of a watch register (log 102). -/
def Obligations.TaskEvents : Prop :=
  -- words and runs of handlers
  (∀ (k : CoreId) (ch : BitVec 6) (w : Lane) (s : State), let e := (s.core k).chan ch.toNat
    (e.en = false → exec (.channelWordArrival k ch w) s = .next s)
    ∧ ((s.core k).started = true → e.en = true → (s.ctx (16 * k + e.ctx)).task = none → e.inbox.length < 4 →
      ∃ t, exec (.channelWordArrival k ch w) s = .next t ∧ inboxTakes e ((t.core k).chan ch.toNat) s.now (2 ^ 25) w
        ∧ t.mem = s.mem ∧ t.ctxs = s.ctxs))
  ∧ (∀ (k : CoreId) (i : BitVec 4) (s : State), let c := 16 * k + i.toNat
    ((s.ctx c).run = true → exec (.handlerStart k i) s = .next s)
    ∧ ((s.ctx c).run = false → (s.ctx c).task = none → (s.core k).started = true → ∀ ch < 64,
        let e := (s.core k).chan ch
        e.en = true → e.msk = false → e.inbox ≠ [] → e.ctx = i.toNat →
        (∀ o < 64, o ≠ ch → let f := (s.core k).chan o
          f.en = false ∨ f.msk = true ∨ f.inbox = [] ∨ f.ctx ≠ i.toNat ∨ f.prio < e.prio) →
        ∃ t, exec (.handlerStart k i) s = .next t ∧ beginsAt s t c e.addr ∧ (t.ctx c).chan = some ch
          ∧ (t.ctx c).sys.pri = e.prio ∧ (t.ctx c).sys.asid = e.asid
          ∧ ((t.ctx c).trapDepth = 0 → (t.ctx c).sys.pl = e.pls ∧ (t.ctx c).sys.ie = true)))
  ∧ (∀ (k : CoreId) (ch : BitVec 6) (v : Word) (s : State), let e := (s.core k).chan ch.toNat
    (∃ t, exec (.handlerTableWrite k ch false v) s = .next t ∧ (t.core k).chan ch.toNat = { e with addr := v.toNat % 2 ^ 56 }
      ∧ t.dies = s.dies ∧ t.mem = s.mem)
    ∧ ∃ t, exec (.handlerTableWrite k ch true v) s = .next t ∧ t.mem = s.mem
      ∧ (t.core k).chan ch.toNat = { e with en := v.getLsbD 63, msk := v.getLsbD 62, prio := (v.extractLsb' 59 3).toNat
                                            ctx := (v.extractLsb' 55 4).toNat, pls := v.getLsbD 54
                                            asid := (v.extractLsb' 32 15).toNat }
      ∧ (v.getLsbD 63 = false → ∀ x ∈ t.dies, ∀ w ∈ x.2.words, ¬(w.1 / 64 % 2 ^ 14 = k ∧ w.1 % 64 = ch.toNat))
      ∧ (v.getLsbD 63 = false → ∀ c w t0, (s.ctx c).wait = some ⟨.sendFull k ch.toNat w, t0⟩ → (s.ctx c).desched = false →
          (t.ctx c).wait = none ∧ (t.ctx c).stepNo = (s.ctx c).stepNo + 1))
  -- a group of one task, without a region, is placed on the next core in turn
  ∧ (∀ (d : DieId) (l : Launch) (ac i : Nat) (s : State), let x := s.die d
    let k := 64 * d + ac
    let c := 16 * k + i
    x.started = true → x.resHold = none → x.words = [] → x.pmop = none → x.launches = [l] → l.resident = true → l.image = [] →
    l.bx = 1 → l.by' = 1 → l.bz = 1 → l.next < l.gx * l.gy * l.gz → l.nbar = 0 → l.spq ≤ 64 →
    ac = (x.rrptr + 1) % 64 → (s.core k).started = true → (∀ e ∈ s.ctxs, coreOf e.1 = k → e.2.task = none) →
    i < 16 → (s.ctx c).run = false → (s.ctx c).task = none → reserved s k i = false →
    (∀ j < i, reserved s k j = true ∨ (s.ctx (16 * k + j)).run = true) →
    ∃ t tk, exec (.groupPlace d) s = .next t ∧ beginsAt s t c l.entry ∧ (t.ctx c).task = some tk ∧ tk.launch = l.num
      ∧ tk.tidx = 0 ∧ tk.tx = l.next % l.gx ∧ tk.ty = l.next / l.gx % l.gy ∧ tk.tz = l.next / (l.gx * l.gy)
      ∧ tk.banks = List.range l.spq ∧ tk.region = none ∧ (t.ctx c).sys.pri = l.prio ∧ (t.ctx c).sys.asid = l.asid
      ∧ (t.die d).rrptr = ac ∧ (t.die d).launches = [{ l with next := l.next + 1 }])
  -- and completes
  ∧ (∀ (c : CtxId) (s : State),
    ((s.ctx c).ended = false → exec (.taskComplete c) s = .next s)
    ∧ (∀ tk l, (s.ctx c).task = some tk → (s.ctx c).ended = true → tk.region = none → (s.ctx c).desched = false →
        (s.die (dieOf c)).pmop = none → (s.die tk.hdie).launches = [l] → l.num = tk.launch → l.gone = false →
      ∃ t, exec (.taskComplete c) s = .next t ∧ t.mem = s.mem ∧ (t.ctx c).task = none ∧ (t.ctx c).run = false
        ∧ (t.ctx c).ended = false ∧ (∀ r, (t.ctx c).getX r = 0)
        ∧ (l.finished + 1 < l.gx * l.gy * l.gz → (t.die tk.hdie).launches =
            [{ l with finished := l.finished + 1, bad := l.bad || (s.ctx c).ending }])
        ∧ (l.gx * l.gy * l.gz ≤ l.finished + 1 → l.pins = [] → (t.die tk.hdie).launches = []
          ∧ ∀ addr, l.done = some addr → let k := addr / 64 % 2 ^ 14
            let e := (s.core k).chan (addr % 64)
            pkgGone s (pkgOf tk.hdie) (pkgOf (dieOfCore k)) = false → (s.core k).started = true → e.en = true →
            (s.ctx (16 * k + e.ctx)).task = none → e.inbox.length < 4 →
            inboxTakes e ((t.core k).chan (addr % 64)) s.now (2 ^ 25)
              (BitVec.ofNat 32 ((if l.bad || (s.ctx c).ending then 2 else 0) * 2 ^ 28 + l.num % 2 ^ 28)))))
  -- chains
  ∧ (∀ (c o : CtxId) (e f : Nat) (k q : Queue) (s : State), (s.ctx c).queue e = some k → farEnd s c e = some (o, f) →
    (s.ctx o).queue f = some q →
    (∃ x ∈ s.ctxs, x.1 = o ∧ dieOf o = k.cdie ∧ (o, f) ≠ (c, e) ∧ q.ckey = k.ckey ∧ q.cdie = dieOf c ∧ q.inward ≠ k.inward)
    ∧ (k.ends = 2 → q.ends = 2 → k.inward = false → q.cut = false → frozen s c = false →
        tailAhead s c k = false → pkgGone s (pkgOf (dieOf c)) (pkgOf k.cdie) = false →
      (32 ≤ q.ctxQ.length → exec (.chainToken c e) s = .next s)
      ∧ (∀ a ts, k.ctxQ = a :: ts → q.ctxQ.length < 32 →
        ∃ t, exec (.chainToken c e) s = .next t ∧ t.mem = s.mem ∧ (t.ctx c).queue e = some { k with ctxQ := ts }
          ∧ (t.ctx o).queue f = some { q with ctxQ := q.ctxQ ++ [{ a with arr := s.fc + 1 }] })))
  -- progress
  ∧ (∀ (d : DieId) (asid : BitVec 16) (s : State), let x := s.die d
    let last := max (SMap.getD x.lastMove asid.toNat 0) (SMap.getD x.lastBusy asid.toNat 0)
    (s.fc < last + 4096 → exec (.quietWindowComplete d asid) s = .next s)
    ∧ (∀ c slot phase t0, last + 4096 ≤ s.fc → jobContexts s d asid.toNat = [c] → dieOf c = d →
        (s.ctx c).wait = some ⟨.barw slot phase, t0⟩ → runnable s c = false → (s.ctx c).trapDepth = 0 → (s.ctx c).ended = false →
        (s.ctx c).region = none → (s.ctx c).desched = false → windowUsed x 0 = false → noCommands s c → chainAble s c = false →
      ∃ l, l.length = 32 ∧ l.getD 1 0 = 2 ^ 40 + 2 ^ 39 ∧ l.getD 2 0 = s.now % 2 ^ 64
        ∧ exec (.quietWindowComplete d asid) s = .next
          ((trapEntry (s.modDie d (fun y => { y with windows := SMap.set y.windows 0 l })) c 0x40 0 false false).modDie d
            (fun y => { y with lastBusy := SMap.set y.lastBusy asid.toNat s.fc }))))
  ∧ (∀ (c : CtxId) (q t0 : Nat) (e : End) (tk : Task) (s : State), let x := s.ctx c
    let thr := x.sys.lodthr.toNat
    x.wait = some ⟨.qEmpty q, t0⟩ → x.endOf q = some e → e.1.dir = .inn → e.2.ends = 0 → x.task = some tk →
    ((s.now ≤ t0 + thr % 2 ^ 32 ∨ x.lodSeen = true) → exec (.lodEvent c) s = .next s)
    ∧ (t0 + thr % 2 ^ 32 < s.now → thr % 2 ^ 32 ≠ 0 → x.lodSeen = false → x.desched = false → starved s c = true →
      let s1 := s.modCtx c (fun y => { y with lodSeen := true
                                              task := y.task.map (fun u => { u with lodcnt := satAdd 32 u.lodcnt 1 }) })
      (s1.ctx c).task = some { tk with lodcnt := satAdd 32 tk.lodcnt 1 }
      ∧ exec (.lodEvent c) s = .next (if thr < 2 ^ 63 then s1 else trapEntry s1 c 0x21 q false false)))
  ∧ (∀ (k : CoreId) (i : Nat) (e : CcEntry) (s : State), (s.core k).cc[i]? = some e →
    (s.now < e.first + 128000 → e.owed = false → exec (.counterCacheTimeout k i) s = .next s)
    ∧ (e.first + 128000 ≤ s.now → e.delta ≠ 0 → writable s (pkgOf (dieOfCore k)) e.asid e.ga 8 →
        untracked s e.asid e.ga → still s →
      ∃ t, exec (.counterCacheTimeout k i) s = .next t ∧ t.mem = Mem.write s.mem e.ga 8 (s.peek e.ga 8 + e.delta)
        ∧ (t.core k).cc[i]? = some { e with delta := 0, owed := false }))
  -- watch reports
  ∧ (∀ (c : CtxId) (n : BitVec 2) (m : WatchHit) (l : List WatchHit) (s : State), s.hits = m :: l → m.ctx = c → m.n = n.toNat →
    ∃ t, exec (.watchReportLatch c n) s = .next t ∧ t.mem = s.mem ∧ t.hits = l
      ∧ (SMap.find (s.ctx c).wreport n.toNat = none → SMap.find (t.ctx c).wreport n.toNat = some (wordOf m.eva)
          ∧ (t.ctx c).sys = (s.ctx c).sys)
      ∧ (∀ w, SMap.find (s.ctx c).wreport n.toNat = some w → SMap.find (t.ctx c).wreport n.toNat = some w
          ∧ [(t.ctx c).sys.watch0, (t.ctx c).sys.watch1, (t.ctx c).sys.watch2, (t.ctx c).sys.watch3][n.toNat]!.getLsbD 62 = true))
  ∧ (∀ (c : CtxId) (n : Nat) (w : Word) (l : SMap Word) (s : State), let x := s.ctx c
    x.wreport = (n, w) :: l →
    (x.sys.ie = false → exec (.watchReportTake c) s = .next s)
    ∧ (x.run = true → x.stopped = false → x.ended = false → x.desched = false → x.held = none → x.sys.ie = true →
        (x.wait = none → x.imx = []) → (∀ v, x.wait = some v → v.kind.abandoned = true) →
      ∃ y, y.sys = x.sys ∧ SMap.find y.wreport n = none
        ∧ exec (.watchReportTake c) s = .next (trapEntry (s.modCtx c (fun _ => y)) c 0x28 w.toNat false false)))

/-! ## Pre-emption and the agents of a die -/

/-- R312 to R314, R319, R320, R387: what PMCTL answers, how the contexts of a group stop, and when the group is saved. What an
image holds is not said here. Model's choices: a freeze stops a context before its next word (log 36), an image area that cannot
be reached reads BADIMG (log 38), a group that has gone reads NOGROUP or BADIMG (log 90). -/
def Obligations.Preemption : Prop :=
  ∀ (d : DieId) (s : State), let x := s.die d
    -- refusals of PREEMPT and FREEZE
    (x.started = true → x.pmop = none → ∀ i ∈ [Instr.pmctlPreempt d, .pmctlFreeze d],
      ((∀ e ∈ s.ctxs, dieOf e.1 = d → ∀ t, e.2.task = some t → t.launch = x.pmlnch → t.group ≠ x.pmgidx) →
        exec i s = .next (s.modDie d (fun k => { k with pmstat := 9 })))
      ∧ (namedGroup s d ≠ none → 256 ≤ x.saved.length → exec i s = .next (s.modDie d (fun k => { k with pmstat := 10 })))
      ∧ (namedGroup s d ≠ none → x.saved.length < 256 → x.pmimg % 4096 ≠ 0 →
          exec i s = .next (s.modDie d (fun k => { k with pmstat := 8 }))))
    -- a context in a block is asked by PREEMPT to stop at the block's edge, and stopped by FREEZE before its next word
    ∧ (∀ c y tk, namesOnly s d c y tk → x.started = true → x.pmop = none → x.saved.length < 256 → x.pmimg % 4096 = 0 →
        fenced s (pkgOf d) .engine x.pmimg (pmisz s d * max 1 (groupSize s tk.hdie tk.launch tk.group)) = false →
        y.run = true → y.stopped = false → y.wait = none → y.held = none → y.imx = [] → y.desched = false → y.sbuf = [] → y.pend = [] →
        (∀ e ∈ s.cores, ∀ q ∈ e.2.deltas, ∀ w ∈ q.who, w.1 ≠ c) →
      (∃ t, exec (.pmctlPreempt d) s = .next t ∧ t.mem = s.mem ∧ (t.die d).pmstat = 1 ∧ (t.ctx c).x = y.x
        ∧ (t.ctx c).blk = y.blk ∧ (t.ctx c).desched = false ∧ (t.ctx c).preempt = true)
      ∧ (∃ t, exec (.pmctlFreeze d) s = .next t ∧ t.mem = s.mem ∧ (t.die d).pmstat = 1 ∧ (t.ctx c).x = y.x
        ∧ (t.ctx c).blk = y.blk ∧ (t.ctx c).desched = true ∧ frozen t c = true))
    -- the edge: the end of an iteration, or a taken transfer or RETH
    ∧ (∀ c x0 o, dieOf c = d → x.pmop = some o → o.freeze = false → let y := s.ctx c
        y.preempt = true → y.desched = false → y.run = true → y.stopped = false → y.wait = none → y.held = none → y.imx = [] →
        y.sbuf = [] → y.pend = [] →
      (y.trapDepth ≤ x0.trapDepth → (y.blk.iter ≠ x0.blk.iter ∨ y.trapDepth < x0.trapDepth ∨ y.blk.entering = true) →
        ((preemptCheck x0 s c).ctx c).desched = true ∧ ((preemptCheck x0 s c).ctx c).blk = y.blk)
      ∧ ((x0.trapDepth < y.trapDepth ∨ (y.blk.iter = x0.blk.iter ∧ y.trapDepth = x0.trapDepth ∧ y.blk.entering = false)) →
        preemptCheck x0 s c = s))
    -- the end of the drain, its deadline, and the end of a freeze
    ∧ (∀ c y tk o, s.ctxs = [(c, y)] → dieOf c = d → y.task = some tk → x.pmop = some o → o.resume = false →
        o.launch = tk.launch → o.hdie = tk.hdie → o.group = tk.group →
      let saves (i : Instr) (code : Nat) : Prop := ∃ t, exec i s = .next t ∧ (t.die d).pmop = none ∧ (t.die d).pmstat = code
        ∧ (t.ctx c).task = none ∧ (t.ctx c).run = false ∧ (t.die d).saved.length = x.saved.length + 1
      (o.freeze = false → s.fc < o.started + 64 → y.desched = true → y.sbuf = [] → exec (.preemptDrainEnd d) s = .next s)
      ∧ (y.desched = true → y.sbuf = [] → tk.region = none → noCommands s c → areaOwned s o.img (imageArea s o [(c, tk)]) = false →
          fenced s (pkgOf d) .engine o.img (max 1 (imageArea s o [(c, tk)])) = false → chainAble s c = false →
        (o.freeze = false → o.started + 64 ≤ s.fc → y.adv + 64 ≤ s.fc → commitUnderWay s c = false → saves (.preemptDrainEnd d) 2)
        ∧ (o.freeze = true → saves (.freezeComplete d) 3))
      ∧ (∀ dl, o.deadline = some dl → o.freeze = false →
        (s.now < dl → exec (.pmdlExpiry d) s = .next s)
        ∧ (dl ≤ s.now → ∃ t o', exec (.pmdlExpiry d) s = .next t ∧ (t.die d).pmop = some o' ∧ o'.freeze = true
            ∧ o'.launch = o.launch ∧ o'.group = o.group ∧ o'.img = o.img)))
    -- RESUME names its group by the image
    ∧ (x.started = true → x.pmop = none → landed s → let base := x.pmimg
        let launch := (s.die (s.peek (base + 10) 1)).launch (s.peek (base + 4) 4)
        ((launch = none ∨ ∃ l, launch = some l ∧ l.gone = true) → ∃ t, exec (.pmctlResume d) s = .next t ∧ t.mem = s.mem ∧ t.ctxs = s.ctxs ∧ (t.die d).pmstat = 8
          ∧ (t.die d).pmop = none)
        ∧ (∀ l, launch = some l → let n := (l.coords (s.peek (base + 24) 8)).length
            let size := (geoOf l.image).size l.spq
            0 < n → l.gone = false → fenced s (pkgOf d) .engine base (size * n) = false → (∀ i < n, badImage s (base + i * size) = false) →
            (∃ i < n, s.peek (base + i * size + 2) 1 ≠ 0) →
            ∃ t o, exec (.pmctlResume d) s = .next t ∧ t.mem = s.mem ∧ t.ctxs = s.ctxs ∧ (t.die d).pmstat = 1
              ∧ (t.die d).pmop = some o ∧ o.resume = true ∧ o.img = base ∧ o.launch = s.peek (base + 4) 4
              ∧ o.hdie = s.peek (base + 10) 1 ∧ o.group = s.peek (base + 24) 8))
    -- the load of PMCTL
    ∧ (∀ c (r : BitVec 5) t0, (s.ctx c).wait = some ⟨.pmctl d r.toNat, t0⟩ →
        (x.pmstat = 1 → exec (.pmctlWait c d r) s = .next s)
        ∧ (x.pmstat ≠ 1 → exec (.pmctlWait c d r) s = .next (loadEnds s c r.toNat (wordOf x.pmstat))))

/-- R267, R277, R278, R285, R286, R331, R371, R391, R395, R399, R401, Tables 12.3, 16.1, 16.2, 18.2, 21.4, 23.2, 24.1, 25.2: the
registers of the agents in space 7; `loadEnds` completes a waiting load, and stops its context where it is asked to. Model's
choices: the pace of a migration (log 42), what reads back (log 81), DCLRV without tracking (log 82), a second GO (log 83), the
words of a freed window (log 87). -/
def Obligations.AgentRegisters : Prop :=
  -- the lease agent
  (∀ (d : DieId) (f : Fill) (rest : List Fill) (s : State), let x := s.die d
    x.fills = f :: rest →
    ((firstOwned s (walkGas s d f.asid f.va)).isSome = true → exec (.ltfill d) s = .next s)
    ∧ (firstOwned s (walkGas s d f.asid f.va) = none → quiet s →
      ∃ t code, exec (.ltfill d) s = .next t ∧ t.mem = s.mem ∧ t.cores = s.cores
      -- the result stands in LTSTAT, but not over that of a later fill of the context
      ∧ (∀ c, f.who = some c → (t.ctx c).ltstat = (if f.late then (s.ctx c).ltstat else code)
          ∧ (t.die d).fills = rest.map (fun g => if g.who = some c ∧ g.num < f.num then { g with late := true } else g))
      ∧ (f.who = none → (t.die d).portLt = code ∧ (t.die d).fills = rest)
      ∧ (∀ e, leaseFind x f.asid f.va = some e → code = 0 ∧ (t.die d).leases = x.leases)
      ∧ (leaseFind x f.asid f.va = none →
        (walkPage s d f.asid f.va = .absent → code = 2 ∧ (t.die d).leases = x.leases)
        ∧ (walkPage s d f.asid f.va = .malformed → code = 3 ∧ (t.die d).leases = x.leases)
        ∧ (∀ e, walkPage s d f.asid f.va = .leaf e →
          (leaseOcc x + entryCost e.psize ≤ 262144 → code = 0 ∧ (t.die d).leases = x.leases ++ [{ e with id := x.nextEntry }])
          ∧ (262144 < leaseOcc x + entryCost e.psize → code = 4 ∧ (t.die d).leases = x.leases)))))
  -- loads that wait for an agent
  ∧ (∀ (c : CtxId) (d : DieId) (k : CoreId) (r : BitVec 5) (t0 : Nat) (s : State), let y := s.ctx c
    (y.wait = some ⟨.ltstat d r.toNat, t0⟩ → (∀ e ∈ s.dies, ∀ f ∈ e.2.fills, f.who ≠ some c ∨ f.late = true) →
      exec (.ltstat c r) s = .next (loadEnds s c r.toNat (wordOf y.ltstat)))
    ∧ (y.wait = some ⟨.plstat d r.toNat, t0⟩ → (∀ e ∈ s.dies, ∀ o ∈ e.2.poolOps, ∀ n, o.who ≠ .plpush c n) →
      exec (.plstat c d r) s = .next (loadEnds s c r.toNat (wordOf y.plstat)))
    ∧ (y.wait = some ⟨.ccflush k r.toNat, t0⟩ → (∀ e ∈ (s.core k).cc, e.delta = 0) →
      exec (.ccflushWait c k r) s = .next (loadEnds s c r.toNat 0))
    ∧ (y.wait = some ⟨.mctl d r.toNat, t0⟩ → migrating s d = false →
      exec (.mctlWait c d r) s = .next (loadEnds s c r.toNat (wordOf (s.die d).mcode)))
    ∧ (y.wait = some ⟨.dclrv d r.toNat, t0⟩ → let x := s.die d
        let w1 := s.peek (x.asidbase + 16 * x.dasid + 8) 8
        let g := w1 / 2 ^ 12 % 2 ^ 44 * 4096 + 8 * x.dclr
        quiet s → still s →
        (procOwned s (dasidGa s d) = true → exec (.dclrv c d r) s = .next s)
        ∧ (procOwned s (dasidGa s d) = false →
          (w1 / 2 ^ 63 % 2 = 0 → exec (.dclrv c d r) s = .next (loadEnds s c r.toNat 0))
          ∧ (w1 / 2 ^ 63 % 2 = 1 → procOwned s g = true → exec (.dclrv c d r) s = .next s)
          ∧ (w1 / 2 ^ 63 % 2 = 1 → procOwned s g = false →
            ∃ t, exec (.dclrv c d r) s = .next (loadEnds t c r.toNat (wordOf (s.peek g 8))) ∧ t.mem = Mem.write s.mem g 8 0
              ∧ t.ctxs = s.ctxs ∧ ∀ e, let y := s.die e
                  { t.die e with l2 := y.l2, l2evicts := y.l2evicts, snoop := y.snoop } = y))))
  -- the answer to a residency request
  ∧ (∀ (d : DieId) (l : Launch) (s : State), let x := s.die d
    x.resHold = some (d, l.num) → x.launches = [l] → x.pmop = none → l.resident = false →
    (l.todo = [] → ∃ t, exec (.resctlRetry d) s = .next t ∧ t.mem = s.mem ∧ (t.die d).resHold = none ∧ (t.die d).resreason = 0
      ∧ (t.die d).launches = [{ l with resident := true }])
    ∧ (∀ va fin, l.todo = [(va, fin)] → va < fin → va < 2 ^ 56 → (∀ r ∈ l.ranges, r.demand = false) →
        leaseFind x l.asid va = none → firstOwned s (walkGas s d l.asid va) = none → quiet s → walkPage s d l.asid va = .absent →
        ∃ t, exec (.resctlRetry d) s = .next t ∧ t.mem = s.mem ∧ (t.die d).resHold = some (d, l.num)
          ∧ (t.die d).resva = va / 4096 * 4096 ∧ (t.die d).resreason = 1 ∧ (t.die d).resln = l.num)
    ∧ ∃ t, exec (.resctlAbandon d) s = .next t ∧ t.mem = s.mem ∧ (t.die d).resHold = none ∧ (t.die d).launches = [])
  -- page migration
  ∧ (∀ (d : DieId) (s : State), let x := s.die d
    ((x.mstate ≠ 0 ∨ (x.mlen ≠ 2 ^ 12 ∧ x.mlen ≠ 2 ^ 16 ∧ x.mlen ≠ 2 ^ 21) ∨ frameOk s x.msrc x.mlen = false
        ∨ frameOk s x.mdst x.mlen = false) →
      exec (.mctlGo d) s = .next (s.modDie d (fun k => { k with mcode := 0x13 })))
    ∧ (x.mstate = 0 → (x.mlen = 2 ^ 12 ∨ x.mlen = 2 ^ 16 ∨ x.mlen = 2 ^ 21) → frameOk s x.msrc x.mlen = true →
        frameOk s x.mdst x.mlen = true →
      ∃ t, exec (.mctlGo d) s = .next t ∧ (t.die d).mstate = 1 ∧ (t.die d).mcode = 0 ∧ (t.die d).mcopied = 0)
    ∧ (∀ c r, x.mstate ≠ 0 → x.mcopied * 128 < x.mlen → let src := x.msrc + 128 * x.mcopied
        let dst := x.mdst + 128 * x.mcopied
        reachable s (pkgOf d) src 128 → fenced s (pkgOf d) .engine dst 128 = false → procOwned s dst = false → landed s →
        (∀ e ∈ s.dies, e.2.mstate ≠ 0 → e.1 = d) → (dst + 128 ≤ x.msrc ∨ src ≤ dst) →
        ∃ t, exec (.mctlWait c d r) s = .next t ∧ t.mem = Mem.setBytes s.mem dst (s.bytesAt src 128)
          ∧ (t.die d).mcopied = x.mcopied + 1 ∧ (t.die d).mcode = x.mcode)
    ∧ (x.mstate = 0 → exec (.mctlEnd d) s = .next s)
    ∧ (x.mstate ≠ 0 → endReady s d = true → landed s →
      ∃ t, exec (.mctlEnd d) s = .next t ∧ t.mem = s.mem ∧ (t.die d).mstate = 0 ∧ (t.die d).mcopied = 0))
  -- hotness table, pools, retention, counter cache
  ∧ (∀ (k : CoreId) (s : State), ∃ t, exec (.hctlClear k) s = .next t ∧ t.mem = s.mem ∧ (t.core k).hot = [] ∧ (t.core k).hctl = 0)
  ∧ (∀ (c : CtxId) (d : DieId) (v : Word) (s : State),
    let g := (s.die d).plrec % 2 ^ 56
    ∃ t n, exec (.plpush c d v) s = .next t ∧ t.mem = s.mem ∧ t.ctxs = s.ctxs
      ∧ (t.die (gaDie g)).poolOps = (s.die (gaDie g)).poolOps ++ [⟨g, some v.toNat, 1, .plpush c n, (s.ctx c).sys.asid⟩]
      ∧ ∀ e ∈ s.dies, ∀ o ∈ e.2.poolOps, ∀ m, o.who = .plpush c m → m < n)
  ∧ (∀ (d : DieId) (v : Word) (s : State), let x := s.die d
    let g := v.toNat % 2 ^ 56
    let page (e : Companion) : Prop := g ≤ e.line * 128 ∧ e.line * 128 < g + 4096
    let bound : Prop := ∃ e ∈ s.dies, ∃ f ∈ e.2.leases, f.bnd = true ∧ f.gbase < g + 4096
      ∧ g < f.gbase + pageBytes f.psize
    ((g % 4096 ≠ 0 ∨ bound ∨ ∃ e ∈ x.comp, page e.2 ∧ e.2.pnd ≠ none) →
      exec (.cscrub d v) s = .next (s.modDie d (fun k => { k with cscrub := 0x13 })))
    ∧ (g % 4096 = 0 → gaDie g = d → ¬bound → (∀ e ∈ x.comp, page e.2 → e.2.pnd = none) →
      ∃ t, exec (.cscrub d v) s = .next t ∧ t.mem = s.mem ∧ (t.die d).cscrub = 0
        ∧ (∀ e ∈ (t.die d).comp, e ∈ x.comp ∧ ¬page e.2)
        ∧ (∀ e ∈ x.comp, page e.2 → ∀ n, e.2.prv = some n → SMap.find (t.die d).slots n = none)))
  ∧ (∀ (k : CoreId) (e : CcEntry) (s : State), (s.core k).cc = [e] → e.delta ≠ 0 →
    writable s (pkgOf (dieOfCore k)) e.asid e.ga 8 → untracked s e.asid e.ga → still s →
    ∃ t, exec (.ccflush k) s = .next t ∧ t.mem = Mem.write s.mem e.ga 8 (s.peek e.ga 8 + e.delta)
      ∧ (t.core k).cc = [{ e with delta := 0, owed := false }])
  -- fabric stop and traces
  ∧ (∀ (d : DieId) (n : BitVec 16) (s : State), let arm : Word := n.setWidth 64 ||| 0x8000000000000000#64
    (∃ t, exec (.fstoprq d (n.setWidth 64)) s = .next t ∧ t.mem = s.mem ∧ (t.die d).fsarm = false ∧ (t.die d).fstat = 0)
    ∧ (regionNumbered s d n.toNat = none → tasksOn s d = [] → ∃ t, exec (.fstoprq d arm) s = .next t ∧ t.mem = s.mem
        ∧ (t.die d).fsarm = true ∧ (t.die d).fsreg = n.toNat ∧ (t.die d).fstat = 3)
    ∧ (∀ c y r, s.ctxs = [(c, y)] → dieOf c = d → y.region = some r → r.regno = n.toNat →
      (r.stopped = false → ∃ t, exec (.fstoprq d arm) s = .next t ∧ t.mem = s.mem ∧ t.ctxs = s.ctxs ∧ (t.die d).fsarm = true
        ∧ (t.die d).fsreg = n.toNat ∧ (t.die d).fstat = 1)
      ∧ ((s.die d).fsarm = true → (s.die d).fstat = 1 → (s.die d).fsreg = n.toNat → ∀ tk, y.task = some tk →
        (r.boundary tk.queues = false → exec (.fabricStop d) s = .next s)
        ∧ (r.boundary tk.queues = true → ∃ t, exec (.fabricStop d) s = .next t ∧ t.mem = s.mem ∧ (t.die d).fstat = 2
            ∧ (t.ctx c).region = some { r with stopped := true }))))
  ∧ (∀ (d : DieId) (v : Word) (s : State), ∃ t, exec (.trbaseWrite d v) s = .next t ∧ t.mem = s.mem
      ∧ (t.die d).trbase = v.toNat % 2 ^ 56 ∧ (t.die d).trhead = 0 ∧ (t.die d).trsize = (s.die d).trsize)
  -- counters, report windows, plain registers
  ∧ (∀ (d : DieId) (k i off old : Nat) (s : State), k < 64 → (countersAt s d k)[i]? = some (off, old) →
    ∃ t, exec (.counterClear d off) s = .next t ∧ t.mem = s.mem ∧ t.ctxs = s.ctxs
      ∧ (countersAt t d k) = (countersAt s d k).set i (off, 0))
  ∧ (∀ (d : DieId) (w : BitVec 3) (l : List Nat) (s : State), SMap.find (s.die d).windows w.toNat = some l → 2 ≤ l.length →
    ∃ t, exec (.reportWindowFree d w) s = .next t ∧ t.mem = s.mem ∧ windowUsed (t.die d) w.toNat = false
      ∧ SMap.find (t.die d).windows w.toNat = some (l.set 1 0))
  ∧ (∀ (d : DieId) (v : Word) (s : State), let n := v.toNat
    let x := s.die d
    let writes (off : Nat) (k : Die) : Prop := exec (.registerWrite d off v) s = .next (s.modDie d (fun _ => k))
    writes 0x100018 { x with asidbase := n % 2 ^ 56 / 4096 * 4096 } ∧ writes 0x100020 { x with rotbase := n % 2 ^ 56 / 4096 * 4096 }
    ∧ writes 0x100040 { x with msrc := n % 2 ^ 56 } ∧ writes 0x100048 { x with mdst := n % 2 ^ 56 } ∧ writes 0x100050 { x with mlen := n }
    ∧ writes 0x110000 { x with pmlnch := n % 2 ^ 32 } ∧ writes 0x110008 { x with pmgidx := n % 2 ^ 48 }
    ∧ writes 0x110010 { x with pmimg := n % 2 ^ 56 } ∧ writes 0x110018 { x with pmdl := n % 2 ^ 32 } ∧ writes 0x110030 { x with deftvec := n }
    ∧ writes 0x120000 { x with plrec := n } ∧ writes 0x140000 { x with dasid := n % 2 ^ 15 } ∧ writes 0x140008 { x with dclr := n % 2 ^ 32 }
    ∧ writes 0x150018 { x with trtail := n }
    ∧ writes 0x150020 { x with tren := v.getLsbD 0, trstop := v.getLsbD 1, trn := (v.extractLsb' 16 16).toNat }
    ∧ (∀ i, 12 ≤ i → i ≤ 30 → n = 2 ^ i → writes 0x150008 { x with trsize := n })
    ∧ (purserHere s d = true → exec (.registerWrite d 0x160050 v) s = .next
        (s.modPkg (pkgOf d) (fun k => { k with evbase := n % 2 ^ 56 / 65536 * 65536 }))))

/-! ## The package -/

/-- R402 to R408, R410, R411, R413, R414: staged start, firmware, attestation, the event ring, bugle beats, fences, heat, and
the management port of a bonded die pair. What firmware writes, the signatures and digests are opaque (log 9). Model's choices:
power may come on again (log 91), the half of a die's HBM that a stack holds (log 93, PRESUMED), when a bonded die starts (log 96),
which packages rejoin (log 98), signed requests from either side (log 124), one beat for the ports that join two packages (log
133), the addresses of the port's own readings (log 134), the order of the stages (log 147). -/
def Obligations.Package : Prop :=
  ∀ (p : PkgId) (s : State), let k := s.pkg p
    -- power-on
    (∃ t, exec (.powerOn p) s = .next t ∧ (t.pkg p).power = true ∧ (t.pkg p).stage = 0 ∧ (t.pkg p).failcode = 0
      ∧ (t.pkg p).diemap = 0 ∧ (t.pkg p).events = [] ∧ (t.pkg p).evhead = 0 ∧ (t.pkg p).fuses = k.fuses
      ∧ (t.pkg p).personality = (if k.fuses.pfix then k.fuses.psel else k.fuses.pers) ∧ (∀ d, pkgOf d = p → t.die d = Die.reset)
      ∧ (∀ c, pkgOf (dieOf c) = p → t.ctx c = Ctx.reset) ∧ (∀ m ∈ t.mem, gaPkg m.1 ≠ p)
      ∧ (∀ q, q ≠ p → { t.pkg q with hostAsks := (s.pkg q).hostAsks, hostCopies := (s.pkg q).hostCopies } = s.pkg q))
    -- firmware of an endpoint
    ∧ (k.power = true → k.stage ≤ 1 → k.failcode ≠ 0x11 → k.personality = 0 →
      (∀ image, (s.now < k.bootAt + 120000000000 →
            exec (.doorbell p image) s = .next (s.modPkg p (fun x => { x with image := some image })))
        ∧ (k.bootAt + 120000000000 ≤ s.now → exec (.doorbell p image) s = .next s))
      ∧ (s.now < k.bootAt + 120000000000 → exec (.firmwareTimeout p) s = .next s)
      ∧ (k.bootAt + 120000000000 ≤ s.now → k.image = none →
          exec (.firmwareTimeout p) s = .next (s.modPkg p (fun x => { x with stage := 1, failcode := 0x11 })))
      ∧ (∀ i, k.image = some i → leNat (i.take 4) = 0x5855524B → signedImage k.fuses i → k.fuses.svnmin ≤ Config.imageSvn i →
          exec (.firmwareTimeout p) s = .next s)
      ∧ (∀ i, k.image = some i →
        leNat (i.take 4) = 0x5855524B → ∃ t, exec (.firmwareLoad p) s = .next t ∧ t.mem = s.mem ∧ (t.pkg p).lanes = [16]
          ∧ (¬signedImage k.fuses i → (t.pkg p).stage = 1 ∧ (t.pkg p).failcode = 0x12 ∧ t.dies = s.dies)
          ∧ (signedImage k.fuses i → Config.imageSvn i < k.fuses.svnmin →
              (t.pkg p).stage = 1 ∧ (t.pkg p).failcode = 0x13 ∧ t.dies = s.dies)
          ∧ (signedImage k.fuses i → k.fuses.svnmin ≤ Config.imageSvn i →
              (t.pkg p).stage = 2 ∧ (t.pkg p).unit = 0 ∧ (t.pkg p).fwsvn = Config.imageSvn i % 2 ^ 16
              ∧ (t.pkg p).measures = k.measures ++ [Config.shake256 i]
              ∧ ∀ j < 4, let d := 4 * p + j
                (t.die d).deftvec = Config.firmwareWrites i 0 d
                ∧ (t.die d).asidbase = Config.firmwareWrites i 1 d % 2 ^ 56 / 4096 * 4096
                ∧ (t.die d).rotbase = Config.firmwareWrites i 2 d % 2 ^ 56 / 4096 * 4096)))
    -- the units of stages 2 to 5
    ∧ (∀ u < 8, atUnit s p 2 u → let lo := mkGa (4 * p + u / 2) 0 (u % 2 * 2 ^ 36)
      (k.asleep (u / 2) = true → ∀ ok, ∃ t, exec (.hbmStackStart p ok) s = .next t ∧ nextIn t p 2 u 8 ∧ t.mem = s.mem)
      ∧ (k.asleep (u / 2) = false →
      (State.Sound s → ∃ t, exec (.hbmStackStart p true) s = .next t ∧ nextIn t p 2 u 8
        ∧ (∀ a, lo ≤ a → a < lo + 2 ^ 36 → Mem.get t.mem a = 0)
        ∧ (∀ a, a < lo ∨ lo + 2 ^ 36 ≤ a → Mem.get t.mem a = Mem.get s.mem a))
      ∧ ∃ t, exec (.hbmStackStart p false) s = .next t ∧ nextIn t p 2 u 8 ∧ t.mem = s.mem ∧ (t.pkg p).stackBad.getLsbD (u / 2) = true))
    ∧ (∀ u < 4, atUnit s p 3 u → let d := 4 * p + u
      (k.stackBad.getLsbD u = false → k.fuses.lone.getLsbD u = false → ∃ t, exec (.cdieStart p true) s = .next t
        ∧ nextIn t p 3 u 4 ∧ (t.die d).started = true ∧ (t.die d).refresh = some s.now ∧ (t.pkg p).diemap.getLsbD u = true
        ∧ (∀ i, (t.pkg p).yalzal.getLsbD i = (k.yalzal.getLsbD i || (decide (i / 4 = u) && k.portPlan.getLsbD i)))
        ∧ t.mem = s.mem)
      ∧ (∀ ok, ok = false ∨ k.stackBad.getLsbD u = true ∨ k.asleep u = true → ∃ t, exec (.cdieStart p ok) s = .next t ∧ nextIn t p 3 u 4
          ∧ t.dies = s.dies ∧ (t.pkg p).diemap = k.diemap))
    ∧ (∀ u < 32, atUnit s p 4 u → let d := 4 * p + u / 8
      (((s.die d).started = true → ∃ t, exec (.acGroupStart p true) s = .next t ∧ nextIn t p 4 u 32 ∧ t.mem = s.mem
        ∧ ∀ i < 8, let c := 64 * d + 8 * (u % 8) + i
            (t.core c).started = true ∧ ∀ j < 16, (t.ctx (16 * c + j)).sys.tvec = wordOf (s.die d).deftvec)
      ∧ ∃ t, exec (.acGroupStart p false) s = .next t ∧ nextIn t p 4 u 32 ∧ t.cores = s.cores))
    ∧ (∀ u < 96, atUnit s p 5 u → let d := 4 * p + u / 24
      ((s.die d).started = true → ∃ t, exec (.parcelStart p true) s = .next t ∧ nextIn t p 5 u 96
        ∧ (t.die d).parcels.getLsbD (u % 24) = true ∧ t.mem = s.mem ∧ (u = 95 → (t.pkg p).stage = 15))
      ∧ ∃ t, exec (.parcelStart p false) s = .next t ∧ nextIn t p 5 u 96 ∧ t.dies = s.dies)
    -- attestation, SVNMIN
    ∧ (∀ nonce fromHost, exec (.attestationRequest p ⟨nonce, fromHost, false⟩) s = .next s
      ∧ (k.power = true → nonce.length ≤ 32 → ∃ t, exec (.attestationRequest p ⟨nonce, fromHost, true⟩) s = .next t ∧ t.mem = s.mem
        ∧ let body := k.measures ++ [k.fwsvn, k.diemap.toNat, nonce.length, leNat nonce, Config.identity p]
          (t.pkg p).report = some (body ++ [Config.identitySign p body])))
    ∧ (∀ svn, (k.stage ≠ 15 → ∀ signed, exec (.svnRaise p svn signed) s = .next s) ∧ exec (.svnRaise p svn false) s = .next s
      ∧ (k.power = true → k.stage = 15 → k.fuses.svnmin < svn.toNat → ∃ t, exec (.svnRaise p svn true) s = .next t
          ∧ (t.pkg p).fuses = { k.fuses with svnmin := svn.toNat } ∧ t.mem = s.mem))
    -- the event ring
    ∧ (∀ e l, k.events = e :: l → k.power = true → let g := k.evbase + 32 * (k.evhead % 2048)
      (s.fc ≤ e.fc → exec (.eventRecord p) s = .next s)
      ∧ (e.fc < s.fc → fenced s p .engine g 32 = false → procOwned s g = false → lineOf (g + 31) = lineOf g → quiet s → still s →
      ∃ t, exec (.eventRecord p) s = .next t ∧ (t.pkg p).events = l ∧ (t.pkg p).evhead = (k.evhead + 1) % 2 ^ 64
        ∧ t.mem = Mem.setBytes s.mem g (leBytes 8 k.evhead ++ leBytes 2 e.source ++ leBytes 2 (Config.eventCode e.code)
            ++ leBytes 20 e.payload)))
    -- beats
    ∧ (∀ n, k.power = true → k.shutdown = false → k.yalzal ≠ 0 → n ≠ p →
      (SMap.find k.beatsSent n = none → exec (.bugleBeatSend p n) s = .next
        (s.modPkg p (fun x => { x with beatsSent := SMap.set x.beatsSent n s.now })))
      ∧ (∀ t0, SMap.find (s.pkg n).beatsSent p = some t0 → k.silent.contains n = false →
          (∀ l, SMap.find k.lastBeat n = some l → l < t0) → let m := SMap.getD k.missed n 0
          (m < 3 → (∀ l, SMap.find k.lastBeat n = some l → s.now < l + 110000 + 100000 * m) →
            exec (.bugleBeatReceive p n) s = .next
              (s.modPkg p (fun x => { x with lastBeat := SMap.set x.lastBeat n s.now, missed := SMap.set x.missed n 0 })))
          -- a package declared silent stays so
          ∧ (3 ≤ m → exec (.bugleBeatReceive p n) s = .next s))
      ∧ (k.silent.contains n = true → exec (.bugleBeatReceive p n) s = .next s)
      ∧ (∀ t0, SMap.find k.lastBeat n = some t0 → k.silent.contains n = false → let m := SMap.getD k.missed n 0
          m < 3 →
          (s.now < t0 + 110000 + 100000 * m → exec (.beatMiss p n) s = .next s)
          ∧ (t0 + 110000 + 100000 * m ≤ s.now → ∃ t, exec (.beatMiss p n) s = .next t ∧ t.mem = s.mem
              ∧ SMap.find (t.pkg p).missed n = some (m + 1)
              ∧ (m + 1 = 3 → (t.pkg p).events.length = k.events.length + 1) ∧ (m + 1 < 3 → (t.pkg p).events = k.events))))
    -- fences
    ∧ (∀ q, p ≠ q → k.power = true → q ∉ k.silent →
      ((∀ e ∈ s.pkgs, e.1 ≠ q → SMap.getD e.2.missed q 0 < 3) → exec (.packageFence p q) s = .next s)
      ∧ ((∃ e ∈ s.pkgs, e.1 ≠ q ∧ 3 ≤ SMap.getD e.2.missed q 0) → ∃ t, exec (.packageFence p q) s = .next t
          ∧ (t.pkg p).silent = k.silent ++ [q] ∧ (∀ acc g n, gaPkg g = q → fenced t p acc g n = true)
          ∧ (∀ l, SMap.find k.takeover q = some (p, l) → (t.pkg p).taken = SMap.set k.taken q l)))
    ∧ (k.power = true → k.stage = 15 → ∃ t, exec (.packageRejoin p) s = .next t ∧ t.mem = s.mem ∧ t.dies = s.dies
      ∧ ∀ q, (p ∈ (s.pkg q).silent → SMap.getD (s.pkg q).fencedAt p 0 ≤ k.bootAt → (t.pkg q).silent = (s.pkg q).silent.erase p)
        ∧ (p ∉ (s.pkg q).silent → t.pkg q = s.pkg q))
    -- heat
    ∧ (∀ (die : BitVec 2) (c w : Nat), ∃ v, exec (.thermalThrottle p die c w) s = .next (s.modPkg p (fun x =>
          { x with celsius := SMap.set x.celsius die.toNat c, watts := w, throttled := v }))
      ∧ v.getLsbD die.toNat = decide (95 < c ∨ 2400 < w) ∧ ∀ i < 4, i ≠ die.toNat → v.getLsbD i = k.throttled.getLsbD i)
    ∧ (∀ (die : BitVec 2) (c : Nat), ((c < 105 ∨ k.shutdown = true) → exec (.thermalShutdown p die c) s = .next s)
      ∧ (105 ≤ c → k.power = true → k.shutdown = false → ∃ t, exec (.thermalShutdown p die c) s = .next t
          ∧ (t.pkg p).shutdown = true ∧ (t.pkg p).power = true ∧ (t.pkg p).diemap = 0 ∧ ∀ d, pkgOf d = p → t.die d = Die.reset))
    -- the management port
    ∧ (∀ d, pkgOf d = p → k.power = true → k.shutdown = false →
      (k.fuses.lone.getLsbD (d % 4) = false → ∀ off v, exec (.mgmtPortAccess d off v) s = .next s)
      ∧ (k.fuses.lone.getLsbD (d % 4) = true → SMap.find k.mgmt (d % 4) ≠ some 0 →
          k.missedPort s.now (d % 4) = false →
          (∀ v : Word, ∃ t, exec (.mgmtPortAccess d 0x110030 (some v)) s = .next t ∧ (t.die d).deftvec = v.toNat ∧ t.mem = s.mem
            ∧ SMap.find (t.pkg p).mgmt (d % 4) = some 1)
          ∧ (let s1 := s.modPkg p (fun x => { x with mgmt := SMap.set x.mgmt (d % 4) 1 })
             let gives (off v : Nat) : Prop :=
               exec (.mgmtPortAccess d off none) s = .next (s1.modPkg p (fun x => { x with readData := v }))
             (∀ off v, off ∉ [0x140010, 0x100008, 0x120010, portTemperature, portDraw, portEvent] → off % 8 = 0 →
                agentRead s1 0 d off 0 = .val v → gives off v)
             ∧ gives 0x100008 (s.die d).portLt ∧ gives 0x120010 (s.die d).portPl
             ∧ gives portTemperature (SMap.getD k.celsius (d % 4) 0) ∧ gives portDraw k.watts
             ∧ (SMap.getD k.dieEvents (d % 4) [] = [] → gives portEvent 0)
             ∧ ∀ e l, SMap.getD k.dieEvents (d % 4) [] = e :: l → exec (.mgmtPortAccess d portEvent none) s = .next
                 (s1.modPkg p (fun x => { x with dieEvents := SMap.set x.dieEvents (d % 4) l
                                                 readData := leNat (leBytes 8 0 ++ leBytes 2 e.source
                                                   ++ leBytes 2 (Config.eventCode e.code) ++ leBytes 20 e.payload) }))))
      ∧ (k.fuses.lone.getLsbD (d % 4) = true → k.missedPort s.now (d % 4) = true → ∀ off v,
          exec (.mgmtPortAccess d off v) s = .next (s.modPkg p (fun x => { x with mgmt := SMap.set x.mgmt (d % 4) 0 })))
      ∧ (k.fuses.lone.getLsbD (d % 4) = true → SMap.find k.mgmt (d % 4) = none → k.bootAt + 2000000000 ≤ s.now →
          exec (.mgmtTimeout p d) s = .next (s.modPkg p (fun x => { x with mgmt := SMap.set x.mgmt (d % 4) 0 })))
      ∧ (s.now < k.bootAt + 2000000000 → exec (.mgmtTimeout p d) s = .next s))

/-! ## Decoding and the step -/

/-- A step runs what it fetches. In a core's turn the context that R251 picks issues: when no trap stands before it, the step is
that of the instruction that the word at its program counter decodes to, on the state in which time has passed, the context is
the running one and its core has noted the issue; the word is the one that waited (log 128), or comes from the loop buffer, which
keeps a word fetched from memory, or from memory, unless a host owns the region it stands in. A trap that waited for its
handler's region is taken first (log 125), and a word of 16 bits that is undecodable stands in EVA as 16 bits (log 4). Afterwards a context asked to stop
may do so (R313). Where a block is entered anything but a header is BADOP, and so is a word that decodes to no instruction, with the word in EVA (R65, R66,
R77). An event's turn is a step of its row. -/
def Obligations.StepRunsDecoded : Prop :=
  ∀ (s s0 : State) (turn : Turn), turnIs s s0 turn →
    (∀ cc i, turn = .event cc i → autonomous i = true → step s = exec i (elapse s0 cc))
    ∧ (∀ cc k, turn = .core cc k → let s1 := elapse s0 cc
      (pick s1 k = none → step s = .next s1)
      ∧ (∀ c, pick s1 k = some c →
        ((s1.ctx c).held ≠ none → step s = .next (takeHeld s1 c))
        ∧ (∀ code eva l, (s1.ctx c).between = true → (s1.ctx c).due = (code, eva) :: l →
          step s = .next (trapEntry (s1.modCtx c (fun x => { x with due := l })) c code eva false false))
        ∧ (dueNow s1 c = false → ∀ i, trapRow s1 c = some i → step s = exec i s1)
        ∧ (dueNow s1 c = false → trapRow s1 c = none → (s1.ctx c).held = none →
          let b := (s1.ctx c).blk
          let runs (blk : Block) (i : Instr) : Prop :=
            step s = afterWord (s1.ctx c) c (exec i { noteIssue (s1.modCtx c (fun x => { x with blk := blk })) c i with cur := c })
          let reads (bs : List Byte) (blk : Block) : Prop :=
            (∀ i n, decode bs = .ok (i, n) → b.entering = false → runs blk i)
            ∧ (∀ rep len l e m n, decode bs = .ok (.hdr rep len l e m, n) → runs blk (.hdr rep len l e m))
            ∧ (∀ i n, decode bs = .ok (i, n) → b.entering = true → (∀ rep len l e m, i ≠ .hdr rep len l e m) → (∀ w, i ≠ .badop w) →
                runs blk (.badop (BitVec.ofNat 32 ((encode i).getD 0))))
          (∀ bs i n, (s1.ctx c).waitingWord = some bs → decode bs = .ok (i, n) → b.entering = false →
            step s = afterWord (s1.ctx c) c (exec i { noteIssue s1 c i with cur := c }))
          ∧ (∀ bs, (s1.ctx c).waitingWord = none → bufferedWord b = some bs → reads bs { b with word := bs })
          ∧ (∀ w, (s1.ctx c).waitingWord = none → bufferedWord b = none → wordWait s1 c b.pc isLong = some w →
              step s = afterWord (s1.ctx c) c (.next (waitFor { s1 with cur := c } w)))
          ∧ (∀ g g', (s1.ctx c).waitingWord = none → bufferedWord b = none → wordWait s1 c b.pc isLong = none →
            fetchable s1 c b.pc g → (isLong (s1.seen g 2) = true → fetchable s1 c (b.pc + 2) g') →
            let bs := leBytes 2 (s1.seen g 2) ++ (if isLong (s1.seen g 2) then leBytes 2 (s1.seen g' 2) else [])
            reads bs { b.keep bs with word := bs }
            ∧ (∀ err, decode bs = .error err → runs { b.keep bs with word := bs } (.badop (BitVec.ofNat 32 (leNat bs))))))))

/-- Words written out from the tables of the encoding decode to the instructions they stand for, whatever follows them; so do
they under the table's own numbering. -/
def Obligations.DecodeWords : Prop :=
  ∀ e ∈ knownWords, (∀ rest, decode (e.1 ++ rest) = .ok (e.2, e.1.length)) ∧ decodeTableWord (8 * e.1.length) (leNat e.1) = some e.2

/-- Decoding undoes encoding: for every well-formed word of an access core, with every operand at every value its field
admits, the bytes of its encoding decode to it and to its length, whatever bytes follow. -/
def Obligations.EncodeDecode : Prop :=
  ∀ (i : Instr) (w : Nat) (rest : List Byte), i.wellFormed = true → encode i = some w →
    decode (leBytes i.bytes w ++ rest) = .ok (i, i.bytes)

/-! ## The state -/

/-- After reset no package has power, nothing has started, and every context holds the start values of R88; a die's CTCAP and
RSCAP are the shipped ones (R415), its HSS is 0 (R366) and its sequences begin at 1 (R181). Memory is in canonical form and
lists nothing, the model's choice for memory without power (log 2). The
values of registers to which no rule gives one are the model's choice (log 8), and none of them is said here. -/
def Obligations.ResetState : Prop :=
  State.Sound State.reset ∧ State.reset.mem = []
  ∧ (∀ p, (State.reset.pkg p).power = false ∧ (State.reset.pkg p).stage = 0 ∧ (State.reset.pkg p).diemap = 0)
  ∧ (∀ d, let x := State.reset.die d
      x.started = false ∧ x.parcels = 0 ∧ x.launches = [] ∧ x.ctcap = 2 ^ 24 ∧ x.rscap = 2 ^ 22 ∧ x.hss = 0 ∧ x.nextSeq = 1)
  ∧ (∀ k, (State.reset.core k).started = false)
  ∧ (∀ c, let x := State.reset.ctx c
      (∀ r, x.getX r = 0) ∧ (∀ r < 8, x.getP r = decide (r = 0)) ∧ (∀ r, (x.getH r).v = false) ∧ x.s = [] ∧ x.f = [] ∧ x.q = []
      ∧ x.y = [] ∧ x.d = [] ∧ x.sys.pl = false ∧ x.sys.ie = true ∧ x.sys.ppl = false ∧ x.sys.pie = false ∧ x.sys.skip = false
      ∧ x.sys.pri = 0 ∧ x.sys.cause = 0 ∧ x.sys.epc = 0 ∧ x.sys.eva = 0 ∧ x.sys.ehdr = 0 ∧ x.sys.eitr = 0 ∧ x.sys.lodthr = 0
      ∧ x.sys.bbhbase = 0 ∧ x.sys.watch0 = 0 ∧ x.sys.watch1 = 0 ∧ x.sys.watch2 = 0 ∧ x.sys.watch3 = 0
      ∧ x.sys.timecmp = 0xFFFFFFFFFFFFFFFF ∧ x.run = false ∧ x.task = none)

/-- Every step keeps the memory in its canonical form: addresses strictly rising, no cell at the value that an unlisted
address reads as. The form is the model's own representation of memory, no rule of the spec (log 2). -/
def Obligations.StepKeepsSound : Prop :=
  ∀ (s t : State), State.Sound s → step s = .next t → State.Sound t
end

