-- ==== Sys2Proof/Laws/Map.lean ====
section
/-! SUPPORT. Laws of sparse maps and of byte memory: what a read finds after a write, and that every memory operation
keeps the canonical form. -/

namespace Sys2Proof.Machine

/-! ## Sparse maps -/

@[simp] theorem SMap.find_nil {α : Type} (k : Nat) : SMap.find ([] : SMap α) k = none := rfl

@[simp] theorem SMap.find_set_same {α : Type} (m : SMap α) (k : Nat) (v : α) : SMap.find (SMap.set m k v) k = some v := by
  induction m with
  | nil => simp [SMap.set, SMap.find]
  | cons e m ih =>
    obtain ⟨a, w⟩ := e
    by_cases h : a = k
    · simp [SMap.set, SMap.find, h]
    · by_cases g : k < a <;> simp [SMap.set, SMap.find, h, g, ih]

@[simp] theorem SMap.find_set_other {α : Type} (m : SMap α) (k q : Nat) (v : α) (h : q ≠ k) :
    SMap.find (SMap.set m k v) q = SMap.find m q := by
  induction m with
  | nil => simp [SMap.set, SMap.find, Ne.symm h]
  | cons e m ih =>
    obtain ⟨a, w⟩ := e
    by_cases g : a = k
    · subst g; simp [SMap.set, SMap.find, Ne.symm h]
    · by_cases f : k < a
      · simp only [SMap.set, if_neg g, if_pos f, SMap.find, if_neg (Ne.symm h)]
      · simp only [SMap.set, if_neg g, if_neg f, SMap.find, ih]

@[simp] theorem SMap.getD_set_same {α : Type} (m : SMap α) (k : Nat) (v d : α) : SMap.getD (SMap.set m k v) k d = v := by
  simp [SMap.getD]

@[simp] theorem SMap.getD_set_other {α : Type} (m : SMap α) (k q : Nat) (v d : α) (h : q ≠ k) :
    SMap.getD (SMap.set m k v) q d = SMap.getD m q d := by
  simp [SMap.getD, h]

@[simp] theorem SMap.set_set {α : Type} (m : SMap α) (k : Nat) (v w : α) :
    SMap.set (SMap.set m k v) k w = SMap.set m k w := by
  induction m with
  | nil => simp [SMap.set]
  | cons e m ih =>
    obtain ⟨a, u⟩ := e
    by_cases g : a = k
    · simp [SMap.set, g]
    · by_cases f : k < a <;> simp [SMap.set, g, f, ih]

/-! ## The canonical form of memory -/

theorem Mem.wfFrom_mono {lo hi : Nat} {m : List Host.Cell} (h : Mem.wfFrom hi m = true) (hl : lo ≤ hi) :
    Mem.wfFrom lo m = true := by
  cases m with
  | nil => rfl
  | cons e m => obtain ⟨k, v⟩ := e; simp [Mem.wfFrom] at h ⊢; exact ⟨⟨by omega, h.1.2⟩, h.2⟩

theorem Mem.wfFrom_set {lo : Nat} {m : List Host.Cell} (a : Nat) (b : BitVec 8) (h : Mem.wfFrom lo m = true)
    (ha : lo ≤ a) : Mem.wfFrom lo (Mem.set m a b) = true := by
  induction m generalizing lo with
  | nil => by_cases g : b = Mem.blank <;> simp [Mem.set, Mem.wfFrom, g, ha]
  | cons e m ih =>
    obtain ⟨k, v⟩ := e
    simp only [Mem.wfFrom, Bool.and_eq_true, decide_eq_true_eq] at h
    obtain ⟨⟨h1, h2⟩, h3⟩ := h
    by_cases hk : k = a
    · subst hk
      by_cases g : b = Mem.blank
      · simpa [Mem.set, g] using Mem.wfFrom_mono h3 (by omega)
      · simp [Mem.set, g, Mem.wfFrom, h1, h3]
    · by_cases hl : a < k
      · by_cases g : b = Mem.blank
        · simp [Mem.set, hk, hl, g, Mem.wfFrom, h1, h2, h3]
        · simp [Mem.set, hk, hl, g, Mem.wfFrom, ha, h2, h3, Nat.succ_le_of_lt hl]
      · simp [Mem.set, hk, hl, Mem.wfFrom, h1, h2, ih h3 (by omega)]

/-- Writing a byte keeps the canonical form. -/
theorem Mem.wf_set {m : List Host.Cell} (a : Nat) (b : BitVec 8) (h : Mem.wf m = true) : Mem.wf (Mem.set m a b) = true :=
  Mem.wfFrom_set a b h (Nat.zero_le a)

/-- Writing bytes keeps the canonical form. -/
theorem Mem.wf_setBytes {m : List Host.Cell} (a : Nat) (bs : List (BitVec 8)) (h : Mem.wf m = true) :
    Mem.wf (Mem.setBytes m a bs) = true := by
  induction bs generalizing m a with
  | nil => exact h
  | cons b bs ih => exact ih (a + 1) (Mem.wf_set a b h)

/-- Writing a number keeps the canonical form. -/
theorem Mem.wf_write {m : List Host.Cell} (a n v : Nat) (h : Mem.wf m = true) : Mem.wf (Mem.write m a n v) = true :=
  Mem.wf_setBytes a _ h

/-- Dropping cells keeps the canonical form. -/
theorem Mem.wfFrom_filter {lo : Nat} {m : List Host.Cell} (p : Host.Cell → Bool) (h : Mem.wfFrom lo m = true) :
    Mem.wfFrom lo (m.filter p) = true := by
  induction m generalizing lo with
  | nil => rfl
  | cons e m ih =>
    obtain ⟨k, v⟩ := e
    simp only [Mem.wfFrom, Bool.and_eq_true, decide_eq_true_eq] at h
    obtain ⟨⟨h1, h2⟩, h3⟩ := h
    by_cases g : p (k, v) = true
    · simp [List.filter, g, Mem.wfFrom, h1, h2, ih h3]
    · simpa [List.filter, g] using ih (Mem.wfFrom_mono h3 (show lo ≤ k + 1 by omega))

/-- Clearing a part of memory keeps the canonical form. -/
theorem Mem.wf_filter {m : List Host.Cell} (p : Host.Cell → Bool) (h : Mem.wf m = true) : Mem.wf (m.filter p) = true :=
  Mem.wfFrom_filter p h

/-! ## Reads after writes -/

theorem Mem.get_below {lo : Nat} {m : List Host.Cell} (h : Mem.wfFrom lo m = true) {a : Nat} (ha : a < lo) :
    Mem.get m a = Mem.blank := by
  cases m with
  | nil => rfl
  | cons e m =>
    obtain ⟨k, v⟩ := e
    simp only [Mem.wfFrom, Bool.and_eq_true, decide_eq_true_eq] at h
    simp [Mem.get, show k ≠ a by omega, show a < k by omega]

theorem Mem.get_set_from {lo : Nat} {m : List Host.Cell} (h : Mem.wfFrom lo m = true) (a c : Nat) (b : BitVec 8) :
    Mem.get (Mem.set m a b) c = if c = a then b else Mem.get m c := by
  induction m generalizing lo with
  | nil =>
    by_cases g : b = Mem.blank <;> by_cases e : c = a <;> simp [Mem.set, Mem.get, g, e]
    intro f; exact absurd f.symm e
  | cons e m ih =>
    obtain ⟨k, v⟩ := e
    simp only [Mem.wfFrom, Bool.and_eq_true, decide_eq_true_eq] at h
    obtain ⟨⟨h1, h2⟩, h3⟩ := h
    by_cases hk : k = a
    · subst hk
      by_cases g : b = Mem.blank
      · by_cases e : c = k
        · subst e; simp [Mem.set, g, Mem.get_below h3 (Nat.lt_succ_self c)]
        · simp only [Mem.set, g, if_true, e, if_false, Mem.get, Ne.symm e]
          by_cases f : c < k
          · simp [f, Mem.get_below h3 (show c < k + 1 by omega)]
          · simp [f]
      · by_cases e : c = k
        · simp [Mem.set, g, Mem.get, e]
        · simp [Mem.set, g, Mem.get, e, Ne.symm e]
    · by_cases hl : a < k
      · by_cases e : c = a
        · subst e; by_cases g : b = Mem.blank <;> simp [Mem.set, Mem.get, hk, hl, g]
        · by_cases g : b = Mem.blank
          · simp [Mem.set, hk, hl, g, e]
          · simp only [Mem.set, hk, hl, g, e, if_true, if_false, Mem.get, Ne.symm e]
            by_cases f : c < a
            · simp [f, show k ≠ c by omega, show c < k by omega]
            · simp [f]
      · by_cases e : c = a
        · subst e; simp [Mem.set, Mem.get, hk, hl, ih h3]
        · simp [Mem.set, Mem.get, hk, hl, e, ih h3]

/-- A read of one byte after a write of one byte. -/
theorem Mem.get_set {m : List Host.Cell} (h : Mem.wf m = true) (a c : Nat) (b : BitVec 8) :
    Mem.get (Mem.set m a b) c = if c = a then b else Mem.get m c := Mem.get_set_from h a c b

/-- A read outside the bytes written finds what stood there. -/
theorem Mem.get_setBytes_other {m : List Host.Cell} (h : Mem.wf m = true) (a c : Nat) (bs : List (BitVec 8))
    (hc : c < a ∨ a + bs.length ≤ c) : Mem.get (Mem.setBytes m a bs) c = Mem.get m c := by
  induction bs generalizing m a with
  | nil => rfl
  | cons b bs ih =>
    simp only [List.length_cons] at hc
    rw [Mem.setBytes, ih (Mem.wf_set a b h) (a + 1) (by omega), Mem.get_set h, if_neg (by omega)]

/-- A read of a byte written finds it. -/
theorem Mem.get_setBytes_same {m : List Host.Cell} (h : Mem.wf m = true) (a i : Nat) (bs : List (BitVec 8))
    (hi : i < bs.length) : Mem.get (Mem.setBytes m a bs) (a + i) = bs.getD i 0 := by
  induction bs generalizing m a i with
  | nil => simp at hi
  | cons b bs ih =>
    cases i with
    | zero => rw [Mem.setBytes, Mem.get_setBytes_other (Mem.wf_set a b h) _ _ _ (by omega), Mem.get_set h]; simp
    | succ i =>
      simp only [List.length_cons] at hi
      have := ih (Mem.wf_set a b h) (a + 1) i (by omega)
      rw [Mem.setBytes, show a + (i + 1) = a + 1 + i by omega, this]; simp

/-- A number written little-endian reads back (R7). -/
theorem leNat_leBytes (n v : Nat) : leNat (leBytes n v) = v % 256 ^ n := by
  induction n generalizing v with
  | zero => simp [leBytes, leNat, Nat.mod_one]
  | succ n ih =>
    have e : 256 ^ (n + 1) = 256 * 256 ^ n := by rw [Nat.pow_succ, Nat.mul_comm]
    rw [leBytes, leNat, ih, BitVec.toNat_ofNat, e, Nat.mod_mul]

@[simp] theorem length_leBytes (n v : Nat) : (leBytes n v).length = n := by
  induction n generalizing v with
  | zero => rfl
  | succ n ih => simp [leBytes, ih]

end Sys2Proof.Machine
end

