-- ==== Sys2Proof/Laws/State.lean ====
section
/-! SUPPORT. Laws of the state's parts: what each named update leaves of each field, so that no proof unfolds a record
update. -/

namespace Sys2Proof.Machine

/-! ## modPkg -/

@[simp] theorem State.modPkg_mem (s : State) (k : PkgId) (f : Pkg → Pkg) : (s.modPkg k f).mem = s.mem := rfl
@[simp] theorem State.modPkg_dies (s : State) (k : PkgId) (f : Pkg → Pkg) : (s.modPkg k f).dies = s.dies := rfl
@[simp] theorem State.modPkg_cores (s : State) (k : PkgId) (f : Pkg → Pkg) : (s.modPkg k f).cores = s.cores := rfl
@[simp] theorem State.modPkg_ctxs (s : State) (k : PkgId) (f : Pkg → Pkg) : (s.modPkg k f).ctxs = s.ctxs := rfl
@[simp] theorem State.modPkg_dir (s : State) (k : PkgId) (f : Pkg → Pkg) : (s.modPkg k f).dir = s.dir := rfl
@[simp] theorem State.modPkg_dirty (s : State) (k : PkgId) (f : Pkg → Pkg) : (s.modPkg k f).dirty = s.dirty := rfl
@[simp] theorem State.modPkg_scopes (s : State) (k : PkgId) (f : Pkg → Pkg) : (s.modPkg k f).scopes = s.scopes := rfl
@[simp] theorem State.modPkg_bmsgs (s : State) (k : PkgId) (f : Pkg → Pkg) : (s.modPkg k f).bmsgs = s.bmsgs := rfl
@[simp] theorem State.modPkg_orphans (s : State) (k : PkgId) (f : Pkg → Pkg) : (s.modPkg k f).orphans = s.orphans := rfl
@[simp] theorem State.modPkg_cmsgs (s : State) (k : PkgId) (f : Pkg → Pkg) : (s.modPkg k f).cmsgs = s.cmsgs := rfl
@[simp] theorem State.modPkg_hits (s : State) (k : PkgId) (f : Pkg → Pkg) : (s.modPkg k f).hits = s.hits := rfl
@[simp] theorem State.modPkg_ue (s : State) (k : PkgId) (f : Pkg → Pkg) : (s.modPkg k f).ue = s.ue := rfl
@[simp] theorem State.modPkg_absent (s : State) (k : PkgId) (f : Pkg → Pkg) : (s.modPkg k f).absent = s.absent := rfl
@[simp] theorem State.modPkg_now (s : State) (k : PkgId) (f : Pkg → Pkg) : (s.modPkg k f).now = s.now := rfl
@[simp] theorem State.modPkg_cur (s : State) (k : PkgId) (f : Pkg → Pkg) : (s.modPkg k f).cur = s.cur := rfl
@[simp] theorem State.modPkg_agenda (s : State) (k : PkgId) (f : Pkg → Pkg) : (s.modPkg k f).agenda = s.agenda := rfl
@[simp] theorem State.modPkg_pkg_same (s : State) (k : PkgId) (f : Pkg → Pkg) : (s.modPkg k f).pkg k = f (s.pkg k) := by
  simp [State.modPkg, State.pkg]
@[simp] theorem State.modPkg_pkg_other (s : State) (k q : PkgId) (f : Pkg → Pkg) (h : q ≠ k) :
    (s.modPkg k f).pkg q = s.pkg q := by
  simp [State.modPkg, State.pkg, h]
@[simp] theorem State.modPkg_die (s : State) (k : PkgId) (f : Pkg → Pkg) (q : DieId) : (s.modPkg k f).die q = s.die q := rfl
@[simp] theorem State.modPkg_core (s : State) (k : PkgId) (f : Pkg → Pkg) (q : CoreId) : (s.modPkg k f).core q = s.core q := rfl
@[simp] theorem State.modPkg_ctx (s : State) (k : PkgId) (f : Pkg → Pkg) (q : CtxId) : (s.modPkg k f).ctx q = s.ctx q := rfl
theorem State.modPkg_modPkg (s : State) (k : PkgId) (f g : Pkg → Pkg) : (s.modPkg k f).modPkg k g = s.modPkg k (fun c => g (f c)) := by
  simp [State.modPkg, State.pkg]

/-! ## modDie -/

@[simp] theorem State.modDie_mem (s : State) (k : DieId) (f : Die → Die) : (s.modDie k f).mem = s.mem := rfl
@[simp] theorem State.modDie_pkgs (s : State) (k : DieId) (f : Die → Die) : (s.modDie k f).pkgs = s.pkgs := rfl
@[simp] theorem State.modDie_cores (s : State) (k : DieId) (f : Die → Die) : (s.modDie k f).cores = s.cores := rfl
@[simp] theorem State.modDie_ctxs (s : State) (k : DieId) (f : Die → Die) : (s.modDie k f).ctxs = s.ctxs := rfl
@[simp] theorem State.modDie_dir (s : State) (k : DieId) (f : Die → Die) : (s.modDie k f).dir = s.dir := rfl
@[simp] theorem State.modDie_dirty (s : State) (k : DieId) (f : Die → Die) : (s.modDie k f).dirty = s.dirty := rfl
@[simp] theorem State.modDie_scopes (s : State) (k : DieId) (f : Die → Die) : (s.modDie k f).scopes = s.scopes := rfl
@[simp] theorem State.modDie_bmsgs (s : State) (k : DieId) (f : Die → Die) : (s.modDie k f).bmsgs = s.bmsgs := rfl
@[simp] theorem State.modDie_orphans (s : State) (k : DieId) (f : Die → Die) : (s.modDie k f).orphans = s.orphans := rfl
@[simp] theorem State.modDie_cmsgs (s : State) (k : DieId) (f : Die → Die) : (s.modDie k f).cmsgs = s.cmsgs := rfl
@[simp] theorem State.modDie_hits (s : State) (k : DieId) (f : Die → Die) : (s.modDie k f).hits = s.hits := rfl
@[simp] theorem State.modDie_ue (s : State) (k : DieId) (f : Die → Die) : (s.modDie k f).ue = s.ue := rfl
@[simp] theorem State.modDie_absent (s : State) (k : DieId) (f : Die → Die) : (s.modDie k f).absent = s.absent := rfl
@[simp] theorem State.modDie_now (s : State) (k : DieId) (f : Die → Die) : (s.modDie k f).now = s.now := rfl
@[simp] theorem State.modDie_cur (s : State) (k : DieId) (f : Die → Die) : (s.modDie k f).cur = s.cur := rfl
@[simp] theorem State.modDie_agenda (s : State) (k : DieId) (f : Die → Die) : (s.modDie k f).agenda = s.agenda := rfl
@[simp] theorem State.modDie_pkg (s : State) (k : DieId) (f : Die → Die) (q : PkgId) : (s.modDie k f).pkg q = s.pkg q := rfl
@[simp] theorem State.modDie_die_same (s : State) (k : DieId) (f : Die → Die) : (s.modDie k f).die k = f (s.die k) := by
  simp [State.modDie, State.die]
@[simp] theorem State.modDie_die_other (s : State) (k q : DieId) (f : Die → Die) (h : q ≠ k) :
    (s.modDie k f).die q = s.die q := by
  simp [State.modDie, State.die, h]
@[simp] theorem State.modDie_core (s : State) (k : DieId) (f : Die → Die) (q : CoreId) : (s.modDie k f).core q = s.core q := rfl
@[simp] theorem State.modDie_ctx (s : State) (k : DieId) (f : Die → Die) (q : CtxId) : (s.modDie k f).ctx q = s.ctx q := rfl
theorem State.modDie_modDie (s : State) (k : DieId) (f g : Die → Die) : (s.modDie k f).modDie k g = s.modDie k (fun c => g (f c)) := by
  simp [State.modDie, State.die]

/-! ## modCore -/

@[simp] theorem State.modCore_mem (s : State) (k : CoreId) (f : Core → Core) : (s.modCore k f).mem = s.mem := rfl
@[simp] theorem State.modCore_pkgs (s : State) (k : CoreId) (f : Core → Core) : (s.modCore k f).pkgs = s.pkgs := rfl
@[simp] theorem State.modCore_dies (s : State) (k : CoreId) (f : Core → Core) : (s.modCore k f).dies = s.dies := rfl
@[simp] theorem State.modCore_ctxs (s : State) (k : CoreId) (f : Core → Core) : (s.modCore k f).ctxs = s.ctxs := rfl
@[simp] theorem State.modCore_dir (s : State) (k : CoreId) (f : Core → Core) : (s.modCore k f).dir = s.dir := rfl
@[simp] theorem State.modCore_dirty (s : State) (k : CoreId) (f : Core → Core) : (s.modCore k f).dirty = s.dirty := rfl
@[simp] theorem State.modCore_scopes (s : State) (k : CoreId) (f : Core → Core) : (s.modCore k f).scopes = s.scopes := rfl
@[simp] theorem State.modCore_bmsgs (s : State) (k : CoreId) (f : Core → Core) : (s.modCore k f).bmsgs = s.bmsgs := rfl
@[simp] theorem State.modCore_orphans (s : State) (k : CoreId) (f : Core → Core) : (s.modCore k f).orphans = s.orphans := rfl
@[simp] theorem State.modCore_cmsgs (s : State) (k : CoreId) (f : Core → Core) : (s.modCore k f).cmsgs = s.cmsgs := rfl
@[simp] theorem State.modCore_hits (s : State) (k : CoreId) (f : Core → Core) : (s.modCore k f).hits = s.hits := rfl
@[simp] theorem State.modCore_ue (s : State) (k : CoreId) (f : Core → Core) : (s.modCore k f).ue = s.ue := rfl
@[simp] theorem State.modCore_absent (s : State) (k : CoreId) (f : Core → Core) : (s.modCore k f).absent = s.absent := rfl
@[simp] theorem State.modCore_now (s : State) (k : CoreId) (f : Core → Core) : (s.modCore k f).now = s.now := rfl
@[simp] theorem State.modCore_cur (s : State) (k : CoreId) (f : Core → Core) : (s.modCore k f).cur = s.cur := rfl
@[simp] theorem State.modCore_agenda (s : State) (k : CoreId) (f : Core → Core) : (s.modCore k f).agenda = s.agenda := rfl
@[simp] theorem State.modCore_pkg (s : State) (k : CoreId) (f : Core → Core) (q : PkgId) : (s.modCore k f).pkg q = s.pkg q := rfl
@[simp] theorem State.modCore_die (s : State) (k : CoreId) (f : Core → Core) (q : DieId) : (s.modCore k f).die q = s.die q := rfl
@[simp] theorem State.modCore_core_same (s : State) (k : CoreId) (f : Core → Core) : (s.modCore k f).core k = f (s.core k) := by
  simp [State.modCore, State.core]
@[simp] theorem State.modCore_core_other (s : State) (k q : CoreId) (f : Core → Core) (h : q ≠ k) :
    (s.modCore k f).core q = s.core q := by
  simp [State.modCore, State.core, h]
@[simp] theorem State.modCore_ctx (s : State) (k : CoreId) (f : Core → Core) (q : CtxId) : (s.modCore k f).ctx q = s.ctx q := rfl
theorem State.modCore_modCore (s : State) (k : CoreId) (f g : Core → Core) : (s.modCore k f).modCore k g = s.modCore k (fun c => g (f c)) := by
  simp [State.modCore, State.core]

/-! ## modCtx -/

@[simp] theorem State.modCtx_mem (s : State) (k : CtxId) (f : Ctx → Ctx) : (s.modCtx k f).mem = s.mem := rfl
@[simp] theorem State.modCtx_pkgs (s : State) (k : CtxId) (f : Ctx → Ctx) : (s.modCtx k f).pkgs = s.pkgs := rfl
@[simp] theorem State.modCtx_dies (s : State) (k : CtxId) (f : Ctx → Ctx) : (s.modCtx k f).dies = s.dies := rfl
@[simp] theorem State.modCtx_cores (s : State) (k : CtxId) (f : Ctx → Ctx) : (s.modCtx k f).cores = s.cores := rfl
@[simp] theorem State.modCtx_dir (s : State) (k : CtxId) (f : Ctx → Ctx) : (s.modCtx k f).dir = s.dir := rfl
@[simp] theorem State.modCtx_dirty (s : State) (k : CtxId) (f : Ctx → Ctx) : (s.modCtx k f).dirty = s.dirty := rfl
@[simp] theorem State.modCtx_scopes (s : State) (k : CtxId) (f : Ctx → Ctx) : (s.modCtx k f).scopes = s.scopes := rfl
@[simp] theorem State.modCtx_bmsgs (s : State) (k : CtxId) (f : Ctx → Ctx) : (s.modCtx k f).bmsgs = s.bmsgs := rfl
@[simp] theorem State.modCtx_orphans (s : State) (k : CtxId) (f : Ctx → Ctx) : (s.modCtx k f).orphans = s.orphans := rfl
@[simp] theorem State.modCtx_cmsgs (s : State) (k : CtxId) (f : Ctx → Ctx) : (s.modCtx k f).cmsgs = s.cmsgs := rfl
@[simp] theorem State.modCtx_hits (s : State) (k : CtxId) (f : Ctx → Ctx) : (s.modCtx k f).hits = s.hits := rfl
@[simp] theorem State.modCtx_ue (s : State) (k : CtxId) (f : Ctx → Ctx) : (s.modCtx k f).ue = s.ue := rfl
@[simp] theorem State.modCtx_absent (s : State) (k : CtxId) (f : Ctx → Ctx) : (s.modCtx k f).absent = s.absent := rfl
@[simp] theorem State.modCtx_now (s : State) (k : CtxId) (f : Ctx → Ctx) : (s.modCtx k f).now = s.now := rfl
@[simp] theorem State.modCtx_cur (s : State) (k : CtxId) (f : Ctx → Ctx) : (s.modCtx k f).cur = s.cur := rfl
@[simp] theorem State.modCtx_agenda (s : State) (k : CtxId) (f : Ctx → Ctx) : (s.modCtx k f).agenda = s.agenda := rfl
@[simp] theorem State.modCtx_pkg (s : State) (k : CtxId) (f : Ctx → Ctx) (q : PkgId) : (s.modCtx k f).pkg q = s.pkg q := rfl
@[simp] theorem State.modCtx_die (s : State) (k : CtxId) (f : Ctx → Ctx) (q : DieId) : (s.modCtx k f).die q = s.die q := rfl
@[simp] theorem State.modCtx_core (s : State) (k : CtxId) (f : Ctx → Ctx) (q : CoreId) : (s.modCtx k f).core q = s.core q := rfl
@[simp] theorem State.modCtx_ctx_same (s : State) (k : CtxId) (f : Ctx → Ctx) : (s.modCtx k f).ctx k = f (s.ctx k) := by
  simp [State.modCtx, State.ctx]
@[simp] theorem State.modCtx_ctx_other (s : State) (k q : CtxId) (f : Ctx → Ctx) (h : q ≠ k) :
    (s.modCtx k f).ctx q = s.ctx q := by
  simp [State.modCtx, State.ctx, h]
theorem State.modCtx_modCtx (s : State) (k : CtxId) (f g : Ctx → Ctx) : (s.modCtx k f).modCtx k g = s.modCtx k (fun c => g (f c)) := by
  simp [State.modCtx, State.ctx]

/-! ## The running context -/

@[simp] theorem State.modMe_me (s : State) (f : Ctx → Ctx) : (s.modMe f).me = f s.me := by
  simp [State.modMe, State.me]
@[simp] theorem State.modMe_ctx_other (s : State) (f : Ctx → Ctx) (c : CtxId) (h : c ≠ s.cur) : (s.modMe f).ctx c = s.ctx c := by
  simp [State.modMe, h]
@[simp] theorem State.modMe_die (s : State) (f : Ctx → Ctx) (d : DieId) : (s.modMe f).die d = s.die d := rfl
@[simp] theorem State.modMe_core (s : State) (f : Ctx → Ctx) (k : CoreId) : (s.modMe f).core k = s.core k := rfl
@[simp] theorem State.modMe_pkg (s : State) (f : Ctx → Ctx) (p : PkgId) : (s.modMe f).pkg p = s.pkg p := rfl
@[simp] theorem State.modMe_mem (s : State) (f : Ctx → Ctx) : (s.modMe f).mem = s.mem := rfl
@[simp] theorem State.modMe_pkgs (s : State) (f : Ctx → Ctx) : (s.modMe f).pkgs = s.pkgs := rfl
@[simp] theorem State.modMe_dies (s : State) (f : Ctx → Ctx) : (s.modMe f).dies = s.dies := rfl
@[simp] theorem State.modMe_cores (s : State) (f : Ctx → Ctx) : (s.modMe f).cores = s.cores := rfl
@[simp] theorem State.modMe_dir (s : State) (f : Ctx → Ctx) : (s.modMe f).dir = s.dir := rfl
@[simp] theorem State.modMe_dirty (s : State) (f : Ctx → Ctx) : (s.modMe f).dirty = s.dirty := rfl
@[simp] theorem State.modMe_scopes (s : State) (f : Ctx → Ctx) : (s.modMe f).scopes = s.scopes := rfl
@[simp] theorem State.modMe_bmsgs (s : State) (f : Ctx → Ctx) : (s.modMe f).bmsgs = s.bmsgs := rfl
@[simp] theorem State.modMe_orphans (s : State) (f : Ctx → Ctx) : (s.modMe f).orphans = s.orphans := rfl
@[simp] theorem State.modMe_cmsgs (s : State) (f : Ctx → Ctx) : (s.modMe f).cmsgs = s.cmsgs := rfl
@[simp] theorem State.modMe_hits (s : State) (f : Ctx → Ctx) : (s.modMe f).hits = s.hits := rfl
@[simp] theorem State.modMe_ue (s : State) (f : Ctx → Ctx) : (s.modMe f).ue = s.ue := rfl
@[simp] theorem State.modMe_absent (s : State) (f : Ctx → Ctx) : (s.modMe f).absent = s.absent := rfl
@[simp] theorem State.modMe_now (s : State) (f : Ctx → Ctx) : (s.modMe f).now = s.now := rfl
@[simp] theorem State.modMe_cur (s : State) (f : Ctx → Ctx) : (s.modMe f).cur = s.cur := rfl
@[simp] theorem State.modMe_agenda (s : State) (f : Ctx → Ctx) : (s.modMe f).agenda = s.agenda := rfl
@[simp] theorem State.modDie_me (s : State) (d : DieId) (f : Die → Die) : (s.modDie d f).me = s.me := rfl
@[simp] theorem State.modCore_me (s : State) (k : CoreId) (f : Core → Core) : (s.modCore k f).me = s.me := rfl
@[simp] theorem State.modPkg_me (s : State) (p : PkgId) (f : Pkg → Pkg) : (s.modPkg p f).me = s.me := rfl

/-! ## Registers of a context -/

@[simp] theorem Ctx.setX_p (c : Ctx) (r : Nat) (v : Word) : (c.setX r v).p = c.p := by
  unfold Ctx.setX; split <;> rfl
@[simp] theorem Ctx.setX_h (c : Ctx) (r : Nat) (v : Word) : (c.setX r v).h = c.h := by
  unfold Ctx.setX; split <;> rfl
@[simp] theorem Ctx.setX_s (c : Ctx) (r : Nat) (v : Word) : (c.setX r v).s = c.s := by
  unfold Ctx.setX; split <;> rfl
@[simp] theorem Ctx.setX_f (c : Ctx) (r : Nat) (v : Word) : (c.setX r v).f = c.f := by
  unfold Ctx.setX; split <;> rfl
@[simp] theorem Ctx.setX_q (c : Ctx) (r : Nat) (v : Word) : (c.setX r v).q = c.q := by
  unfold Ctx.setX; split <;> rfl
@[simp] theorem Ctx.setX_y (c : Ctx) (r : Nat) (v : Word) : (c.setX r v).y = c.y := by
  unfold Ctx.setX; split <;> rfl
@[simp] theorem Ctx.setX_d (c : Ctx) (r : Nat) (v : Word) : (c.setX r v).d = c.d := by
  unfold Ctx.setX; split <;> rfl
@[simp] theorem Ctx.setX_rg (c : Ctx) (r : Nat) (v : Word) : (c.setX r v).rg = c.rg := by
  unfold Ctx.setX; split <;> rfl
@[simp] theorem Ctx.setX_sys (c : Ctx) (r : Nat) (v : Word) : (c.setX r v).sys = c.sys := by
  unfold Ctx.setX; split <;> rfl
@[simp] theorem Ctx.setX_blk (c : Ctx) (r : Nat) (v : Word) : (c.setX r v).blk = c.blk := by
  unfold Ctx.setX; split <;> rfl
@[simp] theorem Ctx.setX_imx (c : Ctx) (r : Nat) (v : Word) : (c.setX r v).imx = c.imx := by
  unfold Ctx.setX; split <;> rfl
@[simp] theorem Ctx.setX_stepNo (c : Ctx) (r : Nat) (v : Word) : (c.setX r v).stepNo = c.stepNo := by
  unfold Ctx.setX; split <;> rfl
@[simp] theorem Ctx.setX_pend (c : Ctx) (r : Nat) (v : Word) : (c.setX r v).pend = c.pend := by
  unfold Ctx.setX; split <;> rfl
@[simp] theorem Ctx.setX_pushes (c : Ctx) (r : Nat) (v : Word) : (c.setX r v).pushes = c.pushes := by
  unfold Ctx.setX; split <;> rfl
@[simp] theorem Ctx.setX_pushSeq (c : Ctx) (r : Nat) (v : Word) : (c.setX r v).pushSeq = c.pushSeq := by
  unfold Ctx.setX; split <;> rfl
@[simp] theorem Ctx.setX_sbuf (c : Ctx) (r : Nat) (v : Word) : (c.setX r v).sbuf = c.sbuf := by
  unfold Ctx.setX; split <;> rfl
@[simp] theorem Ctx.setX_epoch (c : Ctx) (r : Nat) (v : Word) : (c.setX r v).epoch = c.epoch := by
  unfold Ctx.setX; split <;> rfl
@[simp] theorem Ctx.setX_fences (c : Ctx) (r : Nat) (v : Word) : (c.setX r v).fences = c.fences := by
  unfold Ctx.setX; split <;> rfl
@[simp] theorem Ctx.setX_held (c : Ctx) (r : Nat) (v : Word) : (c.setX r v).held = c.held := by
  unfold Ctx.setX; split <;> rfl
@[simp] theorem Ctx.setX_inLoad (c : Ctx) (r : Nat) (v : Word) : (c.setX r v).inLoad = c.inLoad := by
  unfold Ctx.setX; split <;> rfl
@[simp] theorem Ctx.setX_wengine (c : Ctx) (r : Nat) (v : Word) : (c.setX r v).wengine = c.wengine := by
  unfold Ctx.setX; split <;> rfl
@[simp] theorem Ctx.setX_fscope (c : Ctx) (r : Nat) (v : Word) : (c.setX r v).fscope = c.fscope := by
  unfold Ctx.setX; split <;> rfl
@[simp] theorem Ctx.setX_owed (c : Ctx) (r : Nat) (v : Word) : (c.setX r v).owed = c.owed := by
  unfold Ctx.setX; split <;> rfl
@[simp] theorem Ctx.setX_wreport (c : Ctx) (r : Nat) (v : Word) : (c.setX r v).wreport = c.wreport := by
  unfold Ctx.setX; split <;> rfl
@[simp] theorem Ctx.setX_wait (c : Ctx) (r : Nat) (v : Word) : (c.setX r v).wait = c.wait := by
  unfold Ctx.setX; split <;> rfl
@[simp] theorem Ctx.setX_run (c : Ctx) (r : Nat) (v : Word) : (c.setX r v).run = c.run := by
  unfold Ctx.setX; split <;> rfl
@[simp] theorem Ctx.setX_chan (c : Ctx) (r : Nat) (v : Word) : (c.setX r v).chan = c.chan := by
  unfold Ctx.setX; split <;> rfl
@[simp] theorem Ctx.setX_task (c : Ctx) (r : Nat) (v : Word) : (c.setX r v).task = c.task := by
  unfold Ctx.setX; split <;> rfl
@[simp] theorem Ctx.setX_ended (c : Ctx) (r : Nat) (v : Word) : (c.setX r v).ended = c.ended := by
  unfold Ctx.setX; split <;> rfl
@[simp] theorem Ctx.setX_trapDepth (c : Ctx) (r : Nat) (v : Word) : (c.setX r v).trapDepth = c.trapDepth := by
  unfold Ctx.setX; split <;> rfl
@[simp] theorem Ctx.setX_ending (c : Ctx) (r : Nat) (v : Word) : (c.setX r v).ending = c.ending := by
  unfold Ctx.setX; split <;> rfl
@[simp] theorem Ctx.setX_stopped (c : Ctx) (r : Nat) (v : Word) : (c.setX r v).stopped = c.stopped := by
  unfold Ctx.setX; split <;> rfl
@[simp] theorem Ctx.setX_desched (c : Ctx) (r : Nat) (v : Word) : (c.setX r v).desched = c.desched := by
  unfold Ctx.setX; split <;> rfl
@[simp] theorem Ctx.setX_preempt (c : Ctx) (r : Nat) (v : Word) : (c.setX r v).preempt = c.preempt := by
  unfold Ctx.setX; split <;> rfl
@[simp] theorem Ctx.setX_reply (c : Ctx) (r : Nat) (v : Word) : (c.setX r v).reply = c.reply := by
  unfold Ctx.setX; split <;> rfl
@[simp] theorem Ctx.setX_ltstat (c : Ctx) (r : Nat) (v : Word) : (c.setX r v).ltstat = c.ltstat := by
  unfold Ctx.setX; split <;> rfl
@[simp] theorem Ctx.setX_plstat (c : Ctx) (r : Nat) (v : Word) : (c.setX r v).plstat = c.plstat := by
  unfold Ctx.setX; split <;> rfl
@[simp] theorem Ctx.setX_lodSeen (c : Ctx) (r : Nat) (v : Word) : (c.setX r v).lodSeen = c.lodSeen := by
  unfold Ctx.setX; split <;> rfl
@[simp] theorem Ctx.setX_runNo (c : Ctx) (r : Nat) (v : Word) : (c.setX r v).runNo = c.runNo := by
  unfold Ctx.setX; split <;> rfl
@[simp] theorem Ctx.setX_due (c : Ctx) (r : Nat) (v : Word) : (c.setX r v).due = c.due := by
  unfold Ctx.setX; split <;> rfl
@[simp] theorem Ctx.setX_adv (c : Ctx) (r : Nat) (v : Word) : (c.setX r v).adv = c.adv := by
  unfold Ctx.setX; split <;> rfl
@[simp] theorem Ctx.setP_x (c : Ctx) (r : Nat) (v : Bool) : (c.setP r v).x = c.x := by
  unfold Ctx.setP; split <;> rfl
@[simp] theorem Ctx.setP_h (c : Ctx) (r : Nat) (v : Bool) : (c.setP r v).h = c.h := by
  unfold Ctx.setP; split <;> rfl
@[simp] theorem Ctx.setP_s (c : Ctx) (r : Nat) (v : Bool) : (c.setP r v).s = c.s := by
  unfold Ctx.setP; split <;> rfl
@[simp] theorem Ctx.setP_f (c : Ctx) (r : Nat) (v : Bool) : (c.setP r v).f = c.f := by
  unfold Ctx.setP; split <;> rfl
@[simp] theorem Ctx.setP_q (c : Ctx) (r : Nat) (v : Bool) : (c.setP r v).q = c.q := by
  unfold Ctx.setP; split <;> rfl
@[simp] theorem Ctx.setP_y (c : Ctx) (r : Nat) (v : Bool) : (c.setP r v).y = c.y := by
  unfold Ctx.setP; split <;> rfl
@[simp] theorem Ctx.setP_d (c : Ctx) (r : Nat) (v : Bool) : (c.setP r v).d = c.d := by
  unfold Ctx.setP; split <;> rfl
@[simp] theorem Ctx.setP_rg (c : Ctx) (r : Nat) (v : Bool) : (c.setP r v).rg = c.rg := by
  unfold Ctx.setP; split <;> rfl
@[simp] theorem Ctx.setP_sys (c : Ctx) (r : Nat) (v : Bool) : (c.setP r v).sys = c.sys := by
  unfold Ctx.setP; split <;> rfl
@[simp] theorem Ctx.setP_blk (c : Ctx) (r : Nat) (v : Bool) : (c.setP r v).blk = c.blk := by
  unfold Ctx.setP; split <;> rfl
@[simp] theorem Ctx.setP_imx (c : Ctx) (r : Nat) (v : Bool) : (c.setP r v).imx = c.imx := by
  unfold Ctx.setP; split <;> rfl
@[simp] theorem Ctx.setP_stepNo (c : Ctx) (r : Nat) (v : Bool) : (c.setP r v).stepNo = c.stepNo := by
  unfold Ctx.setP; split <;> rfl
@[simp] theorem Ctx.setP_pend (c : Ctx) (r : Nat) (v : Bool) : (c.setP r v).pend = c.pend := by
  unfold Ctx.setP; split <;> rfl
@[simp] theorem Ctx.setP_pushes (c : Ctx) (r : Nat) (v : Bool) : (c.setP r v).pushes = c.pushes := by
  unfold Ctx.setP; split <;> rfl
@[simp] theorem Ctx.setP_pushSeq (c : Ctx) (r : Nat) (v : Bool) : (c.setP r v).pushSeq = c.pushSeq := by
  unfold Ctx.setP; split <;> rfl
@[simp] theorem Ctx.setP_sbuf (c : Ctx) (r : Nat) (v : Bool) : (c.setP r v).sbuf = c.sbuf := by
  unfold Ctx.setP; split <;> rfl
@[simp] theorem Ctx.setP_epoch (c : Ctx) (r : Nat) (v : Bool) : (c.setP r v).epoch = c.epoch := by
  unfold Ctx.setP; split <;> rfl
@[simp] theorem Ctx.setP_fences (c : Ctx) (r : Nat) (v : Bool) : (c.setP r v).fences = c.fences := by
  unfold Ctx.setP; split <;> rfl
@[simp] theorem Ctx.setP_held (c : Ctx) (r : Nat) (v : Bool) : (c.setP r v).held = c.held := by
  unfold Ctx.setP; split <;> rfl
@[simp] theorem Ctx.setP_inLoad (c : Ctx) (r : Nat) (v : Bool) : (c.setP r v).inLoad = c.inLoad := by
  unfold Ctx.setP; split <;> rfl
@[simp] theorem Ctx.setP_wengine (c : Ctx) (r : Nat) (v : Bool) : (c.setP r v).wengine = c.wengine := by
  unfold Ctx.setP; split <;> rfl
@[simp] theorem Ctx.setP_fscope (c : Ctx) (r : Nat) (v : Bool) : (c.setP r v).fscope = c.fscope := by
  unfold Ctx.setP; split <;> rfl
@[simp] theorem Ctx.setP_owed (c : Ctx) (r : Nat) (v : Bool) : (c.setP r v).owed = c.owed := by
  unfold Ctx.setP; split <;> rfl
@[simp] theorem Ctx.setP_wreport (c : Ctx) (r : Nat) (v : Bool) : (c.setP r v).wreport = c.wreport := by
  unfold Ctx.setP; split <;> rfl
@[simp] theorem Ctx.setP_wait (c : Ctx) (r : Nat) (v : Bool) : (c.setP r v).wait = c.wait := by
  unfold Ctx.setP; split <;> rfl
@[simp] theorem Ctx.setP_run (c : Ctx) (r : Nat) (v : Bool) : (c.setP r v).run = c.run := by
  unfold Ctx.setP; split <;> rfl
@[simp] theorem Ctx.setP_chan (c : Ctx) (r : Nat) (v : Bool) : (c.setP r v).chan = c.chan := by
  unfold Ctx.setP; split <;> rfl
@[simp] theorem Ctx.setP_task (c : Ctx) (r : Nat) (v : Bool) : (c.setP r v).task = c.task := by
  unfold Ctx.setP; split <;> rfl
@[simp] theorem Ctx.setP_ended (c : Ctx) (r : Nat) (v : Bool) : (c.setP r v).ended = c.ended := by
  unfold Ctx.setP; split <;> rfl
@[simp] theorem Ctx.setP_trapDepth (c : Ctx) (r : Nat) (v : Bool) : (c.setP r v).trapDepth = c.trapDepth := by
  unfold Ctx.setP; split <;> rfl
@[simp] theorem Ctx.setP_ending (c : Ctx) (r : Nat) (v : Bool) : (c.setP r v).ending = c.ending := by
  unfold Ctx.setP; split <;> rfl
@[simp] theorem Ctx.setP_stopped (c : Ctx) (r : Nat) (v : Bool) : (c.setP r v).stopped = c.stopped := by
  unfold Ctx.setP; split <;> rfl
@[simp] theorem Ctx.setP_desched (c : Ctx) (r : Nat) (v : Bool) : (c.setP r v).desched = c.desched := by
  unfold Ctx.setP; split <;> rfl
@[simp] theorem Ctx.setP_preempt (c : Ctx) (r : Nat) (v : Bool) : (c.setP r v).preempt = c.preempt := by
  unfold Ctx.setP; split <;> rfl
@[simp] theorem Ctx.setP_reply (c : Ctx) (r : Nat) (v : Bool) : (c.setP r v).reply = c.reply := by
  unfold Ctx.setP; split <;> rfl
@[simp] theorem Ctx.setP_ltstat (c : Ctx) (r : Nat) (v : Bool) : (c.setP r v).ltstat = c.ltstat := by
  unfold Ctx.setP; split <;> rfl
@[simp] theorem Ctx.setP_plstat (c : Ctx) (r : Nat) (v : Bool) : (c.setP r v).plstat = c.plstat := by
  unfold Ctx.setP; split <;> rfl
@[simp] theorem Ctx.setP_lodSeen (c : Ctx) (r : Nat) (v : Bool) : (c.setP r v).lodSeen = c.lodSeen := by
  unfold Ctx.setP; split <;> rfl
@[simp] theorem Ctx.setP_runNo (c : Ctx) (r : Nat) (v : Bool) : (c.setP r v).runNo = c.runNo := by
  unfold Ctx.setP; split <;> rfl
@[simp] theorem Ctx.setP_due (c : Ctx) (r : Nat) (v : Bool) : (c.setP r v).due = c.due := by
  unfold Ctx.setP; split <;> rfl
@[simp] theorem Ctx.setP_adv (c : Ctx) (r : Nat) (v : Bool) : (c.setP r v).adv = c.adv := by
  unfold Ctx.setP; split <;> rfl
@[simp] theorem Ctx.setH_x (c : Ctx) (r : Nat) (v : Handle) : (c.setH r v).x = c.x := rfl
@[simp] theorem Ctx.setH_p (c : Ctx) (r : Nat) (v : Handle) : (c.setH r v).p = c.p := rfl
@[simp] theorem Ctx.setH_s (c : Ctx) (r : Nat) (v : Handle) : (c.setH r v).s = c.s := rfl
@[simp] theorem Ctx.setH_f (c : Ctx) (r : Nat) (v : Handle) : (c.setH r v).f = c.f := rfl
@[simp] theorem Ctx.setH_q (c : Ctx) (r : Nat) (v : Handle) : (c.setH r v).q = c.q := rfl
@[simp] theorem Ctx.setH_y (c : Ctx) (r : Nat) (v : Handle) : (c.setH r v).y = c.y := rfl
@[simp] theorem Ctx.setH_d (c : Ctx) (r : Nat) (v : Handle) : (c.setH r v).d = c.d := rfl
@[simp] theorem Ctx.setH_rg (c : Ctx) (r : Nat) (v : Handle) : (c.setH r v).rg = c.rg := rfl
@[simp] theorem Ctx.setH_sys (c : Ctx) (r : Nat) (v : Handle) : (c.setH r v).sys = c.sys := rfl
@[simp] theorem Ctx.setH_blk (c : Ctx) (r : Nat) (v : Handle) : (c.setH r v).blk = c.blk := rfl
@[simp] theorem Ctx.setH_imx (c : Ctx) (r : Nat) (v : Handle) : (c.setH r v).imx = c.imx := rfl
@[simp] theorem Ctx.setH_stepNo (c : Ctx) (r : Nat) (v : Handle) : (c.setH r v).stepNo = c.stepNo := rfl
@[simp] theorem Ctx.setH_pend (c : Ctx) (r : Nat) (v : Handle) : (c.setH r v).pend = c.pend := rfl
@[simp] theorem Ctx.setH_pushes (c : Ctx) (r : Nat) (v : Handle) : (c.setH r v).pushes = c.pushes := rfl
@[simp] theorem Ctx.setH_pushSeq (c : Ctx) (r : Nat) (v : Handle) : (c.setH r v).pushSeq = c.pushSeq := rfl
@[simp] theorem Ctx.setH_sbuf (c : Ctx) (r : Nat) (v : Handle) : (c.setH r v).sbuf = c.sbuf := rfl
@[simp] theorem Ctx.setH_epoch (c : Ctx) (r : Nat) (v : Handle) : (c.setH r v).epoch = c.epoch := rfl
@[simp] theorem Ctx.setH_fences (c : Ctx) (r : Nat) (v : Handle) : (c.setH r v).fences = c.fences := rfl
@[simp] theorem Ctx.setH_held (c : Ctx) (r : Nat) (v : Handle) : (c.setH r v).held = c.held := rfl
@[simp] theorem Ctx.setH_inLoad (c : Ctx) (r : Nat) (v : Handle) : (c.setH r v).inLoad = c.inLoad := rfl
@[simp] theorem Ctx.setH_wengine (c : Ctx) (r : Nat) (v : Handle) : (c.setH r v).wengine = c.wengine := rfl
@[simp] theorem Ctx.setH_fscope (c : Ctx) (r : Nat) (v : Handle) : (c.setH r v).fscope = c.fscope := rfl
@[simp] theorem Ctx.setH_owed (c : Ctx) (r : Nat) (v : Handle) : (c.setH r v).owed = c.owed := rfl
@[simp] theorem Ctx.setH_wreport (c : Ctx) (r : Nat) (v : Handle) : (c.setH r v).wreport = c.wreport := rfl
@[simp] theorem Ctx.setH_wait (c : Ctx) (r : Nat) (v : Handle) : (c.setH r v).wait = c.wait := rfl
@[simp] theorem Ctx.setH_run (c : Ctx) (r : Nat) (v : Handle) : (c.setH r v).run = c.run := rfl
@[simp] theorem Ctx.setH_chan (c : Ctx) (r : Nat) (v : Handle) : (c.setH r v).chan = c.chan := rfl
@[simp] theorem Ctx.setH_task (c : Ctx) (r : Nat) (v : Handle) : (c.setH r v).task = c.task := rfl
@[simp] theorem Ctx.setH_ended (c : Ctx) (r : Nat) (v : Handle) : (c.setH r v).ended = c.ended := rfl
@[simp] theorem Ctx.setH_trapDepth (c : Ctx) (r : Nat) (v : Handle) : (c.setH r v).trapDepth = c.trapDepth := rfl
@[simp] theorem Ctx.setH_ending (c : Ctx) (r : Nat) (v : Handle) : (c.setH r v).ending = c.ending := rfl
@[simp] theorem Ctx.setH_stopped (c : Ctx) (r : Nat) (v : Handle) : (c.setH r v).stopped = c.stopped := rfl
@[simp] theorem Ctx.setH_desched (c : Ctx) (r : Nat) (v : Handle) : (c.setH r v).desched = c.desched := rfl
@[simp] theorem Ctx.setH_preempt (c : Ctx) (r : Nat) (v : Handle) : (c.setH r v).preempt = c.preempt := rfl
@[simp] theorem Ctx.setH_reply (c : Ctx) (r : Nat) (v : Handle) : (c.setH r v).reply = c.reply := rfl
@[simp] theorem Ctx.setH_ltstat (c : Ctx) (r : Nat) (v : Handle) : (c.setH r v).ltstat = c.ltstat := rfl
@[simp] theorem Ctx.setH_plstat (c : Ctx) (r : Nat) (v : Handle) : (c.setH r v).plstat = c.plstat := rfl
@[simp] theorem Ctx.setH_lodSeen (c : Ctx) (r : Nat) (v : Handle) : (c.setH r v).lodSeen = c.lodSeen := rfl
@[simp] theorem Ctx.setH_runNo (c : Ctx) (r : Nat) (v : Handle) : (c.setH r v).runNo = c.runNo := rfl
@[simp] theorem Ctx.setH_due (c : Ctx) (r : Nat) (v : Handle) : (c.setH r v).due = c.due := rfl
@[simp] theorem Ctx.setH_adv (c : Ctx) (r : Nat) (v : Handle) : (c.setH r v).adv = c.adv := rfl

@[simp] theorem Ctx.getX_zero (c : Ctx) : c.getX 0 = 0 := rfl
@[simp] theorem Ctx.getP_zero (c : Ctx) : c.getP 0 = true := rfl

/-- A write to x[r] is read back, unless r is 0 (R88). -/
theorem Ctx.getX_setX_same (c : Ctx) (r : Nat) (v : Word) : (c.setX r v).getX r = if r = 0 then 0 else v := by
  by_cases h : r = 0 <;> simp [Ctx.setX, Ctx.getX, h]

@[simp] theorem Ctx.getX_setX_other (c : Ctx) (r q : Nat) (v : Word) (h : q ≠ r) : (c.setX r v).getX q = c.getX q := by
  by_cases g : r = 0 <;> simp [Ctx.setX, Ctx.getX, g, h]

@[simp] theorem Ctx.getX_setP (c : Ctx) (r q : Nat) (v : Bool) : (c.setP r v).getX q = c.getX q := by
  simp [Ctx.getX]
@[simp] theorem Ctx.getX_setH (c : Ctx) (r q : Nat) (v : Handle) : (c.setH r v).getX q = c.getX q := by
  simp [Ctx.getX]
@[simp] theorem Ctx.getP_setX (c : Ctx) (r q : Nat) (v : Word) : (c.setX r v).getP q = c.getP q := by
  simp [Ctx.getP]
@[simp] theorem Ctx.getP_setH (c : Ctx) (r q : Nat) (v : Handle) : (c.setH r v).getP q = c.getP q := by
  simp [Ctx.getP]
@[simp] theorem Ctx.getH_setX (c : Ctx) (r q : Nat) (v : Word) : (c.setX r v).getH q = c.getH q := by
  simp [Ctx.getH]
@[simp] theorem Ctx.getH_setP (c : Ctx) (r q : Nat) (v : Bool) : (c.setP r v).getH q = c.getH q := by
  simp [Ctx.getH]
@[simp] theorem Ctx.getH_setH_same (c : Ctx) (r : Nat) (v : Handle) : (c.setH r v).getH r = v := by
  simp [Ctx.setH, Ctx.getH]
@[simp] theorem Ctx.getH_setH_other (c : Ctx) (r q : Nat) (v : Handle) (h : q ≠ r) : (c.setH r v).getH q = c.getH q := by
  simp [Ctx.setH, Ctx.getH, h]

/-- A write to p[r] is read back, unless r is 0 (R88). -/
theorem Ctx.getP_setP_same (c : Ctx) (r : Nat) (v : Bool) (h : r < 8) : (c.setP r v).getP r = if r = 0 then true else v := by
  have : ∀ (p : BitVec 8) (r : Fin 8) (v : Bool),
      (if v then p ||| BitVec.ofNat 8 (2 ^ r.val) else p &&& ~~~(BitVec.ofNat 8 (2 ^ r.val))).getLsbD r.val = v := by
    decide +revert
  by_cases g : r = 0
  · simp [Ctx.getP, g]
  · simpa [Ctx.setP, Ctx.getP, g] using this c.p ⟨r, h⟩ v

@[simp] theorem Ctx.getP_setP_other (c : Ctx) (r q : Nat) (v : Bool) (hr : r < 8) (hq : q < 8) (h : q ≠ r) :
    (c.setP r v).getP q = c.getP q := by
  have : ∀ (p : BitVec 8) (r q : Fin 8) (v : Bool), q ≠ r →
      (if v then p ||| BitVec.ofNat 8 (2 ^ r.val) else p &&& ~~~(BitVec.ofNat 8 (2 ^ r.val))).getLsbD q.val
        = p.getLsbD q.val := by
    decide +revert
  by_cases g : r = 0 <;> by_cases f : q = 0 <;> simp [Ctx.setP, Ctx.getP, g, f]
  simpa using this c.p ⟨r, hr⟩ ⟨q, hq⟩ v (by simpa [Fin.ext_iff] using h)

end Sys2Proof.Machine
end

