-- ==== Sys2Proof/Laws/Ops.lean ====
section
/-! SUPPORT. Laws of the shared operations of Machine/Ops.lean: what moving past a word, landing results, completing a
word, waiting and the guards of a word each do. -/

namespace Sys2Proof.Machine

/-! ## Landing results -/

/-- With nothing pending, a step lands nothing. -/
@[simp] theorem Ctx.landBy_nil (c : Ctx) (n : Nat) (h : c.pend = []) : c.landBy n = c := by
  obtain ⟨⟩ := c; simp only at h; subst h; rfl

theorem Ctx.landAll_nil (c : Ctx) (h : c.pend = []) : c.landAll = c := by
  have k : ∀ (l : List Nat), l.foldl (fun d i => d.landBy (d.stepNo + i)) c = c := by
    intro l; induction l with
    | nil => rfl
    | cons a l ih => simpa [h] using ih
  unfold Ctx.landAll; simp only [h, List.foldl_nil, Nat.zero_add, k]
  clear k; cases c; simp only at h; subst h; rfl

/-- What one register write leaves: it writes x, p, h or f, and nothing else. -/
theorem RegWrite.apply_rest (c : Ctx) (w : RegWrite) :
    ∃ x p h f, w.apply c = { c with x := x, p := p, h := h, f := f } := by
  cases w with
  | x r v => exact ⟨(c.setX r v).x, c.p, c.h, c.f, by simp only [RegWrite.apply, Ctx.setX]; split <;> rfl⟩
  | p r v => exact ⟨c.x, (c.setP r v).p, c.h, c.f, by simp only [RegWrite.apply, Ctx.setP]; split <;> rfl⟩
  | h r v => exact ⟨c.x, c.p, (c.setH r v).h, c.f, rfl⟩
  | f r v => exact ⟨c.x, c.p, c.h, SMap.set c.f r v, rfl⟩

theorem landFold_rest (l : List Pending) (c : Ctx) :
    ∃ x p h f, l.foldl (fun c q => q.wr.apply c) c = { c with x := x, p := p, h := h, f := f } := by
  induction l generalizing c with
  | nil => exact ⟨c.x, c.p, c.h, c.f, rfl⟩
  | cons q l ih =>
    obtain ⟨x, p, h, f, e⟩ := RegWrite.apply_rest c q.wr
    obtain ⟨x', p', h', f', e'⟩ := ih (q.wr.apply c)
    exact ⟨x', p', h', f', by simp only [List.foldl_cons, e']; rw [e]⟩

/-- Landing writes x, p, h, f and what is pending, and nothing else of a context. -/
theorem Ctx.landBy_rest (c : Ctx) (n : Nat) :
    ∃ x p h f, c.landBy n = { c with x := x, p := p, h := h, f := f, pend := c.pend.filter (fun q => decide (n < q.due)) } := by
  obtain ⟨x, p, h, f, e⟩ := landFold_rest (c.pend.filter (fun q => decide (q.due ≤ n))) c
  exact ⟨x, p, h, f, by simp only [Ctx.landBy, e]⟩

theorem landFold_getX (l : List Pending) (c : Ctx) (r : Nat) (h : ∀ q ∈ l, ∀ v, q.wr ≠ .x r v) :
    (l.foldl (fun c q => q.wr.apply c) c).getX r = c.getX r := by
  induction l generalizing c with
  | nil => rfl
  | cons q l ih =>
    rw [List.foldl_cons, ih _ (fun q' hq => h q' (List.mem_cons_of_mem _ hq))]
    have hq := h q (List.mem_cons_self ..)
    cases e : q.wr with
    | x a v => have : r ≠ a := fun g => hq v (by rw [e, g])
               simp [RegWrite.apply, this]
    | p a v => simp [RegWrite.apply]
    | h a v => simp [RegWrite.apply]
    | f a v => rfl

/-- An x register that no pending write names keeps its value when results land. -/
theorem Ctx.landBy_getX (c : Ctx) (n r : Nat) (h : ∀ q ∈ c.pend, ∀ v, q.wr ≠ .x r v) :
    (c.landBy n).getX r = c.getX r :=
  landFold_getX _ c r (fun q hq => h q (List.mem_filter.mp hq).1)

/-! ## Moving past a word -/

/-- Moving past a word changes the block position, spends the prefixes and ends a wait, and nothing else. -/
theorem Ctx.advance_rest (c : Ctx) (n : Nat) : ∃ b, c.advance n = { c with blk := b, imx := [], wait := none } := ⟨_, rfl⟩

@[simp] theorem Ctx.advance_getX (c : Ctx) (n r : Nat) : (c.advance n).getX r = c.getX r := rfl
@[simp] theorem Ctx.advance_getP (c : Ctx) (n r : Nat) : (c.advance n).getP r = c.getP r := rfl
@[simp] theorem Ctx.advance_getH (c : Ctx) (n r : Nat) : (c.advance n).getH r = c.getH r := rfl
@[simp] theorem Ctx.advance_pend (c : Ctx) (n : Nat) : (c.advance n).pend = c.pend := rfl
@[simp] theorem Ctx.advance_stepNo (c : Ctx) (n : Nat) : (c.advance n).stepNo = c.stepNo := rfl
@[simp] theorem Ctx.advance_imx (c : Ctx) (n : Nat) : (c.advance n).imx = [] := rfl
@[simp] theorem Ctx.advance_wait (c : Ctx) (n : Nat) : (c.advance n).wait = none := rfl
@[simp] theorem Ctx.advance_sys (c : Ctx) (n : Nat) : (c.advance n).sys = c.sys := rfl

/-- The three ways on from a word (R66). -/
theorem Ctx.advance_within (c : Ctx) (n : Nat) (h : c.blk.pc + n < c.blk.hdr + 4 + 2 * c.blk.len) :
    (c.advance n).blk = { c.blk with pc := c.blk.pc + n } := by simp [Ctx.advance, h]
theorem Ctx.advance_again (c : Ctx) (n : Nat) (h : c.blk.hdr + 4 + 2 * c.blk.len ≤ c.blk.pc + n)
    (g : c.blk.iter < c.blk.rep) :
    (c.advance n).blk = { c.blk with pc := c.blk.hdr + 4, iter := c.blk.iter + 1 } := by
  simp [Ctx.advance, Nat.not_lt.mpr h, g]
theorem Ctx.advance_past (c : Ctx) (n : Nat) (h : c.blk.hdr + 4 + 2 * c.blk.len ≤ c.blk.pc + n)
    (g : c.blk.rep ≤ c.blk.iter) :
    (c.advance n).blk = { c.blk with pc := c.blk.hdr + 4 + 2 * c.blk.len, entering := true, ft := true, iter := 0 } := by
  simp [Ctx.advance, Nat.not_lt.mpr h, Nat.not_lt.mpr g]

/-! ## Completing a word -/

@[simp] theorem retire_me (s : State) (n : Nat) : (retire s n).me = (s.me.advance n).tickStep := by
  simp [retire, State.me]
@[simp] theorem retire_ctx_other (s : State) (n : Nat) (c : CtxId) (h : c ≠ s.cur) : (retire s n).ctx c = s.ctx c := by
  simp [retire, h]
@[simp] theorem retire_die (s : State) (n : Nat) (d : DieId) : (retire s n).die d = s.die d := rfl
@[simp] theorem retire_core (s : State) (n : Nat) (k : CoreId) : (retire s n).core k = s.core k := rfl
@[simp] theorem retire_pkg (s : State) (n : Nat) (p : PkgId) : (retire s n).pkg p = s.pkg p := rfl
@[simp] theorem retire_mem (s : State) (n : Nat) : (retire s n).mem = s.mem := rfl
@[simp] theorem retire_pkgs (s : State) (n : Nat) : (retire s n).pkgs = s.pkgs := rfl
@[simp] theorem retire_dies (s : State) (n : Nat) : (retire s n).dies = s.dies := rfl
@[simp] theorem retire_cores (s : State) (n : Nat) : (retire s n).cores = s.cores := rfl
@[simp] theorem retire_dir (s : State) (n : Nat) : (retire s n).dir = s.dir := rfl
@[simp] theorem retire_dirty (s : State) (n : Nat) : (retire s n).dirty = s.dirty := rfl
@[simp] theorem retire_scopes (s : State) (n : Nat) : (retire s n).scopes = s.scopes := rfl
@[simp] theorem retire_bmsgs (s : State) (n : Nat) : (retire s n).bmsgs = s.bmsgs := rfl
@[simp] theorem retire_orphans (s : State) (n : Nat) : (retire s n).orphans = s.orphans := rfl
@[simp] theorem retire_cmsgs (s : State) (n : Nat) : (retire s n).cmsgs = s.cmsgs := rfl
@[simp] theorem retire_hits (s : State) (n : Nat) : (retire s n).hits = s.hits := rfl
@[simp] theorem retire_ue (s : State) (n : Nat) : (retire s n).ue = s.ue := rfl
@[simp] theorem retire_absent (s : State) (n : Nat) : (retire s n).absent = s.absent := rfl
@[simp] theorem retire_now (s : State) (n : Nat) : (retire s n).now = s.now := rfl
@[simp] theorem retire_cur (s : State) (n : Nat) : (retire s n).cur = s.cur := rfl
@[simp] theorem retire_agenda (s : State) (n : Nat) : (retire s n).agenda = s.agenda := rfl

/-- Completing a word with one result: the register file, the step and the block move; nothing else. -/
@[simp] theorem finish_me (s : State) (n lat : Nat) (w : RegWrite) :
    (finish s n lat w).me = ((s.me.put lat w).advance n).tickStep := by
  simp [finish]
@[simp] theorem finish_ctx_other (s : State) (n lat : Nat) (w : RegWrite) (c : CtxId) (h : c ≠ s.cur) :
    (finish s n lat w).ctx c = s.ctx c := by
  rw [finish, retire_ctx_other _ _ _ (by simpa using h), State.modMe_ctx_other _ _ _ h]
@[simp] theorem finish_die (s : State) (n lat : Nat) (w : RegWrite) (d : DieId) : (finish s n lat w).die d = s.die d := rfl
@[simp] theorem finish_core (s : State) (n lat : Nat) (w : RegWrite) (k : CoreId) : (finish s n lat w).core k = s.core k := rfl
@[simp] theorem finish_mem (s : State) (n lat : Nat) (w : RegWrite) : (finish s n lat w).mem = s.mem := rfl
@[simp] theorem finish_pkgs (s : State) (n lat : Nat) (w : RegWrite) : (finish s n lat w).pkgs = s.pkgs := rfl
@[simp] theorem finish_dies (s : State) (n lat : Nat) (w : RegWrite) : (finish s n lat w).dies = s.dies := rfl
@[simp] theorem finish_cores (s : State) (n lat : Nat) (w : RegWrite) : (finish s n lat w).cores = s.cores := rfl
@[simp] theorem finish_dir (s : State) (n lat : Nat) (w : RegWrite) : (finish s n lat w).dir = s.dir := rfl
@[simp] theorem finish_dirty (s : State) (n lat : Nat) (w : RegWrite) : (finish s n lat w).dirty = s.dirty := rfl
@[simp] theorem finish_scopes (s : State) (n lat : Nat) (w : RegWrite) : (finish s n lat w).scopes = s.scopes := rfl
@[simp] theorem finish_bmsgs (s : State) (n lat : Nat) (w : RegWrite) : (finish s n lat w).bmsgs = s.bmsgs := rfl
@[simp] theorem finish_orphans (s : State) (n lat : Nat) (w : RegWrite) : (finish s n lat w).orphans = s.orphans := rfl
@[simp] theorem finish_cmsgs (s : State) (n lat : Nat) (w : RegWrite) : (finish s n lat w).cmsgs = s.cmsgs := rfl
@[simp] theorem finish_hits (s : State) (n lat : Nat) (w : RegWrite) : (finish s n lat w).hits = s.hits := rfl
@[simp] theorem finish_ue (s : State) (n lat : Nat) (w : RegWrite) : (finish s n lat w).ue = s.ue := rfl
@[simp] theorem finish_absent (s : State) (n lat : Nat) (w : RegWrite) : (finish s n lat w).absent = s.absent := rfl
@[simp] theorem finish_now (s : State) (n lat : Nat) (w : RegWrite) : (finish s n lat w).now = s.now := rfl
@[simp] theorem finish_cur (s : State) (n lat : Nat) (w : RegWrite) : (finish s n lat w).cur = s.cur := rfl
@[simp] theorem finish_agenda (s : State) (n lat : Nat) (w : RegWrite) : (finish s n lat w).agenda = s.agenda := rfl

/-- A step with nothing pending only counts. -/
theorem Ctx.tickStep_nil (c : Ctx) (h : c.pend = []) : c.tickStep = { c with stepNo := c.stepNo + 1 } := by
  simp [Ctx.tickStep, h]

/-! ## The guards of a word -/

theorem word_issues (s : State) (p : Pred) (body : State → State) (h : s.me.imx = []) (g : s.me.holds p = true) :
    word s p body = body s := by simp [word, h, g]
theorem word_off (s : State) (p : Pred) (body : State → State) (h : s.me.imx = []) (g : s.me.holds p = false) :
    word s p body = retire s 4 := by simp [word, h, g]
theorem word_prefixed (s : State) (p : Pred) (body : State → State) (m : BitVec 26) (l : List (BitVec 26))
    (h : s.me.imx = m :: l) : word s p body = trap s 0x01 (21 + 64 * m.toNat) := by simp [word, h]
theorem wordImm_issues (s : State) (p : Pred) (body : State → State) (g : s.me.holds p = true) :
    wordImm s p body = body s := by simp [wordImm, g]
theorem wordImm_off (s : State) (p : Pred) (body : State → State) (g : s.me.holds p = false) :
    wordImm s p body = retire s 4 := by simp [wordImm, g]
theorem word16_issues (s : State) (body : State → State) (h : s.me.imx = []) : word16 s body = body s := by
  simp [word16, h]

/-- A wait changes the running context's wait only. -/
theorem waitFor_rest (s : State) (w : Wait) :
    ∃ a b, waitFor s w = s.modMe (fun c => { c with wait := a, lodSeen := b }) := by
  cases h : s.me.wait with
  | none => exact ⟨some ⟨w, s.now⟩, false, by simp only [waitFor, State.modMe, State.modCtx, State.me] at h ⊢; rw [h]⟩
  | some old =>
    by_cases g : old.kind = w
    · refine ⟨s.me.wait, s.me.lodSeen, ?_⟩
      simp only [waitFor, State.modMe, State.modCtx, State.me] at h ⊢; rw [h]; simp only [g, if_true]
      rw [← h]
    · exact ⟨some ⟨w, w.sinceOf old s.now⟩, s.me.lodSeen, by
        simp only [waitFor, State.modMe, State.modCtx, State.me] at h ⊢; rw [h]; simp [g]⟩

end Sys2Proof.Machine
end

