-- ==== Sys2Proof/Laws/Fetch.lean ====
section
/-! SUPPORT. Laws of instruction fetch and trap entry: a fetch may fill the die's lease table and set LTSTAT of the
fetching context, and changes nothing else; taking a trap saves what R108 names. -/

namespace Sys2Proof.Machine

/-- What a fetch by context c may change: lease tables, and LTSTAT of c. -/
structure FetchedBy (c : CtxId) (s t : State) : Prop where
  mem : t.mem = s.mem
  pkgs : t.pkgs = s.pkgs
  cores : t.cores = s.cores
  cur : t.cur = s.cur
  now : t.now = s.now
  other : ∀ k, k ≠ c → t.ctx k = s.ctx k
  own : ∃ v, t.ctx c = { s.ctx c with ltstat := v }

theorem FetchedBy.refl (c : CtxId) (s : State) : FetchedBy c s s :=
  ⟨rfl, rfl, rfl, rfl, rfl, fun _ _ => rfl, ⟨(s.ctx c).ltstat, rfl⟩⟩

theorem FetchedBy.trans {c : CtxId} {s t u : State} (a : FetchedBy c s t) (b : FetchedBy c t u) : FetchedBy c s u := by
  obtain ⟨v, hv⟩ := a.own
  obtain ⟨w, hw⟩ := b.own
  exact ⟨b.mem.trans a.mem, b.pkgs.trans a.pkgs, b.cores.trans a.cores, b.cur.trans a.cur, b.now.trans a.now,
    fun k h => (b.other k h).trans (a.other k h), ⟨w, by rw [hw, hv]⟩⟩

/-- A fill changes only lease tables. -/
theorem fillPage_rest (s : State) (d : DieId) (asid va : Nat) :
    ∃ dies, (fillPage s d asid va).1 = { s with dies := dies } := by
  unfold fillPage
  repeat' split
  all_goals exact ⟨_, rfl⟩

theorem fetchAddr_by (s : State) (c : CtxId) (va : Nat) : FetchedBy c s (fetchAddr s c va).1 := by
  have fill : ∀ (d : DieId) (asid va : Nat),
      FetchedBy c s ((fillPage s d asid va).1.modCtx c (fun x => { x with ltstat := (fillPage s d asid va).2 })) := by
    intro d asid va
    obtain ⟨dies, e⟩ := fillPage_rest s d asid va
    refine ⟨?_, ?_, ?_, ?_, ?_, ?_, ?_⟩
    iterate 5 simp [e]
    · intro k h; simp [h]; rw [e]; rfl
    · have k : (fillPage s d asid va).1.ctx c = s.ctx c := by rw [e]; rfl
      exact ⟨(fillPage s d asid va).2, by rw [State.modCtx_ctx_same, k]⟩
  simp only [fetchAddr]
  repeat' split
  all_goals first
    | exact .refl c s
    | exact fill _ _ _

theorem fetchParcel_by (s : State) (c : CtxId) (va : Nat) : FetchedBy c s (fetchParcel s c va).1 := by
  have h := fetchAddr_by s c va
  unfold fetchParcel
  split <;> simp_all

theorem fetchParcels_by (s : State) (c : CtxId) (va n : Nat) : FetchedBy c s (fetchParcels s c va n).1 := by
  induction n generalizing s va with
  | zero => exact .refl c s
  | succ n ih =>
    have h := fetchParcel_by s c va
    unfold fetchParcels
    split
    · simp_all
    · next s' p e =>
      rw [e] at h
      have g := ih s' (va + 2)
      split <;> next e' => rw [e'] at g; exact h.trans g

theorem fetchWord_by (s : State) (c : CtxId) (va : Nat) : FetchedBy c s (fetchWord s c va).1 := by
  have h := fetchParcel_by s c va
  unfold fetchWord
  split
  · simp_all
  · next s' p e =>
    rw [e] at h
    split
    · have g := fetchParcel_by s' c (va + 2)
      split <;> next e' => rw [e'] at g; exact h.trans g
    · exact h

theorem fetchHeader_by (s : State) (c : CtxId) (va : Nat) : FetchedBy c s (fetchHeader s c va).1 := by
  have g : FetchedBy c s (fetchHeader.fetched s c va).1 := by
    have h := fetchParcel_by s c va
    unfold fetchHeader.fetched
    split
    · simp_all
    · next s' p e =>
      rw [e] at h
      split
      · have g := fetchParcel_by s' c (va + 2)
        split <;> next e' => rw [e'] at g; exact h.trans g
      · exact h
  unfold fetchHeader
  split
  · split
    · exact .refl c s
    · exact g
  · exact g

theorem checkTarget_by (s : State) (c : CtxId) (tgt : Nat) : FetchedBy c s (checkTarget s c tgt).1 := by
  have h := fetchHeader_by s c tgt
  unfold checkTarget
  split
  · exact .refl c s
  · split
    · simp_all
    · simp_all
    · split <;> simp_all

/-- Recording an event changes a package only. -/
theorem record_rest (s : State) (p : PkgId) (source code payload : Nat) :
    ∃ k, record s p source code payload = { s with pkgs := k } := ⟨_, rfl⟩

/-- The context as a trap leaves it before its handler's header is checked (R108). -/
def Ctx.trapped (x : Ctx) (code eva : Nat) (skip fetch : Bool) : Ctx :=
  { x with
    sys := { x.sys with
      epc := wordOf x.wordPc
      ehdr := wordOf (if x.blk.entering then x.blk.pc else x.blk.hdr)
      eitr := wordOf (if x.blk.entering then (if x.blk.ft then 4096 else 0) + x.blk.iter else x.blk.iter)
      cause := wordOf (code + (if fetch then 256 else 0)), eva := wordOf eva
      ppl := x.sys.pl, pie := x.sys.ie, skip := skip, pl := true, ie := false }
    imx := [], wait := none, reply := none, trapDepth := x.trapDepth + 1, ending := x.ending || code == 0x11 }

/-- Everything that taking a trap does: the context is as `trapped` says, LTSTAT aside, and stands before its handler's
header, or has stopped where TVEC fails its check, an event recorded; nothing else of the machine changes but lease
tables. -/
theorem enterTrap_spec (s : State) (c : CtxId) (code eva : Nat) (skip fetch : Bool) :
    let x := (s.ctx c).landAll.trapped code eva skip fetch
    let t := enterTrap s c code eva skip fetch
    t.mem = s.mem ∧ t.cur = s.cur ∧ t.now = s.now ∧ t.cores = s.cores ∧ (∀ k, k ≠ c → t.ctx k = s.ctx k)
    ∧ ∃ v, (t.ctx c = { x.goTo x.sys.tvec.toNat false with ltstat := v } ∧ t.pkgs = s.pkgs ∧ x.sys.tvec.toNat % 2 = 0)
        ∨ t.ctx c = { x with stopped := true, ltstat := v } := by
  intro x t
  have ht : t = match checkTarget (s.modCtx c (fun _ => x)) c x.sys.tvec.toNat with
      | (s2, .ok _) => s2.modCtx c (fun y => y.goTo x.sys.tvec.toNat false)
      | (s2, .error _) =>
        record (s2.modCtx c (fun y => { y with stopped := true })) (pkgOf (dieOf c)) (dieSource (dieOf c)) 1 (coreId s2 c) :=
    rfl
  have h := checkTarget_by (s.modCtx c (fun _ => x)) c x.sys.tvec.toNat
  have odd : x.sys.tvec.toNat % 2 = 1 →
      checkTarget (s.modCtx c (fun _ => x)) c x.sys.tvec.toNat = (s.modCtx c (fun _ => x), .error (0x02, x.sys.tvec.toNat, false)) := by
    intro g; simp [checkTarget, g]
  clear_value t
  subst ht
  obtain ⟨v, hv⟩ := h.own
  simp only [State.modCtx_ctx_same] at hv
  split
  · next s2 u e =>
    rw [e] at h hv
    refine ⟨by simpa using h.mem, by simpa using h.cur, by simpa using h.now, by simpa using h.cores, ?_, v, .inl ?_⟩
    · intro k hk; simpa [hk] using h.other k hk
    · refine ⟨by simp only [State.modCtx_ctx_same, hv]; rfl, by simpa using h.pkgs, ?_⟩
      rcases Nat.mod_two_eq_zero_or_one x.sys.tvec.toNat with g | g
      · exact g
      · rw [odd g] at e; simp at e
  · next s2 u e =>
    rw [e] at h hv
    refine ⟨by simpa [record] using h.mem, by simpa [record] using h.cur, by simpa [record] using h.now,
      by simpa [record] using h.cores, ?_, v, .inr ?_⟩
    · intro k hk; simpa [record, hk] using h.other k hk
    · simp only [record, State.modPkg_ctx, State.modCtx_ctx_same, hv]

/-- A trap is taken at once while no host owns a region that its handler's header is read from, or is held (R284). -/
theorem trapEntry_enters (s : State) (c : CtxId) (code eva : Nat) (skip fetch : Bool)
    (h : headerWait s c (s.ctx c).sys.tvec.toNat = none) :
    trapEntry s c code eva skip fetch = enterTrap s c code eva skip fetch := by
  unfold trapEntry; rw [h]
theorem trapEntry_holds (s : State) (c : CtxId) (code eva : Nat) (skip fetch : Bool) (w : Wait)
    (h : headerWait s c (s.ctx c).sys.tvec.toNat = some w) :
    trapEntry s c code eva skip fetch
      = s.modCtx c (fun x => { x with held := some ⟨code, eva, skip, fetch⟩, wait := some ⟨w, s.now⟩ }) := by
  unfold trapEntry; rw [h]

/-- A trap, taken or held, leaves memory, time and every other context. -/
theorem trapEntry_rest (s : State) (c : CtxId) (code eva : Nat) (skip fetch : Bool) :
    let t := trapEntry s c code eva skip fetch
    t.mem = s.mem ∧ t.cur = s.cur ∧ t.now = s.now ∧ t.cores = s.cores ∧ (∀ k, k ≠ c → t.ctx k = s.ctx k) := by
  cases h : headerWait s c (s.ctx c).sys.tvec.toNat with
  | none =>
    rw [trapEntry_enters s c code eva skip fetch h]
    obtain ⟨a, b, d, e, f, -⟩ := enterTrap_spec s c code eva skip fetch
    exact ⟨a, b, d, e, f⟩
  | some w =>
    rw [trapEntry_holds s c code eva skip fetch w h]
    exact ⟨rfl, rfl, rfl, rfl, fun k hk => by simp [hk]⟩

end Sys2Proof.Machine
end

