-- ==== Sys2Proof/Laws/Memory.lean ====
section
/-! SUPPORT. Every operation of the memory system keeps the memory in its canonical form. -/

namespace Sys2Proof.Machine

/-- The memory of the state after reset lists nothing. -/
theorem reset_mem_wf : Mem.wf State.reset.mem = true := rfl

/-- An operation that leaves memory alone keeps its form. -/
theorem Sound_of_mem_eq {s t : State} (e : t.mem = s.mem) (h : s.Sound) : t.Sound := by
  unfold State.Sound at *; rw [e]; exact h

/-- A state whose memory is another's with some bytes written. -/
theorem Sound_setBytes {s : State} (g : Nat) (bs : List Byte) (h : s.Sound) :
    State.Sound { s with mem := Mem.setBytes s.mem g bs } := Mem.wf_setBytes g bs h
theorem Sound_set {s : State} (g : Nat) (b : Byte) (h : s.Sound) : State.Sound { s with mem := Mem.set s.mem g b } :=
  Mem.wf_set g b h
theorem forwardByte_wf (dies : SMap Die) (m : List Host.Cell) (g : Nat) (b : Byte) (h : Mem.wf m = true) :
    Mem.wf (forwardByte dies m g b) = true := by
  unfold forwardByte
  induction dies generalizing m with
  | nil => exact h
  | cons e l ih =>
    rw [List.foldl_cons]
    apply ih
    dsimp only
    split
    · exact Mem.wf_set _ _ h
    · exact h
theorem forwardBytes_wf (dies : SMap Die) (bs : List Byte) : ∀ (m : List Host.Cell) (g : Nat), Mem.wf m = true →
    Mem.wf (forwardBytes dies m g bs) = true := by
  induction bs with
  | nil => exact fun _ _ h => h
  | cons b l ih => exact fun m g h => ih _ _ (forwardByte_wf dies m g b h)
theorem put_Sound {s : State} (g : Nat) (bs : List Byte) (h : s.Sound) : (s.put g bs).Sound :=
  forwardBytes_wf _ _ _ _ (Mem.wf_setBytes g bs h)
theorem poke_Sound {s : State} (g n v : Nat) (h : s.Sound) : (s.poke g n v).Sound := put_Sound g _ h

/-- A fold of steps that each keep the form keeps it. -/
theorem foldl_Sound {α : Type} {f : State → α → State} (hf : ∀ s a, s.Sound → (f s a).Sound) (l : List α) :
    ∀ s : State, s.Sound → (l.foldl f s).Sound := by
  induction l with
  | nil => exact fun _ h => h
  | cons a l ih => exact fun s h => ih _ (hf s a h)

/-! ## Lines -/

@[simp] theorem l2Mod_mem (s : State) (line : Nat) (f : L2Line → L2Line) : (l2Mod s line f).mem = s.mem := rfl
@[simp] theorem l2Fill_mem (s : State) (line : Nat) : (l2Fill s line).mem = s.mem := rfl
@[simp] theorem l2Write_mem (s : State) (line : Nat) (m : BitVec 32) : (l2Write s line m).mem = s.mem := rfl
@[simp] theorem setDir_mem (s : State) (line : Nat) (e : DirLine) : (setDir s line e).mem = s.mem := rfl
@[simp] theorem shareLine_mem (s : State) (line : Nat) : (shareLine s line).mem = s.mem := rfl
@[simp] theorem writeBack_mem (s : State) (line : Nat) : (writeBack s line).mem = s.mem := by
  unfold writeBack; split <;> rfl
@[simp] theorem l1Drop_mem (s : State) (k : CoreId) (line : Nat) : (l1Drop s k line).mem = s.mem := by
  simp only [l1Drop]
  repeat' split
  all_goals simp

/-- A fold of steps that each leave memory leaves it. -/
theorem foldl_mem {α : Type} {f : State → α → State} (hf : ∀ s a, (f s a).mem = s.mem) (l : List α) :
    ∀ s : State, (l.foldl f s).mem = s.mem := by
  induction l with
  | nil => exact fun _ => rfl
  | cons a l ih => exact fun s => (ih _).trans (hf s a)

@[simp] theorem purgeLine_mem (s : State) (keep : Option CoreId) (line : Nat) : (purgeLine s keep line).mem = s.mem := by
  unfold purgeLine
  refine (foldl_mem (fun s k => ?_) _ _).trans ?_
  · split
    · rfl
    · exact l1Drop_mem _ _ _
  · repeat' split
    all_goals simp
@[simp] theorem homePurge_mem (s : State) (line : Nat) : (homePurge s line).mem = s.mem := by simp [homePurge]
@[simp] theorem recallDirty_mem (s : State) (line : Nat) : (recallDirty s line).mem = s.mem := by
  unfold recallDirty; split <;> simp
@[simp] theorem dropCopy_mem (s : State) (k : CoreId) (line : Nat) : (dropCopy s k line).mem = s.mem := by
  simp [dropCopy]
@[simp] theorem acquireCore_mem (s : State) (k : CoreId) : (acquireCore s k).mem = s.mem := rfl
@[simp] theorem acquire_mem (s : State) : (acquire s).mem = s.mem := rfl
@[simp] theorem patchSi_mem (s : State) (k : CoreId) (g : Nat) (bs : List Byte) : (patchSi s k g bs).mem = s.mem := by
  simp only [patchSi]; split <;> rfl

/-! ## Deltas -/

/-- A mark of the dirty bitmap keeps the form. -/
abbrev KeepsForm (mark : State → Nat → Nat → State) : Prop := ∀ s asid g, State.Sound s → State.Sound (mark s asid g)

theorem markBit_Sound : KeepsForm markBit := by
  intro s asid g h
  simp only [markBit]
  repeat' split
  all_goals first | exact h | exact poke_Sound _ _ _ (Sound_of_mem_eq (by simp) h)

theorem mergeDeltaBy_Sound {mark : State → Nat → Nat → State} (hm : KeepsForm mark) (s : State) (k : CoreId) (d : Delta)
    (h : s.Sound) : (mergeDeltaBy mark s k d).Sound := by
  simp only [mergeDeltaBy]
  split
  · exact h
  · refine Sound_of_mem_eq rfl (put_Sound _ _ (foldl_Sound (fun s w h => hm s _ _ h) _ _ ?_))
    exact Sound_of_mem_eq (by simp) h

theorem mergeCoreBy_Sound {mark : State → Nat → Nat → State} (hm : KeepsForm mark) (f : Delta → Bool) (s : State) (k : CoreId)
    (h : s.Sound) : (mergeCoreBy mark f s k).Sound := by
  refine foldl_Sound (fun s d h => mergeDeltaBy_Sound hm s k d h) _ _ ?_
  split
  · exact Sound_of_mem_eq rfl h
  · exact h

theorem mergeAllBy_Sound {mark : State → Nat → Nat → State} (hm : KeepsForm mark) (f : Delta → Bool) (s : State)
    (h : s.Sound) : (mergeAllBy mark f s).Sound := foldl_Sound (fun s k h => mergeCoreBy_Sound hm f s k h) _ s h

theorem markDirty_Sound : KeepsForm markDirty := fun s _ _ h =>
  markBit_Sound _ _ _ (foldl_Sound (fun s _ h => mergeAllBy_Sound markBit_Sound _ s h) _ s h)

theorem mergeDelta_Sound (s : State) (k : CoreId) (d : Delta) (h : s.Sound) : (mergeDelta s k d).Sound :=
  mergeDeltaBy_Sound markDirty_Sound s k d h
theorem mergeCore_Sound (s : State) (k : CoreId) (line : Nat) (h : s.Sound) : (mergeCore s k line).Sound :=
  mergeCoreBy_Sound markDirty_Sound _ s k h
theorem mergeAll_Sound (s : State) (line : Nat) (h : s.Sound) : (mergeAll s line).Sound :=
  mergeAllBy_Sound markDirty_Sound _ s h
theorem mergeEvery_Sound (s : State) (h : s.Sound) : (mergeEvery s).Sound := mergeAllBy_Sound markDirty_Sound _ s h
theorem mergeOwn_Sound (s : State) (c : CtxId) (h : s.Sound) : (mergeOwn s c).Sound := mergeAllBy_Sound markDirty_Sound _ s h

/-! ## Writes at the home -/

theorem homeWrite_Sound (s : State) (who : Writer) (asid g : Nat) (bs : List Byte) (h : s.Sound) :
    (homeWrite s who asid g bs).Sound := by
  have h1 : (match who with | .host _ => s | _ => markDirty s asid g).Sound := by
    split
    · exact h
    · exact markDirty_Sound s asid g h
  exact Sound_of_mem_eq rfl (put_Sound g bs h1)

/-! ## Room in an L1 -/

theorem l1Evict_Sound (s : State) (k : CoreId) (line : Nat) (h : s.Sound) : (l1Evict s k line).Sound :=
  Sound_of_mem_eq (by simp [l1Evict]) (mergeCore_Sound s k line h)

theorem l1Room_Sound (s : State) (k : CoreId) (line : Nat) (h : s.Sound) : (l1Room s k line).Sound := by
  simp only [l1Room]
  repeat' split
  all_goals first | exact h | exact l1Evict_Sound _ _ _ (Sound_of_mem_eq rfl h)

theorem evictLine_Sound (s : State) (d : DieId) (line : Nat) (h : s.Sound) : (evictLine s d line).Sound := by
  have h1 := foldl_Sound (f := fun s k => l1Evict s k line) (fun s k h => l1Evict_Sound s k line h)
    ((s.cores.map (fun e => e.1)).filter (fun k => dieOfCore k == d)) s h
  refine Sound_of_mem_eq ?_ h1
  simp only [evictLine, setDir_mem, State.modDie_mem]
  repeat' split
  all_goals simp

theorem noteSnoop_Sound (s : State) (k : CoreId) (line : Nat) (h : s.Sound) : (noteSnoop s k line).Sound := by
  simp only [noteSnoop]
  split
  · exact h
  · refine Sound_of_mem_eq (State.modDie_mem _ _ _) ?_
    repeat' split
    all_goals first | exact h | exact evictLine_Sound _ _ _ h

theorem l1Enter_Sound (s : State) (k : CoreId) (line : Nat) (own : Bool) (h : s.Sound) : (l1Enter s k line own).Sound :=
  noteSnoop_Sound _ _ _ (Sound_of_mem_eq rfl (l1Room_Sound s k line h))

/-! ## Writes of a context -/

theorem performWrite_Sound (s : State) (who : Writer) (k : CoreId) (asid : Nat) (rt : Rt) (nt : Bool) (g : Nat)
    (bs : List Byte) (h : s.Sound) : (performWrite s who k asid rt nt g bs).Sound := by
  have h0 := mergeAll_Sound s (lineOf g) h
  simp only [performWrite]
  generalize mergeAll s (lineOf g) = u at h0
  split
  · refine homeWrite_Sound _ _ _ _ _ (Sound_of_mem_eq (setDir_mem _ _ _) (Sound_of_mem_eq rfl (l1Enter_Sound _ _ _ _ ?_)))
    exact Sound_of_mem_eq (purgeLine_mem _ _ _) h0
  · refine homeWrite_Sound _ _ _ _ _ (Sound_of_mem_eq ?_ h0)
    split <;> simp
  · refine Sound_of_mem_eq (patchSi_mem _ _ _ _) (homeWrite_Sound _ _ _ _ _ (Sound_of_mem_eq ?_ h0))
    repeat' split
    all_goals simp

theorem performBytes_Sound (s : State) (who : Writer) (k : CoreId) (asid : Nat) (rt : Rt) (nt : Bool) (g : Nat)
    (bs : List Byte) (h : s.Sound) : (performBytes s who k asid rt nt g bs).Sound := by
  simp only [performBytes]
  split
  · exact performWrite_Sound _ _ _ _ _ _ _ _ h
  · split
    · exact performWrite_Sound _ _ _ _ _ _ _ _ (performWrite_Sound _ _ _ _ _ _ _ _ h)
    · exact foldl_Sound (fun s i h => performWrite_Sound _ _ _ _ _ _ _ _ h) _ _
        (performWrite_Sound _ _ _ _ _ _ _ _ (performWrite_Sound _ _ _ _ _ _ _ _ h))

theorem performStore_Sound (s : State) (c : CtxId) (b : BufStore) (h : s.Sound) : (performStore s c b).Sound := by
  simp only [performStore]
  split
  · exact Sound_of_mem_eq rfl h
  · exact Sound_of_mem_eq rfl (foldl_Sound (fun s p h => performWrite_Sound _ _ _ _ _ _ _ _ h) b.parts
      { s with hits := [] } (Sound_of_mem_eq rfl h))

theorem performNth_Sound (s : State) (c : CtxId) (i : Nat) (h : s.Sound) : (performNth s c i).Sound := by
  simp only [performNth]
  split
  · split
    · exact performStore_Sound _ _ _ (Sound_of_mem_eq rfl h)
    · exact h
  · exact h

theorem drain_Sound (s : State) (c : CtxId) (h : s.Sound) : (drain s c).Sound :=
  foldl_Sound (fun s b h => performStore_Sound s c b h) _ _ (Sound_of_mem_eq rfl h)

theorem drainFree_Sound (s : State) (c : CtxId) (h : s.Sound) : (drainFree s c).Sound :=
  foldl_Sound (fun s b h => performStore_Sound s c b h) _ _ (Sound_of_mem_eq rfl h)

theorem drainWhile_Sound (s : State) (c : CtxId) (f : BufStore → Bool) (h : s.Sound) : (drainWhile s c f).Sound :=
  foldl_Sound (fun s b h => performStore_Sound s c b h) _ _ (Sound_of_mem_eq rfl h)

/-! ## Reads, engines, line operations -/

theorem publish_Sound (s : State) (line : Nat) (h : s.Sound) : (publish s line).Sound := by
  simp only [publish]
  split
  · exact h
  · next k _ _ =>
    have h1 := foldl_Sound (f := fun s i => drainFree s (16 * k + i)) (fun s i h => drainFree_Sound s _ h) (List.range 16) s h
    generalize List.foldl (fun s i => drainFree s (16 * k + i)) s (List.range 16) = u at *
    exact Sound_of_mem_eq rfl h1

theorem publishFor_Sound (s : State) (k : CoreId) (line : Nat) (h : s.Sound) : (publishFor s k line).Sound := by
  simp only [publishFor]
  split
  · split
    · exact h
    · exact publish_Sound s line h
  · exact h

@[simp] theorem readShare_mem (s : State) (k : CoreId) (line : Nat) : (readShare s k line).mem = s.mem := by
  unfold readShare
  dsimp only
  split
  · rfl
  · simp

theorem coherentLine_Sound (s : State) (k : CoreId) (line : Nat) (h : s.Sound) : (coherentLine s k line).Sound :=
  Sound_of_mem_eq (readShare_mem _ _ _) (publishFor_Sound _ _ _ (mergeAll_Sound _ _ h))

theorem coherentRead_Sound (s : State) (k : CoreId) (g n : Nat) (h : s.Sound) : (coherentRead s k g n).Sound := by
  simp only [coherentRead]
  split
  · exact coherentLine_Sound _ _ _ h
  · exact coherentLine_Sound _ _ _ (coherentLine_Sound _ _ _ h)

theorem performRead_Sound (s : State) (k : CoreId) (asid : Nat) (rt : Rt) (nt : Bool) (g n : Nat) (h : s.Sound) :
    (performRead s k asid rt nt g n).1.Sound := by
  simp only [performRead]
  have h1 : (if (s.core k).deltas.any (fun d => lineOf d.ga == lineOf g) = true then mergeAll s (lineOf g) else s).Sound := by
    split
    · exact mergeAll_Sound s _ h
    · exact h
  generalize (if (s.core k).deltas.any (fun d => lineOf d.ga == lineOf g) = true then mergeAll s (lineOf g) else s) = u at h1
  have h2 := coherentRead_Sound u k g n h1
  generalize coherentRead u k g n = v at h2
  split
  · exact h1
  · exact h1
  · split
    · exact h2
    · exact Sound_of_mem_eq rfl (l1Room_Sound _ _ _ h2)
  · exact h2
  · split
    · exact h2
    · refine Sound_of_mem_eq (l2Fill_mem _ _) ?_
      have h3 : (l1Enter (shareLine v (lineOf g)) k (lineOf g)
          ((dirRead (v.dirOf (lineOf g)) (dieOfCore k)).st == .E && !v.dieHolds (dieOfCore k) (lineOf g))).Sound :=
        l1Enter_Sound _ _ _ _ (Sound_of_mem_eq (shareLine_mem _ _) h2)
      split
      · exact markDirty_Sound _ _ _ (Sound_of_mem_eq (setDir_mem _ _ _) h3)
      · exact Sound_of_mem_eq (setDir_mem _ _ _) h3
  · split
    · exact h2
    · exact Sound_of_mem_eq (recallDirty_mem _ _) h2

theorem readLines_Sound (k : CoreId) (asid : Nat) (rt : Rt) (nt : Bool) (fuel : Nat) : ∀ (s : State) (g n : Nat), s.Sound →
    (readLines s k asid rt nt g n fuel).1.Sound := by
  induction fuel with
  | zero => exact fun s g n h => h
  | succ f ih =>
    intro s g n h
    simp only [readLines]
    split
    · exact h
    · exact ih _ _ _ (performRead_Sound s k asid rt nt g _ h)

theorem engineRead_Sound (s : State) (k : CoreId) (g n : Nat) (h : s.Sound) : (engineRead s k g n).1.Sound := by
  simp only [engineRead]
  repeat' split
  all_goals first | exact h | exact coherentRead_Sound _ _ _ _ h

theorem engineWrite_Sound (s : State) (k : CoreId) (cmd asid : Nat) (nt : Bool) (g : Nat) (bs : List Byte) (h : s.Sound) :
    (engineWrite s k cmd asid nt g bs).Sound := performBytes_Sound _ _ _ _ _ _ _ _ h

theorem addDelta_Sound (s : State) (k : CoreId) (d : Delta) (nt : Bool) (h : s.Sound) : (addDelta s k d nt).Sound := by
  have h1 : ((l1Drop s k (lineOf d.ga)).modCore k (fun x => { x with si := SMap.erase x.si (lineOf d.ga) })).Sound :=
    Sound_of_mem_eq (l1Drop_mem _ _ _) h
  simp only [addDelta]
  split
  · exact mergeDelta_Sound _ _ _ h1
  · refine Sound_of_mem_eq (State.modCore_mem _ _ _) (l1Room_Sound _ _ _ ?_)
    exact mergeAllBy_Sound markDirty_Sound _ _ h1

theorem cleanLine_Sound (s : State) (k : CoreId) (line : Nat) (h : s.Sound) : (cleanLine s k line).Sound := by
  have h1 := mergeCore_Sound s k line h
  simp only [cleanLine]
  repeat' split
  all_goals first | exact h1 | exact Sound_of_mem_eq (by simp) h1

theorem flushLine_Sound (s : State) (k : CoreId) (line : Nat) (h : s.Sound) : (flushLine s k line).Sound :=
  Sound_of_mem_eq (dropCopy_mem _ _ _) (cleanLine_Sound s k line h)

theorem invalidateLine_Sound (s : State) (k : CoreId) (line : Nat) (h : s.Sound) : (invalidateLine s k line).Sound := by
  refine Sound_of_mem_eq (dropCopy_mem _ _ _) ?_
  repeat' split
  all_goals first | exact Sound_of_mem_eq rfl h | exact Sound_setBytes _ _ h

/-! ## Ranges of memory, as a task image moves them -/

/-- A fold of memory operations that each keep the form keeps it. -/
theorem foldl_wf {α : Type} {f : List Host.Cell → α → List Host.Cell} (hf : ∀ m a, Mem.wf m = true → Mem.wf (f m a) = true)
    (l : List α) : ∀ m, Mem.wf m = true → Mem.wf (l.foldl f m) = true := by
  induction l with
  | nil => exact fun _ h => h
  | cons a l ih => exact fun m h => ih _ (hf m a h)

theorem clearRange_wf (m : List Host.Cell) (g n : Nat) (h : Mem.wf m = true) : Mem.wf (clearRange m g n) = true :=
  Mem.wf_filter _ h

theorem copyRange_wf (m : List Host.Cell) (src n dst : Nat) (h : Mem.wf m = true) : Mem.wf (copyRange m src n dst) = true :=
  foldl_wf (fun _ _ h => Mem.wf_set _ _ h) _ _ (clearRange_wf m dst n h)

theorem putPieces_wf (m : List Host.Cell) (base : Nat) (ps : List Piece) (h : Mem.wf m = true) :
    Mem.wf (putPieces m base ps) = true := foldl_wf (fun _ _ h => Mem.wf_setBytes _ _ h) _ _ h

theorem settleLines_Sound (s : State) (inside : Nat → Bool) (h : s.Sound) : (settleLines s inside).Sound := by
  simp only [settleLines]
  refine Sound_of_mem_eq (foldl_mem (fun s l => writeBack_mem s l) _ _) ?_
  refine foldl_Sound (fun s l h => publish_Sound _ _ (mergeAll_Sound _ _ h)) _ _ ?_
  exact foldl_Sound (fun s c h => drainFree_Sound s c h) _ _ h

theorem settleRange_Sound (s : State) (g n : Nat) (h : s.Sound) : (settleRange s g n).Sound := settleLines_Sound _ _ h

theorem landRange_Sound (s : State) (g n : Nat) (m : List Host.Cell) (h : Mem.wf m = true) : (landRange s g n m).Sound := by
  refine foldl_wf (fun m e h => ?_) s.dies m h
  dsimp only
  split
  · exact copyRange_wf _ _ _ _ h
  · exact h

theorem writeImage_Sound (s : State) (c : CtxId) (t : Task) (kind base : Nat) (h : s.Sound) :
    (writeImage s c t kind base).Sound := by
  simp only [writeImage]
  apply landRange_Sound
  refine foldl_wf (fun _ _ h => copyRange_wf _ _ _ _ h) _ _ ?_
  split
  · exact foldl_wf (fun _ _ h => copyRange_wf _ _ _ _ h) _ _ (putPieces_wf _ _ _ (clearRange_wf _ _ _ (settleRange_Sound _ _ _ h)))
  · exact putPieces_wf _ _ _ (clearRange_wf _ _ _ (settleRange_Sound _ _ _ h))

/-! ## What a word does before its effect -/

/-- What settles the buffer keeps the form if what follows it does. -/
theorem settle_Sound (s : State) (f : BufStore → Bool) (body : State → State) (hb : ∀ t : State, t.Sound → (body t).Sound)
    (h : s.Sound) : (settle s f body).Sound := by
  simp only [settle]
  split
  · exact Sound_of_mem_eq rfl h
  · exact hb _ (drainWhile_Sound _ _ _ h)

theorem recallReads_Sound (s : State) (k : CoreId) (gas : List Nat) (h : s.Sound) : (recallReads s k gas).Sound := by
  simp only [recallReads]
  split
  · exact h
  · exact foldl_Sound (fun s g h => coherentRead_Sound s k g 1 h) _ s h

/-! ## Traps, waits, releases -/

theorem trapEntry_Sound (s : State) (c : CtxId) (code eva : Nat) (skip fetch : Bool) (h : s.Sound) :
    (trapEntry s c code eva skip fetch).Sound :=
  Sound_of_mem_eq (trapEntry_rest s c code eva skip fetch).1 h

theorem waitFor_Sound (s : State) (w : Wait) (h : s.Sound) : (waitFor s w).Sound := Sound_of_mem_eq rfl h
theorem retire_Sound (s : State) (n : Nat) (h : s.Sound) : (retire s n).Sound := Sound_of_mem_eq rfl h
theorem finish_Sound (s : State) (n lat : Nat) (w : RegWrite) (h : s.Sound) : (finish s n lat w).Sound := Sound_of_mem_eq rfl h

/-- A release keeps the form if what follows it does. -/
theorem releaseNow_Sound (s : State) (body : State → State) (hb : ∀ t : State, t.Sound → (body t).Sound) (h : s.Sound) :
    (releaseNow s body).Sound := by
  have h1 := mergeOwn_Sound _ s.cur (drain_Sound s s.cur h)
  simp only [releaseNow]
  split
  · exact trapEntry_Sound _ _ _ _ _ _ (Sound_of_mem_eq rfl h1)
  · exact hb _ h1

theorem release_Sound (s : State) (body : State → State) (hb : ∀ t : State, t.Sound → (body t).Sound) (h : s.Sound) :
    (release s body).Sound := by
  simp only [release]
  split
  · exact waitFor_Sound _ _ h
  · exact releaseNow_Sound s body hb h

end Sys2Proof.Machine
end

