-- ==== Sys2Proof/Tests/Slice0.lean ====
section
/-! SUPPORT. The model's own tests: words of the spec's tables decoded, ill-formed terms refused, single steps with
results worked out from the spec's tables and examples, and for every statement of Obligations a witness that meets its
hypotheses. -/

namespace Sys2Proof.Tests

open Sys2Proof Sys2Proof.Machine Sys2Proof.Claims

-- One theorem at a time: in parallel each would hold a thread, and the package as one text would need their stacks at once.
set_option Elab.async false

/-! ## Small states -/

/-- The predicate that always holds. -/
def always : Pred := ⟨0, false⟩
/-- The predicate that never holds. -/
def never : Pred := ⟨0, true⟩

/-- A context in the first word of a scoreboard-mode block of eight parcels at 0x10000. -/
def ctx0 : Ctx := { Ctx.reset with run := true, blk := { Block.reset with pc := 0x10004, hdr := 0x10000, len := 8, m := true } }

/-- A page of job 0 at 0x10000, of 64 KiB, in the HBM of die 0, that may be written and executed. -/
def page0 : LtEntry := ⟨1, 0, 0x10000, 1, 0x10000, 1, false, false, false, false, true, true, 0⟩
/-- A page of job 0 at 0x200000 in the scratchpads of die 0. -/
def page1 : LtEntry := ⟨2, 0, 0x20000, 1, 2 * 2 ^ 44, 1, false, false, false, false, true, false, 0⟩

/-- Handles to the two pages. -/
def h0 : Handle := handleOf page0 0x10000 true
def h1 : Handle := handleOf page1 0x20000 true

/-- A machine whose die 0 and core 0 run, with one context. -/
def mach (c : Ctx) : State :=
  { State.reset with
    dies := [(0, { Die.reset with started := true, leases := [page0, page1] })]
    cores := [(0, { Core.reset with started := true })], ctxs := [(0, c)] }

/-- The context with registers. -/
def withX (x : SMap Word) : Ctx := { ctx0 with x := x }
/-- The context with registers, and handles 1 and 2 to the two pages. -/
def withH (x : SMap Word) : Ctx := { ctx0 with x := x, h := [(1, h0), (2, h1)] }

/-- What a step leaves of the running context. -/
def after (i : Instr) (s : State) : Option Ctx := (nextOf (exec i s)).map (fun t => t.me)
/-- The register a word leaves. -/
def xAfter (i : Instr) (s : State) (r : Nat) : Option Word := (after i s).map (fun c => c.getX r)
/-- The predicate a word leaves. -/
def pAfter (i : Instr) (s : State) (r : Nat) : Option Bool := (after i s).map (fun c => c.getP r)
/-- Cause and EVA of the trap a word takes. -/
def trapAfter (i : Instr) (s : State) : Option (Word × Word) := (after i s).map (fun c => (c.sys.cause, c.sys.eva))

/-- A machine whose region 1, of 2 MiB from GA 0x200000, PROC owns, with the code page of its job in it. -/
def procMach (c : Ctx) : State :=
  { mach c with dies := [(0, { Die.reset with started := true, rotbase := 0x8000, leases := [{ page0 with gbase := 0x200000 }, page1] })]
                mem := [(0x8001, 1)] }
/-- The wait for that region. -/
def wait1 : Wait := .ownership 0 1

/-! ## Integer words -/

theorem test_add_wraps : xAfter (.add always 3 1 2) (mach (withX [(1, 0xFFFFFFFFFFFFFFFF), (2, 2)])) 3 = some 1 := by decide
theorem test_sub_borrows : xAfter (.sub always 3 1 2) (mach (withX [(2, 1)])) 3 = some 0xFFFFFFFFFFFFFFFF := by decide
theorem test_mulh_signed : xAfter (.mulh always 3 1 2) (mach (withX [(1, 0xFFFFFFFFFFFFFFFF), (2, 2)])) 3
    = some 0xFFFFFFFFFFFFFFFF := by decide
theorem test_mulhu_unsigned : xAfter (.mulhu always 3 1 2) (mach (withX [(1, 0xFFFFFFFFFFFFFFFF), (2, 2)])) 3 = some 1 := by decide
theorem test_div_rounds_toward_zero : xAfter (.div always 3 1 2) (mach (withX [(1, 0xFFFFFFFFFFFFFFF9), (2, 2)])) 3
    = some 0xFFFFFFFFFFFFFFFD := by decide
theorem test_rem_takes_dividend_sign : xAfter (.rem always 3 1 2) (mach (withX [(1, 0xFFFFFFFFFFFFFFF9), (2, 2)])) 3
    = some 0xFFFFFFFFFFFFFFFF := by decide
theorem test_div_by_zero : xAfter (.div always 3 1 2) (mach (withX [(1, 5)])) 3 = some 0xFFFFFFFFFFFFFFFF := by decide
theorem test_shl_uses_six_bits : xAfter (.shl always 3 1 2) (mach (withX [(1, 1), (2, 65)])) 3 = some 2 := by decide
theorem test_sar_keeps_sign : xAfter (.sar always 3 1 2) (mach (withX [(1, 0x8000000000000000), (2, 63)])) 3
    = some 0xFFFFFFFFFFFFFFFF := by decide
theorem test_ror_wraps : xAfter (.ror always 3 1 2) (mach (withX [(1, 1), (2, 1)])) 3 = some 0x8000000000000000 := by decide
theorem test_minu_unsigned : xAfter (.minu always 3 1 2) (mach (withX [(1, 0x8000000000000000), (2, 1)])) 3 = some 1 := by decide
theorem test_clz_of_zero : xAfter (.clz always 3 1) (mach ctx0) 3 = some 64 := by decide
theorem test_bswap : xAfter (.bswap always 3 1) (mach (withX [(1, 0x0102030405060708)])) 3 = some 0x0807060504030201 := by decide
theorem test_sextB : xAfter (.sextB always 3 1) (mach (withX [(1, 0x180)])) 3 = some 0xFFFFFFFFFFFFFF80 := by decide
theorem test_bfins : xAfter (.bfins always 3 1 2) (mach (withX [(1, 0xAB), (2, 0x704), (3, 0xFFFFFFFFFFFFFFFF)])) 3
    = some 0xFFFFFFFFFFFFFABF := by decide
theorem test_bfx : xAfter (.bfx always 3 1 7 4) (mach (withX [(1, 0xABCD)])) 3 = some 0xBC := by decide
theorem test_bfxs : xAfter (.bfxs always 3 1 7 4) (mach (withX [(1, 0xABCD)])) 3 = some 0xFFFFFFFFFFFFFFBC := by decide
theorem test_cmpLt_signed : pAfter (.cmpLt always 1 1 2) (mach (withX [(1, 0xFFFFFFFFFFFFFFFF)])) 1 = some true := by decide
theorem test_cmpLtu_unsigned : pAfter (.cmpLtu always 1 1 2) (mach (withX [(1, 0xFFFFFFFFFFFFFFFF)])) 1 = some false := by decide
theorem test_pandn : pAfter (.pandn always 1 0 2) (mach ctx0) 1 = some true := by decide
theorem test_li_prefixed : xAfter (.li always 7 0x5678) (mach { ctx0 with imx := [0x91A] }) 7 = some 0x12345678 := by decide
theorem test_addi_sign : xAfter (.addi always 3 1 0xFFF) (mach ctx0) 3 = some 0xFFFFFFFFFFFFFFFF := by decide
theorem test_x0_stays_zero : xAfter (.li always 0 5) (mach ctx0) 0 = some 0 := by decide
theorem test_exposed_result_is_late : xAfter (.mul always 3 1 2)
    (mach { withX [(1, 2), (2, 3), (3, 9)] with blk := { ctx0.blk with m := false } }) 3 = some 9 := by decide
theorem test_predicated_off : xAfter (.li ⟨0, true⟩ 3 5) (mach ctx0) 3 = some 0 := by decide

/-! ## Witnesses for the integer statements -/

theorem witness_IntResults : Issues (mach ctx0) always
    ∧ (∀ i < 64, ((mach ctx0).x 1).getLsbD (63 - i) = false)
    ∧ ((mach (withX [(1, 0x8000000000000001)])).x 1).getLsbD (63 - 0) = true
    ∧ ((mach (withX [(1, 0x8000000000000001)])).x 1).getLsbD 0 = true
    ∧ (∀ i < 8, (0x0807060504030201 : Word).extractLsb' (8 * i) 8
        = ((mach (withX [(1, 0x0102030405060708)])).x 1).extractLsb' (56 - 8 * i) 8) :=
  ⟨⟨rfl, by decide⟩, by decide, by decide, by decide, by decide⟩
theorem witness_DivisionResults : Issues (mach (withX [(1, 0x8000000000000000), (2, 0xFFFFFFFFFFFFFFFF)])) always
    ∧ (mach (withX [(1, 0x8000000000000000), (2, 0xFFFFFFFFFFFFFFFF)])).x 2 ≠ 0 ∧ (mach ctx0).x 2 = 0
    ∧ (mach (withX [(1, 0x8000000000000000), (2, 0xFFFFFFFFFFFFFFFF)])).x 1 = BitVec.intMin 64
    ∧ (mach (withX [(1, 0x8000000000000000), (2, 0xFFFFFFFFFFFFFFFF)])).x 2 = BitVec.allOnes 64 :=
  ⟨⟨rfl, by decide⟩, by decide, by decide, by decide, by decide⟩
theorem witness_BitFields : Issues (mach (withX [(1, 0x8000000000000000)])) always
    ∧ (63 : BitVec 6).toNat + (0 : BitVec 5).toNat < 64
    ∧ (∀ i < 64, (1 : Word).getLsbD i
        = (decide (i ≤ 0) && ((mach (withX [(1, 0x8000000000000000)])).x 1).getLsbD (63 + i)))
    ∧ (∀ i < 64, (0xFFFFFFFFFFFFFFFF : Word).getLsbD i
        = ((mach (withX [(1, 0x8000000000000000)])).x 1).getLsbD (63 + min i 0))
    ∧ (∀ i < 64, (0 : Word).getLsbD i = if 0 ≤ i ∧ i < 0 + 1 then ((mach ctx0).x 1).getLsbD (i - 0)
        else ((mach ctx0).x 3).getLsbD i) := by
  exact ⟨⟨rfl, by decide⟩, by decide, by decide, by decide, by decide⟩
theorem witness_ComparesAndPredicates : Issues (mach ctx0) always := ⟨rfl, by decide⟩
theorem witness_ImmediateResults :
    ((mach { ctx0 with imx := [1, 2] }).me.imx.length ≤ 2 ∧ (mach { ctx0 with imx := [1, 2] }).me.holds always = true)
    ∧ (mach ctx0).me.imx = [] := by decide
theorem witness_RegisterWordFrame : regOnly (.mul always 3 1 2) = true ∧ (mach ctx0).me.imx = []
    ∧ ∃ t, exec (.mul always 3 1 2) (mach ctx0) = .next t := ⟨by decide, rfl, _, rfl⟩
theorem witness_ResultLands :
    ((mach ctx0).me.blk.m = true ∧ (mach ctx0).me.pend = [])
    ∧ (let s := mach { ctx0 with blk := { ctx0.blk with m := false } }; s.me.blk.m = false ∧ s.me.pend = [])
    ∧ (let c : Ctx := { ctx0 with pend := [⟨1, .x 3 9⟩] }; c.pend = [⟨c.stepNo + 1, .x 3 9⟩] ∧ (3 : Nat) ≠ 0) := by decide
theorem witness_BlockAdvance :
    (let b := (mach ctx0).me.blk; b.pc + 4 < b.hdr + 4 + 2 * b.len)
    ∧ (let b := (mach { ctx0 with blk := { ctx0.blk with pc := 0x10010, rep := 1 } }).me.blk
       b.hdr + 4 + 2 * b.len ≤ b.pc + 4 ∧ b.iter < b.rep)
    ∧ (let b := (mach { ctx0 with blk := { ctx0.blk with pc := 0x10010 } }).me.blk
       b.hdr + 4 + 2 * b.len ≤ b.pc + 4 ∧ b.rep ≤ b.iter) := by decide
theorem witness_PredicatedOff :
    (predicateOf (.endt never) = some never ∧ (mach ctx0).me.holds never = false ∧ (mach ctx0).me.imx = [])
    ∧ (let s := mach { ctx0 with imx := [1] }
       predicateOf (.ld never 3 1 .d .own .plain 0) = some never ∧ s.me.holds never = false
         ∧ takesPrefix (.ld never 3 1 .d .own .plain 0) = true) := by decide

/-! ## Blocks, transfers, traps -/

/-- The bytes of a word. -/
def bytesFor (i : Instr) : List Byte := leBytes i.bytes ((encode i).getD 0)
/-- A machine with code at 0x10000: a block with E = 1 of the words given. -/
def coded (c : Ctx) (body : List Instr) : State :=
  let b := body.flatMap bytesFor
  { mach c with mem := Mem.setBytes [] 0x10000 (bytesFor (.hdr 0 (BitVec.ofNat 10 (b.length / 2)) false true true) ++ b) }
/-- The context before the header. -/
def atHeader : Ctx := { ctx0 with blk := { Block.reset with pc := 0x10000, entering := true } }

theorem test_header_opens_block : (after (.hdr 0 2 false true true) (coded atHeader [.hint 0, .hint 0])).map
    (fun c => (c.blk.pc, c.blk.hdr, c.blk.len, c.blk.m, c.blk.entering)) = some (0x10004, 0x10000, 2, true, false) := by decide
theorem test_header_in_body_is_badop : trapAfter (.hdr 0 1 false true true) (mach ctx0)
    = some (0x01, wordOf ((encode (.hdr 0 1 false true true)).getD 0)) := by decide
theorem test_third_prefix_is_badop : trapAfter (.imx 3) (mach { ctx0 with imx := [1, 2], blk := { ctx0.blk with pc := 0x1000C } })
    = some (0x01, 0x55) := by decide
theorem test_jr_to_header : (after (.jr always 1) (coded (withX [(1, 0x10000)]) [.hint 0])).map
    (fun c => (c.blk.pc, c.blk.entering, c.blk.ft, c.stepNo)) = some (0x10000, true, false, 1) := by decide
theorem test_call_links : xAfter (.callr always 0 2 0) (coded (withX [(2, 0x10000)]) [.hint 0]) 1 = some 0x10014 := by decide
theorem test_jr_odd : trapAfter (.jr always 1) (mach (withX [(1, 0x10001)])) = some (0x02, 0x10001) := by decide
theorem test_trap_saves : (after (.trap always 37) (coded { ctx0 with sys := { Sys.reset with tvec := 0x10000 } } [.hint 0])).map
    (fun c => ([c.sys.epc, c.sys.ehdr, c.sys.eva, wordOf c.blk.pc], [c.sys.skip, c.sys.pl, c.sys.ie, c.sys.pie]))
    = some ([0x10004, 0x10000, 37, 0x10000], [true, true, false, true]) := by decide
theorem test_tvec_without_code_stops : (after (.bkpt always) (mach ctx0)).map (fun c => (c.stopped, c.sys.cause)) = some (true, 0x29) := by
  decide
/-- A handler at S whose EPC names the second word of the block at 0x10000. -/
def handler (skip : Bool) (epc : Word) : Ctx :=
  { ctx0 with sys := { Sys.reset with pl := true, ie := false, pie := true, epc := epc, ehdr := 0x10000, skip := skip } }
theorem test_reth_resumes : (after (.reth always) (coded (handler false 0x10006) [.hint 0, .hint 0, .hint 0])).map
    (fun c => (c.blk.pc, c.sys.pl, c.sys.ie, c.blk.entering)) = some (0x10006, false, true, false) := by decide
theorem test_reth_skips : (after (.reth always) (coded (handler true 0x10006) [.hint 0, .hint 0, .hint 0])).map
    (fun c => c.blk.pc) = some 0x10008 := by decide
theorem test_reth_user_traps : (trapAfter (.reth always) (mach ctx0)).map (fun e => e.1) = some 0x03 := by decide
theorem test_mts_status_keeps_pl : (after (.mts always 0 1) (mach { withX [(1, 0x31)] with sys := { Sys.reset with pl := true } })).map
    (fun c => (c.sys.pl, c.sys.ie, c.sys.pie)) = some (true, true, true) := by decide
theorem test_mfs_unassigned : (trapAfter (.mfs always 1 0x7FF) (mach ctx0)).map (fun e => e.1) = some 0x01 := by decide
theorem test_timer_taken : (nextOf (exec (.timerTrap 0) { mach { ctx0 with sys := { Sys.reset with timecmp := 5 } } with now := 5 })).map
    (fun t => (t.ctx 0).sys.cause) = some 0x48 := by decide

theorem witness_LongImmediatePrefix :
    (let c := (mach { ctx0 with imx := [1] }).me; c.imx.length < 2 ∧ ¬(c.blk.hdr + 4 + 2 * c.blk.len ≤ c.blk.pc + 4))
    ∧ (let c := (mach { ctx0 with imx := [1, 2] }).me; c.imx = 1 :: [2] ∧ c.imx.length = 2)
    ∧ (let c := (mach { ctx0 with blk := { ctx0.blk with pc := 0x10010 } }).me
       c.imx = [] ∧ c.blk.hdr + 4 + 2 * c.blk.len ≤ c.blk.pc + 4)
    ∧ (let c := (mach { ctx0 with imx := [1] }).me
       c.imx = 1 :: [] ∧ (predicateOf (.add never 0 0 0)).isSome = true ∧ takesPrefix (.add never 0 0 0) = false)
    ∧ ((Instr.hint 0).bytes = 2 ∧ takesPrefix (.hint 0) = false) := by decide
theorem witness_HeaderEntersBlock :
    (let s := coded atHeader [.hint 0, .hint 0]
     s.me.blk.entering = true ∧ (2 : BitVec 10) ≠ 0 ∧ s.me.blk.pin = none
     ∧ codeWait s s.cur (s.me.blk.pc + 4) (2 : BitVec 10).toNat = none
     ∧ ∃ s' ps, fetchParcels s s.cur (s.me.blk.pc + 4) (2 : BitVec 10).toNat = (s', .ok ps) ∧ bodyBad false ps = false)
    ∧ (let s := coded atHeader [.imx 5]
       codeWait s s.cur (s.me.blk.pc + 4) (2 : BitVec 10).toNat = none ∧ ∃ s' ps, fetchParcels s s.cur (s.me.blk.pc + 4) (2 : BitVec 10).toNat = (s', .ok ps) ∧ bodyBad false ps = true)
    ∧ (let s := procMach atHeader
       s.me.blk.entering = true ∧ s.me.blk.pin = none ∧ codeWait s s.cur (s.me.blk.pc + 4) (2 : BitVec 10).toNat = some wait1)
    ∧ (mach ctx0).me.blk.entering = false :=
  ⟨⟨by decide, by decide, rfl, by decide, _, _, rfl, by decide⟩, ⟨by decide, _, _, rfl, by decide⟩, by decide, rfl⟩
theorem witness_TransferTaken :
    let s := coded (withX [(1, 0x10000)]) [.hint 0]
    let here := (BitVec.ofNat 64 s.me.blk.pc + 2 * (BitVec.ofInt 22 (-2)).signExtend 64).toNat
    Issues s always ∧ headerWait s s.cur here = none ∧ headerWait s s.cur (s.x 1).toNat = none
    ∧ (∃ s', checkTarget s s.cur here = (s', .ok ())) ∧ ∃ s', checkTarget s s.cur (s.x 1).toNat = (s', .ok ()) :=
  ⟨⟨rfl, by decide⟩, by decide, by decide, ⟨_, rfl⟩, ⟨_, rfl⟩⟩
theorem witness_TargetCheck :
    (∃ s' code va, fetchHeader (mach ctx0) 0 0x40000 = (s', .error (code, va)))
    ∧ (∃ s', fetchHeader (coded ctx0 [.hint 0]) 0 0x10004 = (s', .ok none))
    ∧ (∃ s' rep len l m, fetchHeader { mach ctx0 with mem := Mem.setBytes [] 0x10000 (bytesFor (.hdr 0 1 false false true)) } 0 0x10000
        = (s', .ok (some (rep, len, l, false, m))))
    ∧ (∃ s' rep len l m, fetchHeader (coded ctx0 [.hint 0]) 0 0x10000 = (s', .ok (some (rep, len, l, true, m))))
    ∧ (let s := procMach (withX [(1, 0x10000)])
       Issues s always ∧ headerWait s s.cur (BitVec.ofNat 64 s.me.blk.pc + 2 * (0 : BitVec 22).signExtend 64).toNat = some wait1
       ∧ headerWait s s.cur (s.x 1).toNat = some wait1)
    ∧ (let s := mach (withX [(1, 3)])
       Issues s always
       ∧ headerWait s s.cur (BitVec.ofNat 64 s.me.blk.pc + 2 * (0 : BitVec 22).signExtend 64).toNat = none
       ∧ headerWait s s.cur (s.x 1).toNat = none
       ∧ (∃ s' code va fetch, checkTarget s s.cur (BitVec.ofNat 64 s.me.blk.pc + 2 * (0 : BitVec 22).signExtend 64).toNat
           = (s', .error (code, va, fetch)))
       ∧ ∃ s' code va fetch, checkTarget s s.cur (s.x 1).toNat = (s', .error (code, va, fetch))) :=
  ⟨⟨_, _, _, rfl⟩, ⟨_, rfl⟩, ⟨_, _, _, _, _, rfl⟩, ⟨_, _, _, _, _, rfl⟩, ⟨⟨rfl, by decide⟩, by decide, by decide⟩,
   ⟨rfl, by decide⟩, by decide, by decide, ⟨_, _, _, _, rfl⟩, ⟨_, _, _, _, rfl⟩⟩
theorem witness_TrapEntrySaves :
    (let s := mach { ctx0 with sys := { Sys.reset with tvec := 1 } }
     headerWait s 0 (s.ctx 0).sys.tvec.toNat = none ∧ (s.ctx 0).landAll.sys.tvec.toNat % 2 = 1)
    ∧ (let s := coded { ctx0 with sys := { Sys.reset with tvec := 0x10000 } } [.hint 0]
       headerWait s 0 (s.ctx 0).sys.tvec.toNat = none)
    ∧ (let s := procMach { ctx0 with sys := { Sys.reset with tvec := 0x10000 } }
       headerWait s 0 (s.ctx 0).sys.tvec.toNat = some wait1) := by decide
theorem witness_TrappingWords : Issues (mach ctx0) always ∧ ((mach ctx0).ctx 0).between = true
    ∧ (let s := { mach { ctx0 with sys := { Sys.reset with timecmp := 5 } } with now := 5 }
       (s.ctx 0).between = true ∧ (s.ctx 0).sys.ie = true ∧ (s.ctx 0).sys.timecmp.toNat ≤ s.now)
    ∧ (mach ctx0).now < ((mach ctx0).ctx 0).sys.timecmp.toNat := ⟨⟨rfl, by decide⟩, by decide, by decide, by decide⟩
theorem witness_ReturnFromTrap :
    (let s := procMach (handler false 0x10006); Issues s always ∧ s.me.sys.pl = true ∧ s.me.ending = false ∧ rethWait s = some wait1)
    ∧ (let s := coded (handler false 0x10000) [.hint 0, .hint 0, .hint 0]
     Issues s always ∧ s.me.sys.pl = true ∧ s.me.ending = false ∧ rethWait s = none ∧ s.me.sys.ehdr.toNat % 2 = 0
     ∧ s.me.sys.epc.toNat = s.me.sys.ehdr.toNat
     ∧ ∃ s1 rep len l m, fetchHeader s s.cur s.me.sys.ehdr.toNat = (s1, .ok (some (rep, len, l, true, m)))
         ∧ (s.me.sys.eitr.extractLsb' 0 12).toNat ≤ rep)
    ∧ (∀ skip ∈ [false, true], let s := coded (handler skip 0x10008) [.hint 0, .hint 0, .hint 0]
       rethWait s = none ∧ s.me.sys.skip = skip ∧ ∃ s1 l m, fetchHeader s s.cur 0x10000 = (s1, .ok (some (0, 3, l, true, m)))
       ∧ ∃ s2 v, bodyParcel s1 s.cur 0x10000 0x10008 = (s2, .ok v) ∧ (aheadParcels s2 s.cur 0x10000 0x10004 2).length = 2
         ∧ startsWord (aheadParcels s2 s.cur 0x10000 0x10004 2 ++ aheadParcels s2 s.cur 0x10000 0x10008 1) 0x10004 0x10008 = true
         ∧ 0x10000 + 4 + 2 * 3 ≤ 0x10008 + instrBytes (aheadParcels s2 s.cur 0x10000 0x10008 1))
    ∧ (let s := coded (handler true 0x10006) [.hint 0, .hint 0, .hint 0]
       ∃ s1 l m, fetchHeader s s.cur 0x10000 = (s1, .ok (some (0, 3, l, true, m)))
       ∧ ∃ s2 v, bodyParcel s1 s.cur 0x10000 0x10006 = (s2, .ok v)
         ∧ 0x10006 + instrBytes (aheadParcels s2 s.cur 0x10000 0x10006 2) < 0x10000 + 4 + 2 * 3)
    ∧ (let s := coded (handler false 0x10006) [.add always 0 0 0, .hint 0]
       ∃ s1 l m, fetchHeader s s.cur 0x10000 = (s1, .ok (some (0, 3, l, true, m)))
       ∧ ∃ s2 v, bodyParcel s1 s.cur 0x10000 0x10006 = (s2, .ok v) ∧ (aheadParcels s2 s.cur 0x10000 0x10004 1).length = 1
         ∧ startsWord (aheadParcels s2 s.cur 0x10000 0x10004 1 ++ aheadParcels s2 s.cur 0x10000 0x10006 2) 0x10004 0x10006 = false) := by
  refine ⟨⟨⟨rfl, by decide⟩, rfl, rfl, by decide⟩, ⟨⟨rfl, by decide⟩, rfl, rfl, by decide, by decide, by decide, _, _, _, _, _, rfl, by decide⟩,
    ?_, ⟨_, _, _, rfl, _, _, rfl, by decide⟩, _, _, _, rfl, _, _, rfl, by decide, by decide⟩
  intro k hk
  simp only [List.mem_cons, List.not_mem_nil, or_false] at hk
  rcases hk with rfl | rfl <;> exact ⟨by decide, rfl, _, _, _, rfl, _, _, rfl, by decide, by decide, by decide⟩
theorem witness_PrivilegeAndReturnFaults :
    (privilegedWord (.vshoot always 1) = true ∧ predicateOf (.vshoot always 1) = some always ∧ (mach ctx0).me.sys.pl = false
     ∧ (mach ctx0).me.holds always = true)
    ∧ (let s := mach { handler false 0 with sys := { (handler false 0).sys with ehdr := 0x10001 } }
       s.me.sys.pl = true ∧ s.me.ending = false ∧ rethWait s = none ∧ s.me.sys.ehdr.toNat % 2 = 1)
    ∧ (let s := mach (handler false 0x10004)
       rethWait s = none ∧ s.me.sys.ehdr.toNat % 2 = 0 ∧ ∃ s1, fetchHeader s s.cur s.me.sys.ehdr.toNat = (s1, .ok none))
    ∧ (let s := coded (handler false 0x1000A) [.hint 0, .hint 0, .hint 0]
       rethWait s = none
       ∧ ∃ s1 l m, fetchHeader s s.cur 0x10000 = (s1, .ok (some (0, 3, l, true, m))) ∧ 0x10000 + 4 + 2 * 3 ≤ s.me.sys.epc.toNat)
    ∧ (let s := { mach { handler false 0x10000 with sys := { (handler false 0x10000).sys with eitr := 0 } } with
          mem := Mem.setBytes [] 0x10000 (bytesFor (.hdr 0 1 false false true)) }
       rethWait s = none ∧ s.me.sys.epc.toNat = 0x10000 ∧ s.me.sys.eitr.getLsbD 12 = false
       ∧ ∃ s1 l m, fetchHeader s s.cur 0x10000 = (s1, .ok (some (0, 1, l, false, m))))
    ∧ (let s := mach { handler false 0 with sys := { (handler false 0).sys with ehdr := 0x40000 } }
       rethWait s = none ∧ ∃ s1 code va, fetchHeader s s.cur s.me.sys.ehdr.toNat = (s1, .error (code, va))
         ∧ headerWait s1 s1.cur s1.me.sys.tvec.toNat = none
         ∧ headerWait (s1.modMe Ctx.restore) s1.cur s1.me.sys.tvec.toNat = none) :=
  ⟨by decide, by decide, ⟨by decide, by decide, _, rfl⟩, ⟨by decide, _, _, _, rfl, by decide⟩,
   ⟨by decide, by decide, by decide, _, _, _, rfl⟩, ⟨by decide, _, _, _, rfl, by decide, by decide⟩⟩
theorem witness_SystemRegisters :
    (Issues (mach ctx0) always)
    ∧ (sysAssigned 0x020 = true ∧ sysReadS 0x020 = false)
    ∧ (sysAssigned 0x006 = true ∧ sysReadS 0x006 = true ∧ (mach ctx0).me.sys.pl = false)
    ∧ sysAssigned 0x7FF = false ∧ (sysWritten 0x020 = true)
    ∧ (sysWritten 0x006 = true ∧ (0x006 : BitVec 11) ≠ 0x020 ∧ (mach ctx0).me.sys.pl = false) ∧ sysWritten 0x7FF = false :=
  ⟨⟨rfl, by decide⟩, by decide, by decide, by decide, by decide, by decide, by decide⟩

theorem witness_PrivilegeOnlyByTrap :
    (encode (.trap always 3)).isSome = true ∧ (mach ctx0).me.sys.pl = false
    ∧ (nextOf (exec (.trap always 3) (mach ctx0))).isSome = true ∧ (nextOf (exec (.yield always) (mach ctx0))).isSome = true := by decide
/-! ## Handles, loads, stores, atomics, updates -/

/-- A machine whose job has a lease list of one entry, of the 32 pages from 0x10000, at 0x18000. -/
def leased (c : Ctx) : State :=
  { mach { c with sys := { c.sys with lease := 0x18000 } } with
    mem := Mem.write (Mem.write [] 0x18000 8 0x10000) 0x18008 8 (2 ^ 62 + 2 ^ 61 + 32) }

theorem test_xlat_makes_handle : (after (.xlat always 3 1) (leased (withX [(1, 0x10008)]))).map
    (fun c => ((c.getH 3).v, (c.getH 3).w, (c.getH 3).anchor, (c.getH 3).gbase)) = some (true, false, 0x10008, 0x10000) := by decide
theorem test_xlat_outside_leases : trapAfter (.xlat always 3 1) (leased (withX [(1, 0x30000)])) = some (0x11, 0x30000) := by decide
theorem test_hmv_invalid : trapAfter (.hmv always 3 4) (mach ctx0) = some (0x12, 4) := by decide
theorem test_ld_zero_extends : xAfter (.ld always 3 1 .b .own .plain 1) { mach (withH []) with mem := [(0x10001, 0x80)] } 3
    = some 0x80 := by decide
theorem test_amo_misaligned : trapAfter (.amo always 3 1 5 .add false .domain .plain) (mach (withH [(5, 2)])) = some (0x14, 2) := by
  decide
theorem test_st_buffers_then_performs :
    ((nextOf (exec (.st always 5 2 .h .own .plain 1) (mach (withH [(5, 0x1234)])))).bind
      (fun s => nextOf (exec (.storePerform 0 0) s))).map (fun s => (s.mem, s.me.sbuf))
    = some ([(2 * 2 ^ 44 + 2, 0x34), (2 * 2 ^ 44 + 3, 0x12)], []) := by decide
theorem test_load_sees_buffered_store :
    ((nextOf (exec (.st always 5 1 .b .own .plain 0) (mach (withH [(5, 7)])))).bind
      (fun s => xAfter (.ld always 3 1 .b .own .plain 0) s 3)) = some 7 := by decide
theorem test_amo_add_returns_old :
    (nextOf (exec (.amo always 3 2 5 .add false .domain .plain) { mach (withH [(3, 5)]) with mem := [(2 * 2 ^ 44, 9)] })).map
      (fun s => (s.me.getX 3, s.mem)) = some (9, [(2 * 2 ^ 44, 14)]) := by decide
theorem test_cas_fails_without_writing :
    (nextOf (exec (.amo always 4 2 5 .cas false .domain .plain)
      { mach (withH [(4, 5), (6, 1)]) with mem := [(2 * 2 ^ 44, 9)] })).map (fun s => (s.mem, (s.me.getX 4).toNat % 2 ^ 32))
    = some ([(2 * 2 ^ 44, 9)], 9) := by decide
theorem test_upd_leaves_delta : (nextOf (exec (.upd always .addW 3 1 5) (mach (withH [(3, 5)])))).map
    (fun s => (s.mem, ((s.core 0).deltas.map (fun d => (d.ga, d.v))))) = some ([], [(0x10000, 5)]) := by decide
theorem test_load_recalls_delta : ((nextOf (exec (.upd always .addW 3 1 5) { mach (withH [(3, 5)]) with mem := [(0x10000, 3)] })).bind
    (fun s => xAfter (.ld always 4 1 .w .own .plain 0) s 4)) = some 8 := by decide
theorem test_minW_signed : updApply .minW 0xFFFFFFFF 1 = 0xFFFFFFFF := by decide
theorem test_f32_add : f32Add 0x3F800000 0x40000000 = 0x40400000 := by decide

theorem witness_HandleWords :
    (let s := leased (withX [(1, 0x10008)])
     let t := recallReads s s.myCore (translateGas s s.cur (s.x 1).toNat)
     Issues s always ∧ firstOwned s (translateGas s s.cur (s.x 1).toNat) = none
     ∧ (∃ e, translate t t.cur (s.x 1).toNat false = .ok e) ∧ ∃ e, translate t t.cur (s.x 1).toNat true = .ok e)
    ∧ (let s := leased (withX [(1, 0x100000000000000)])
       let t := recallReads s s.myCore (translateGas s s.cur (s.x 1).toNat)
       firstOwned s (translateGas s s.cur (s.x 1).toNat) = none
       ∧ (∃ c, translate t t.cur (s.x 1).toNat false = .error c) ∧ ∃ c, translate t t.cur (s.x 1).toNat true = .error c)
    ∧ (let s := procMach { withX [(1, 0x10008)] with sys := { Sys.reset with lease := 0x200000 } }
       firstOwned s (translateGas s s.cur (s.x 1).toNat) = some wait1)
    ∧ ((mach (withH [])).me.getH 1).v = true ∧ ((mach (withH [])).me.getH 3).v = false :=
  ⟨⟨⟨rfl, by decide⟩, by decide, ⟨_, rfl⟩, ⟨_, rfl⟩⟩, ⟨by decide, ⟨_, rfl⟩, ⟨_, rfl⟩⟩, by decide, rfl, rfl⟩
theorem witness_TranslationChecks :
    let s := leased ctx0
    gaOf (s.ctx 0).sys.lease.toNat % 8 = 0
    ∧ leaseSearch s 0 0x18000 0x10000 64 0 = .ok true ∧ leaseSearch s 0 0x18000 0x30000 64 0 = .error (0x11, 0x30000)
    ∧ (let s' := { s with mem := Mem.write s.mem 0x18008 8 (2 ^ 61 + 32) }; leaseSearch s' 0 0x18000 0x10000 64 0 = .ok false)
    ∧ (∃ e, leaseFind (s.die 0) 0 0x10000 = some e ∧ e.w = true ∧ aliased s e = false)
    ∧ (let s' := { s with dies := [(0, { (s.die 0) with leases := [] })] }; leaseFind (s'.die 0) 0 0x10000 = none)
    ∧ (let s' := { s with dies := [(0, { (s.die 0) with leases := [{ page0 with w := false }] })] }
       ∃ e, leaseFind (s'.die 0) 0 0x10000 = some e ∧ e.w = false)
    ∧ (let s' := { s with dies := [(0, { (s.die 0) with leases := [page0, { page0 with nt := true, asid := 1 }] })] }
       ∃ e, leaseFind (s'.die 0) 0 0x10000 = some e ∧ aliased s' e = true) :=
  ⟨by decide, rfl, rfl, rfl, ⟨_, rfl, rfl, by decide⟩, rfl, ⟨_, rfl, rfl⟩, ⟨_, rfl, by decide⟩⟩
/-- A GA of space 7 of die 0. -/
def gaOf0 (off : Nat) : Nat := 7 * 2 ^ 44 + off
/-- A context at U or S with a handle to the lease agent's registers of its die. -/
def agentMach (pl : Bool) : State :=
  mach { withX [] with h := [(3, { h0 with gbase := 7 * 2 ^ 44 + 0x100000, anchor := 0x10018 })], sys := { Sys.reset with pl := pl } }
theorem witness_AccessChecks :
    (let h := h0; h.v = true ∧ (h.anchor + (0xFFF8 : Word).toNat) % 2 ^ 64 % 8 = 0
      ∧ h.pbase ≤ (h.anchor + (0xFFF8 : Word).toNat) % 2 ^ 64 ∧ (h.anchor + (0xFFF8 : Word).toNat) % 2 ^ 64 + 8 ≤ h.pbase + pageBytes h.psize
      ∧ h.w = true ∧ h.bnd = false ∧ watchCore (mach ctx0) 0 0x1FFF8 8 = none)
    ∧ (h0.v = true ∧ ¬((h0.anchor + (0x10000 : Word).toNat) % 2 ^ 64 + 8 ≤ h0.pbase + pageBytes h0.psize))
    ∧ ((h0.anchor + (4 : Word).toNat) % 2 ^ 64 % 8 ≠ 0)
    ∧ (∃ b, watchCore (mach { ctx0 with sys := { Sys.reset with watch0 := 0xC000400000001000 } }) 0 0x10000 1 = some b)
    ∧ (let s := mach ctx0
       s.me.imx.length ≤ 2 ∧ s.me.holds always = true ∧ s.me.wait = none ∧ gaSpace (s.me.getH 3).gbase ≠ 7
       ∧ checkRead (s.me.getH 3) 3 0 4 true = .error (0x12, 3) ∧ checkOwnWrite s s.cur (s.me.getH 3) 3 0 4 = .error (0x12, 3))
    ∧ (let s := mach { withX [] with h := [(3, { h0 with gbase := 7 * 2 ^ 44 })] }
       gaSpace (s.me.getH 3).gbase = 7 ∧ ∃ e, checkRead (s.me.getH 3) 3 0x10000 4 false = .error e)
    ∧ (∀ pl ∈ [false, true], let s := agentMach pl
       let h := s.me.getH 3
       Issues s always ∧ s.me.wait = none ∧ gaSpace h.gbase = 7 ∧ (s.me.sys.pl = pl)
       ∧ checkRead h 3 (immBits [] (0 : BitVec 7) * 8) 8 false = .ok (gaOf0 0x100018)
       ∧ checkRead h 3 (s.x 0) 8 false = .ok (gaOf0 0x100018) ∧ checkRead h 3 (s.x 0) 4 false = .ok (gaOf0 0x100018)
       ∧ checkRead h 3 (immBits [] (1 : BitVec 7) * 4) 4 false = .ok (gaOf0 0x10001C)
       ∧ checkOwnWrite s 0 h 3 (immBits [] (5 : BitVec 7) * 8) 8 = .ok (gaOf0 0x100040)
       ∧ fenced s (pkgOf s.myDie) (.load true) (gaOf0 0x100018) 8 = false ∧ fenced s (pkgOf s.myDie) .store (gaOf0 0x100040) 8 = false
       ∧ agentAcquires 0x100018 = false ∧ agentRead s 0 0 0x100018 0 = .val 0 ∧ storePriv s 0 0x100018 = true
       ∧ storePriv s 0 0x100040 = false ∧ s.me.sbuf = [] ∧ agentStoreWait s 0 0x100040 7 = none)
    ∧ (0x100058 ∉ noStoreRegs ∧ 0x100060 ∉ writeOnlyRegs ∧ 0x100060 ∉ noStoreRegs ∧ 0x100060 ∉ storedRegs) := by
  refine ⟨by decide, by decide, by decide, ⟨_, rfl⟩, ⟨by decide, by decide, rfl, by decide, rfl, rfl⟩, ⟨by decide, _, rfl⟩, ?_, by decide⟩
  intro pl hp
  simp only [List.mem_cons, List.not_mem_nil, or_false] at hp
  rcases hp with rfl | rfl <;> exact ⟨⟨rfl, by decide⟩, by decide, by decide, rfl, rfl, rfl, rfl, rfl, rfl,
    by decide, by decide, by decide, by decide, by decide, by decide, by decide, by decide⟩
theorem witness_LoadReturnsMemory :
    let s := mach (withH [])
    s.me.imx.length ≤ 2 ∧ s.me.holds always = true ∧ (s.me.getH 1).ord = 1 ∧ (s.me.getH 1).bnd = false ∧ gaSpace (s.me.getH 1).gbase ≠ 7
    ∧ reaches s (.load s.me.sys.pl) true 0x10078 8 ∧ prepared s 0x10078 = false ∧ lineOf (0x10078 + 8 - 1) = lineOf 0x10078
    ∧ quiet s ∧ untracked s s.me.sys.asid 0x10078
    ∧ SMap.find (s.core s.myCore).si (lineOf 0x10078) = none
    ∧ checkRead (s.me.getH 1) 1 (immBits s.me.imx (15 : BitVec 7) * BitVec.ofNat 64 8) 8 true = .ok 0x10078
    ∧ checkRead (s.me.getH 1) 1 (s.x 0 * BitVec.ofNat 64 8) 8 true = .ok 0x10000 :=
  ⟨by decide, by decide, rfl, rfl, by decide, by unfold reaches; decide, by decide, by decide, ⟨by decide, rfl⟩,
    by unfold untracked; decide, by decide, rfl, rfl⟩
theorem witness_LoadReturnsMemory_others :
    -- a package that is absent, a region of a host, an error, a read group
    (let s := mach (withX [(1, 2 ^ 50)]); fenced s (pkgOf s.myDie) (.load false) (5 * 2 ^ 50) 8 = true)
    ∧ (let s := procMach { ctx0 with h := [(1, { h0 with gbase := 0x200000 })] }
       checkRead (s.me.getH 1) 1 (s.x 0 * BitVec.ofNat 64 8) 8 true = .ok 0x200000
       ∧ fenced s (pkgOf s.myDie) (.load s.me.sys.pl) 0x200000 8 = false
       ∧ (heldBy s s.me.sys.asid false 0x200000).isSome = true)
    ∧ (let s := { mach (withH []) with ue := [0x10078] }
       fenced s (pkgOf s.myDie) (.load s.me.sys.pl) 0x10078 8 = false ∧ heldBy s s.me.sys.asid true 0x10078 = none
       ∧ prepared s 0x10078 = false ∧ hasUe s 0x10078 8 = true)
    ∧ (let s := mach { ctx0 with h := [(1, { h0 with bnd := true })], rg := some (⟨false, false, 0, []⟩ : ReadGroup) }
       (s.me.getH 1).bnd = true ∧ s.me.rg = some (⟨false, false, 0, []⟩ : ReadGroup)) :=
  ⟨by decide, ⟨rfl, by decide, by decide⟩, ⟨by decide, by decide, by decide, by decide⟩, rfl, rfl⟩
theorem witness_StoreEntersBuffer :
    (let s := mach (withH [])
     s.me.imx.length ≤ 2 ∧ s.me.holds always = true ∧ gaSpace (s.me.getH 2).gbase ≠ 7
     ∧ pkgGone s (pkgOf s.myDie) (gaPkg (2 * 2 ^ 44)) = false ∧ procOwned s (2 * 2 ^ 44) = false ∧ s.me.owed = none
     ∧ checkOwnWrite s s.cur (s.me.getH 2) 2 (immBits s.me.imx (0 : BitVec 7) * BitVec.ofNat 64 4) 4 = .ok (2 * 2 ^ 44)
     ∧ checkOwnWrite s s.cur (s.me.getH 2) 2 (s.x 0 * BitVec.ofNat 64 4) 4 = .ok (2 * 2 ^ 44))
    ∧ (let s := procMach { ctx0 with h := [(1, { h0 with gbase := 0x200000 })] }
       gaSpace (s.me.getH 1).gbase ≠ 7 ∧ pkgGone s (pkgOf s.myDie) (gaPkg 0x200000) = false ∧ procOwned s 0x200000 = true
       ∧ checkOwnWrite s s.cur (s.me.getH 1) 1 (immBits s.me.imx (0 : BitVec 7) * BitVec.ofNat 64 4) 4 = .ok 0x200000
       ∧ checkOwnWrite s s.cur (s.me.getH 1) 1 (s.x 0 * BitVec.ofNat 64 4) 4 = .ok 0x200000) :=
  ⟨⟨by decide, by decide, by decide, by decide, by decide, rfl, rfl, rfl⟩, by decide, by decide, by decide, rfl, rfl⟩
/-- A buffered store of two bytes to the scratchpads. -/
def store0 : BufStore := ⟨2 * 2 ^ 44, [(2 * 2 ^ 44, 1), (2 * 2 ^ 44 + 1, 2)], .own, false, false, false, false, none, 0, 0, [2], 0⟩
theorem witness_StoreIsForwarded :
    (1 : Nat) < [(0 : Byte), 0, 0].length ∧ store0.parts.find? (fun p => p.1 == 2 * 2 ^ 44 + 1) = some (2 * 2 ^ 44 + 1, 2)
    ∧ store0.parts.find? (fun p => p.1 == 2 * 2 ^ 44 + 2) = none := by decide
theorem witness_StorePerforms :
    let s := mach { ctx0 with sbuf := [store0] }
    (s.ctx 0).sbuf[0]? = some store0 ∧ mayPerform (s.ctx 0).sbuf 0 = true ∧ heldBy s store0.asid true store0.ga = none
    ∧ fenced s (pkgOf (dieOf 0)) .store store0.ga 1 = false
    ∧ (∀ q ∈ store0.parts, untracked s store0.asid q.1 ∧ ∀ r ∈ store0.parts, away s store0.asid q.1 r.1) ∧ quiet s ∧ still s :=
  ⟨rfl, by decide, by decide, by decide, by unfold untracked away; decide, ⟨by decide, rfl⟩, by unfold still; decide⟩
theorem witness_AtomicCompletes :
    let s := mach (withH [])
    Issues s always ∧ checkOwnWrite s s.cur (s.me.getH 2) 2 (s.x 0) 8 = .ok (2 * 2 ^ 44) ∧ gaSpace (s.me.getH 2).gbase ≠ 7
    ∧ reaches s .store true (2 * 2 ^ 44) 8 ∧ (s.me.getH 2).ord = 1 ∧ s.me.owed = none ∧ s.me.sbuf = [] ∧ quiet s
    ∧ lineOf (2 * 2 ^ 44 + 8 - 1) = lineOf (2 * 2 ^ 44) ∧ untracked s s.me.sys.asid (2 * 2 ^ 44) ∧ still s :=
  ⟨⟨rfl, by decide⟩, rfl, by decide, by unfold reaches; decide, rfl, rfl, rfl, ⟨by decide, rfl⟩, by decide, by unfold untracked; decide, by unfold still; decide⟩
theorem witness_UpdateCompletes :
    let s := mach (withH [])
    Issues s always ∧ checkOwnWrite s s.cur (s.me.getH 1) 1 (s.x 0) 4 = .ok 0x10000 ∧ gaSpace (s.me.getH 1).gbase ≠ 7
    ∧ fenced s (pkgOf s.myDie) .store 0x10000 4 = false ∧ heldBy s s.me.sys.asid true 0x10000 = none ∧ (s.me.getH 1).nt = false ∧ quiet s ∧ s.me.sbuf = [] ∧ s.me.owed = none
    ∧ pkgGone s (pkgOf s.myDie) (gaPkg 0x10000) = false ∧ hasRoom s s.myCore
    ∧ (∀ e ∈ (s.core s.myCore).deltas, e.ga + updWidth e.op ≤ 0x10000 ∨ 0x10000 + 4 ≤ e.ga)
    ∧ (let s' := { s with cores := [(0, { s.core 0 with deltas := [⟨0x10000, .addW, 5, [(3, 0)], false⟩] })] }
       hasRoom s' s'.myCore ∧ (∃ e, (s'.core s'.myCore).deltas = [e] ∧ e.ga = 0x10000 ∧ e.op = .addW
         ∧ e.who.any (fun w => w.1 == s'.cur) = false ∧ fenced s' (pkgOf s'.myDie) .engine e.ga (updWidth e.op) = false
         ∧ ∀ w ∈ e.who, untracked s' w.2 e.ga) ∧ onlyCore s' s'.myCore ∧ still s')
    ∧ (let s' := { s with cores := [(0, { s.core 0 with deltas := [⟨0x10000, .addW, 5, [(0, 0)], false⟩] })] }
       onlyCore s' s'.myCore ∧ ∃ e, (s'.core s'.myCore).deltas = [e] ∧ e.who.any (fun w => w.1 == s'.cur) = true)
    ∧ f32Scaled 0x3F800000 = some (2 ^ 149) ∧ f32Scaled 0x40000000 = some (2 ^ 149 + 2 ^ 149) :=
  ⟨⟨rfl, by decide⟩, rfl, by decide, by decide, by decide, rfl, ⟨by decide, rfl⟩, rfl, rfl, by decide, by unfold hasRoom; decide, by decide,
    ⟨by unfold hasRoom; decide, ⟨_, rfl, rfl, rfl, by decide, by decide, by unfold untracked; decide⟩, by unfold onlyCore; decide,
      by unfold still; decide⟩, ⟨by unfold onlyCore; decide, _, rfl, by decide⟩, by decide, by decide⟩
theorem witness_FencesAndLines :
    let s := mach { withH [] with sys := { Sys.reset with pl := true } }
    Issues s always ∧ s.me.sbuf = [] ∧ s.me.owed = none ∧ s.me.sys.pl = true ∧ (∀ e ∈ s.cores, ∀ d ∈ e.2.deltas, ∀ w ∈ d.who, w.1 ≠ s.cur)
    ∧ (∃ e, checkRead (s.me.getH 3) 3 (s.x 0) 1 false = .error e)
    ∧ checkRead (s.me.getH 1) 1 (s.x 0) 1 false = .ok 0x10000 ∧ quiet s
    ∧ untracked s s.me.sys.asid (lineOf 0x10000 * 128)
    ∧ (let s' := { s with dirty := [(lineOf 0x10000, ⟨0, 1, 1, []⟩)] }
       ∃ o, SMap.find s'.dirty (lineOf 0x10000) = some o ∧ o.core = s'.myCore) :=
  ⟨⟨rfl, by decide⟩, rfl, rfl, rfl, by decide, ⟨_, rfl⟩, rfl, ⟨by decide, rfl⟩, by unfold untracked; decide, ⟨_, rfl, rfl⟩⟩
/-- A machine whose region 1 is shared, with its ownership byte. -/
def shared (own : Byte) : State :=
  { mach ctx0 with dies := [(0, { Die.reset with started := true, rotbase := 0x8000 })], mem := [(0x8001, own)] }
theorem witness_HostsAndScopes :
    (inBar 0 0x200078 = false ∧ lineOf (0x200078 + 8 - 1) = lineOf 0x200078 ∧ hostMay (shared 3) 0 0x200078 8 = false
      ∧ hostMay (shared 1) 0 0x200078 8 = true ∧ quiet (shared 1) ∧ still (shared 1))
    ∧ (let g := 7 * 2 ^ 44 + 0x160008
       let s := { mach ctx0 with pkgs := [(0, { Pkg.reset with power := true })] }
       inBar 0 g = true ∧ (s.pkg 0).power = true ∧ purserHere s (4 * 0) = true ∧ gaOff g % 8 = 0)
    ∧ (∀ own ∈ [(1 : Byte), 3], let s := shared own
       (s.die 0).started = true ∧ s.peek ((s.die 0).rotbase + 1) 1 = own.toNat ∧ SMap.find (s.die 0).flips 1 = none
       ∧ (∀ e ∈ s.ctxs, e.2.sbuf = []) ∧ deviceAsks s 0 1 = false ∧ s.pkgs.any (fun p => p.2.hostAsks.contains (0, 1)) = false)
    ∧ (let s := { shared 3 with pkgs := [(0, { Pkg.reset with hostAsks := [(0, 1)] })] }
       s.peek ((s.die 0).rotbase + 1) 1 = 3 ∧ quiet s ∧ s.pkgs.any (fun p => p.2.hostAsks.contains (0, 1)) = true)
    ∧ (let s := { shared 1 with ctxs := [(0, { ctx0 with wait := some ⟨wait1, 0⟩ })] }
       s.peek ((s.die 0).rotbase + 1) 1 = 1 ∧ (∀ e ∈ s.ctxs, e.2.sbuf = []) ∧ deviceAsks s 0 1 = true)
    ∧ (let s := { mach ctx0 with dies := [(0, { Die.reset with flips := [(1, 5)] })], now := 8004 }
       SMap.find (s.die 0).flips 1 = some 5 ∧ s.now < 5 + 8000)
    ∧ (let s := { mach ctx0 with scopes := [(7, (0, .core))] }
       SMap.find s.scopes 7 = some (0, .core) ∧ inScope 0 0 .core = true ∧ inScope 0 1 .core = false
       ∧ ∀ i < 16, (s.ctx (16 * 0 + i)).sbuf = []) :=
  ⟨⟨by decide, by decide, by decide, by decide, ⟨by decide, rfl⟩, by unfold still; decide⟩, by decide, by decide,
   ⟨by decide, ⟨by decide, rfl⟩, by decide⟩, by decide, by decide, by decide⟩
theorem witness_DirectoryMessages :
    (let s := { mach ctx0 with dir := [(5, ⟨.M, some 1, [1]⟩)] }
     quiet s ∧ (s.dirOf 5).owner = some 1 ∧ 1 ∈ (s.dirOf 5).dies ∧ 0 ∉ (s.dirOf 5).dies ∧ (s.dirOf 5).st ≠ .I
     ∧ (s.dirOf 5).dies.filter (fun o => o != 0) = [1])
    ∧ (let s := mach ctx0; (s.dirOf 5).owner = none ∧ 0 ∉ (s.dirOf 5).dies ∧ (s.dirOf 5).st = .I
       ∧ (s.dirOf 5).dies.filter (fun o => o != 0) = [] ∧ ∀ x ∈ s.ctxs, x.2.task = none)
    ∧ (let m : CMsg := ⟨.fwd, 0, 1, 2, 5⟩
       dieDirty { mach ctx0 with cmsgs := [m], dirty := [(5, ⟨64, 1, 1, []⟩)] } m.dst m.line = true
       ∧ dieDirty { mach ctx0 with cmsgs := [m] } m.dst m.line = false)
    ∧ (let m : CMsg := ⟨.iack, 0, 1, 2, 5⟩; m.kind = .iack ∧ ∀ o ∈ ([⟨.inv, 0, 1, 2, 6⟩] : List CMsg), o.line = m.line → o.kind ≠ .inv ∧ o.kind ≠ .iack) :=
  ⟨⟨⟨by decide, rfl⟩, by decide, by decide, by decide, by decide, by decide⟩, by decide, by decide, by decide⟩

/-! ## Queues -/

/-- A queue between a context and its region. -/
def queue0 : Queue := ⟨0, false, false, 0, 0, 0, [], [], 0, 0, false, true⟩
/-- A binding of a direction to queue-table entry e. -/
def bind0 (d : Dir) (boq : Bool) (e : Nat) : Binding := ⟨d, boq, false, 0, 0, none, false, false, 0, [], false, e⟩
/-- A DATA token of 16 lanes 0 to 15. -/
def tok0 : Token := ⟨.data, (List.range 16).map (BitVec.ofNat 32), false, none, 0⟩
/-- A task with an OUT queue 0, an IN queue 1 that holds tokens, an outgoing and an incoming branch-outcome queue. -/
def task0 (l : List Token) : Task :=
  ⟨1, 0, 0, 0, 0, 0, 0, 3, 0, 0, [], [], [(0, queue0), (1, { queue0 with inward := true, ctxQ := l }),
    (2, { queue0 with boq := true }), (3, { queue0 with inward := true, boq := true, ctxQ := l })], none, 0, []⟩
/-- A context of that task, with q1 OUT, q2 IN, q3 and q4 the branch-outcome queues. -/
def withQ (x : SMap Word) (l : List Token) : Ctx :=
  { withH x with task := some (task0 l), q := [(1, bind0 .out false 0), (2, bind0 .inn false 1), (3, bind0 .out true 2), (4, bind0 .inn true 3)] }
/-- An end token. -/
def endTok (k : TokKind) : Token := ⟨k, List.replicate 16 0, false, none, 0⟩

theorem test_qput_assembles : (after (.qputW always 1 5) (mach (withQ [(5, 7)] []))).map (fun c => (c.endOf 1).map (fun e => e.1.asm))
    = some (some [7]) := by decide
theorem test_sixteenth_lane_enters : (after (.qputs 1 5)
    (mach { withQ [(5, 7)] [] with q := [(1, { bind0 .out false 0 with asm := List.replicate 15 1 })] })).map
    (fun c => (c.endOf 1).map (fun e => (e.1.asm, e.2.regQ.map (fun t => t.lanes.getLast?), e.1.cnt))) = some (some ([], [some 7], 1)) := by
  decide
theorem test_qputD_odd_lane : trapAfter (.qputD always 1 5) (mach { withQ [] [] with q := [(1, { bind0 .out false 0 with asm := [1] })] })
    = some (0x13, 1) := by decide
theorem test_qpop_takes_head : xAfter (.qpopD always 5 2) (mach (withQ [] [tok0])) 5 = some 0x100000000 := by decide
theorem test_qpop_eos_gives_zero : (after (.qpopW always 5 2) (mach (withQ [(5, 9)] [endTok .eos]))).map
    (fun c => (c.getX 5, (c.endOf 2).map (fun e => e.1.endf))) = some (0, some true) := by decide
theorem test_qpop_eeos_traps : trapAfter (.qpopW always 5 2) (mach (withQ [] [endTok .eeos])) = some (0x20, 2) := by decide
theorem test_qpop_empty_waits : (after (.qpopW always 5 2) (mach (withQ [] []))).map (fun c => (c.wait, c.blk.pc))
    = some (some ⟨.qEmpty 2, 0⟩, 0x10004) := by decide
theorem test_qput_wrong_direction : trapAfter (.qputW always 2 5) (mach (withQ [] [])) = some (0x13, 2) := by decide
theorem test_qstat_unbound : xAfter (.qstat always 5 9) (mach (withQ [(5, 1)] [])) 5 = some 0 := by decide
theorem test_brq_taken : (after (.brq always 4 (BitVec.ofInt 17 (-2)))
    { coded (withQ [] [{ tok0 with lanes := 1 :: List.replicate 15 0 }]) [.hint 0] with now := 0 }).map (fun c => (c.blk.pc, c.blk.entering))
    = some (0x10000, true) := by decide

theorem witness_BranchOnQueue :
    (Issues (mach ctx0) always ∧ (mach ctx0).me.boundFor 4 .bqpop = none)
    ∧ (let s := procMach (withQ [] [tok0])
       (s.me.boundFor 4 .bqpop).isSome = true
       ∧ headerWait s s.cur (BitVec.ofNat 64 s.me.blk.pc + 2 * (0 : BitVec 17).signExtend 64).toNat = some wait1)
    ∧ (let s := mach (withQ [] [tok0])
       let tgt := (BitVec.ofNat 64 s.me.blk.pc + 2 * (0 : BitVec 17).signExtend 64).toNat
       (s.me.boundFor 4 .bqpop).isSome = true ∧ headerWait s s.cur tgt = none
       ∧ ∃ s' e, checkTarget s s.cur tgt = (s', .error e))
    ∧ (∀ k ∈ [TokKind.data, .eos, .eeos],
        let s := coded (withQ [] [{ tok0 with kind := k }]) [.hint 0]
        let tgt := (BitVec.ofNat 64 s.me.blk.pc + 2 * (BitVec.ofInt 17 (-2)).signExtend 64).toNat
        headerWait s s.cur tgt = none
        ∧ ∃ s', checkTarget s s.cur tgt = (s', .ok ())
          ∧ consumerBusy s' s'.cur 4 = false
          ∧ ∃ r, s'.me.boundFor 4 .bqpop = some r ∧ r.1.err = false ∧ r.2.ctxQ = [{ tok0 with kind := k }] ∧ r.2.cut = false) := by
  refine ⟨⟨⟨rfl, by decide⟩, rfl⟩, by decide, ⟨by decide, by decide, _, _, rfl⟩, ?_⟩
  intro k hk
  simp only [List.mem_cons, List.not_mem_nil, or_false] at hk
  rcases hk with rfl | rfl | rfl <;> exact ⟨by decide, _, rfl, by decide, _, rfl, rfl, rfl, rfl⟩
theorem witness_QueueProducers :
    let s := mach (withQ [] [])
    Issues s always ∧ producerBusy s s.cur 1 = false ∧ producerBusy s s.cur 3 = false ∧ unfenced s
    ∧ (let st : BufStore := { store0 with ga := 0x200000 }
       let s' := procMach { withQ [] [] with sbuf := [st], epoch := 1 }
       s'.me.sbuf = [st] ∧ st.epoch < s'.me.epoch ∧ heldBy s' st.asid true st.ga = some wait1 ∧ producerBusy s' s'.cur 3 = false
       ∧ ∃ b k, s'.me.boundFor 3 .bqpush = some (b, k) ∧ 1 ≤ k.room)
    ∧ (∃ b k, s.me.boundFor 1 .produce = some (b, k) ∧ b.asm.length < 14 ∧ b.asm.length % 2 = 0 ∧ b.asm = [] ∧ 2 ≤ k.room)
    ∧ (∃ b k, s.me.boundFor 3 .bqpush = some (b, k) ∧ 1 ≤ k.room)
    ∧ (∀ n ∈ [14, 15],
        let s' := mach { withQ [] [] with q := [(1, { bind0 .out false 0 with asm := List.replicate n 1 })] }
        ∃ b k, s'.me.boundFor 1 .produce = some (b, k) ∧ b.asm.length = n ∧ 1 ≤ k.room) := by
  refine ⟨⟨rfl, by decide⟩, by decide, by decide, by unfold unfenced; decide,
    ⟨rfl, by decide, by decide, by decide, _, _, rfl, by decide⟩, ⟨_, _, rfl, by decide, by decide, rfl, by decide⟩, ⟨_, _, rfl, by decide⟩, ?_⟩
  intro n hn
  simp only [List.mem_cons, List.not_mem_nil, or_false] at hn
  rcases hn with rfl | rfl <;> exact ⟨_, _, rfl, rfl, by decide⟩
theorem witness_QueueConsumers :
    (∀ k ∈ [TokKind.data, .eos, .eeos],
      let s := mach (withQ [] [{ tok0 with kind := k }])
      Issues s always ∧ consumerBusy s s.cur 2 = false
      ∧ (∃ b q, s.me.boundFor 2 .consume = some (b, q) ∧ b.cur = none ∧ b.lp = 0 ∧ b.err = false ∧ q.ctxQ = [{ tok0 with kind := k }]
          ∧ q.cut = false)
      ∧ ∃ b q, s.me.boundFor 4 .bqpop = some (b, q) ∧ b.err = false ∧ q.ctxQ = [{ tok0 with kind := k }] ∧ q.cut = false)
    ∧ (∀ n ∈ [0, 14, 15], let s := mach { withQ [] [] with q := [(2, { bind0 .inn false 1 with cur := some tok0, lp := n })] }
        ∃ b q, s.me.boundFor 2 .consume = some (b, q) ∧ b.cur = some tok0 ∧ b.lp = n)
    ∧ (let s := mach { withQ [] [] with q := [(2, { bind0 .inn false 1 with err := true })] }
       ∃ b q, s.me.boundFor 2 .consume = some (b, q) ∧ b.cur = none ∧ b.lp = 0 ∧ b.err = true) := by
  refine ⟨?_, ?_, _, _, rfl, rfl, rfl, rfl⟩
  · intro k hk
    simp only [List.mem_cons, List.not_mem_nil, or_false] at hk
    rcases hk with rfl | rfl | rfl <;>
      exact ⟨⟨rfl, by decide⟩, by decide, ⟨_, _, rfl, rfl, rfl, rfl, rfl, rfl⟩, _, _, rfl, rfl, rfl, rfl⟩
  · intro n hn
    simp only [List.mem_cons, List.not_mem_nil, or_false] at hn
    rcases hn with rfl | rfl | rfl <;> exact ⟨_, _, rfl, rfl, rfl⟩
theorem witness_QueueEdges :
    (let s := mach (withQ [] [])
     Issues s always ∧ s.me.boundFor 2 .produce = none ∧ s.me.boundFor 1 .consume = none ∧ s.me.endOf 9 = none
     ∧ (∃ b k, s.me.boundFor 2 .consume = some (b, k) ∧ consumerBusy s s.cur 2 = false ∧ b.cur = none ∧ b.lp = 0 ∧ b.err = false
         ∧ k.ctxQ = [] ∧ timedOut s s.cur b.tmo = false)
     ∧ ∃ b k, s.me.endOf 2 = some (b, k) ∧ b.cnt < 2 ^ 32 ∧ k.ctxTokens.length ≤ 32 ∧ b.lp < 16 ∧ b.asm.length < 16)
    ∧ (let s := mach { withQ [] [] with task := some { task0 [] with queues := [(0, { queue0 with regQ := List.replicate 64 tok0 })] } }
       ∃ b k, s.me.boundFor 1 .produce = some (b, k) ∧ producerBusy s s.cur 1 = false ∧ b.asm = [] ∧ k.room = 0
         ∧ timedOut s s.cur b.tmo = false)
    ∧ (let s := { mach { withQ [] [] with q := [(2, { bind0 .inn false 1 with tmo := 1 })], wait := some ⟨.qEmpty 2, 0⟩ } with now := 1024 }
       s.me.wait = some ⟨.qEmpty 2, 0⟩ ∧ s.me.between = true
       ∧ ∃ b k, s.me.endOf 2 = some (b, k) ∧ k.ctxQ = [] ∧ b.err = false ∧ b.cur = none ∧ b.tmo = 1 ∧ 1 * 1024 ≤ s.now - 0)
    ∧ (let s := { mach { withQ [] [tok0] with q := [(2, { bind0 .inn false 1 with tmo := 1 })], wait := some ⟨.qEmpty 2, 0⟩ } with now := 1024 }
       s.me.wait = some ⟨.qEmpty 2, 0⟩ ∧ ∃ b k, s.me.endOf 2 = some (b, k) ∧ k.ctxQ ≠ []) :=
  ⟨⟨⟨rfl, by decide⟩, by decide, by decide, by decide, ⟨_, _, rfl, by decide, rfl, rfl, rfl, rfl, by decide⟩,
     _, _, rfl, by decide, by decide, by decide, by decide⟩,
   ⟨_, _, rfl, by decide, rfl, by decide, by decide⟩, ⟨rfl, by decide, _, _, rfl, rfl, rfl, rfl, rfl, by decide⟩, rfl, _, _, rfl, by decide⟩

/-! ## Streams, fibres, copies -/

/-- x4..x7: a stream of four doublewords through h1. -/
def streamRec : SMap Word := [(4, 0), (5, 8), (6, 0x100000004), (7, 0x31)]
/-- x4..x7: a fibre of segment 0, all of it through h1. -/
def fibreRec : SMap Word := [(4, 0), (5, 0x100), (6, 0x200), (7, 0x3111)]
/-- A context whose s1 stands open on the stream. -/
def withS (pos : Nat) : Ctx := { withQ streamRec [] with s := [(1, ⟨[0, 8, 0x100000004, 0x31], h0, pos, none, 0⟩)] }
/-- A fibre over elements 2 to 4. -/
def fib0 : Fibre := ⟨[0, 0x100, 0x200, 0x3111], h0, h0, h0, 2, 4, 2, 2, none, 0⟩
/-- A push of one element of the stream. -/
def push0 : Push := ⟨false, 1, [0, 8, 0x100000004, 0x31], h0, 0, 1, 1, false, 0, 0, 0⟩

theorem test_sopen : (after (.sopen always 1 4) (mach (withH streamRec))).map (fun c => (SMap.find c.s 1).map (fun t => t.pos)) = some (some 0) := by
  decide
theorem test_spush_issues : (after (.spush always 1 1 8) (mach { withS 3 with x := [(8, 5)] })).map
    (fun c => (c.pushes.map (fun u => (u.next, u.remaining)), (SMap.find c.s 1).map (fun t => t.pos))) = some ([(3, 1)], some 4) := by decide
theorem test_stend : pAfter (.stend always 2 1) (mach (withS 4)) 2 = some true := by decide
theorem test_stream_read_fills_lanes : (nextOf (exec (.streamRead 0 1)
    { mach { withS 1 with pushes := [push0] } with mem := [(0x10000, 3), (0x10004, 4)] })).map
    (fun s => ((s.me.endOf 1).map (fun e => e.1.asm), s.me.pushes)) = some (some [3, 4], []) := by decide
theorem test_fopen : (after (.fopen always 2 4) { mach (withH fibreRec) with mem := [(0x10000, 2), (0x10004, 4)] }).map
    (fun c => (SMap.find c.f 2).map (fun t => (t.beg, t.fin, t.vpos))) = some (some (2, 4, 2)) := by decide

theorem witness_StreamWords :
    (let s := mach (withH streamRec); Issues s always ∧ sopenCheck s 4 (quad s 4) = .ok ())
    ∧ (∃ e, sopenCheck (mach ctx0) 4 (quad (mach ctx0) 4) = .error e)
    ∧ (let s := mach { withQ [(8, 65536)] [] with s := (withS 3).s }
       ∃ t, SMap.find s.me.s 1 = some t ∧ t.err = none ∧ t.hcopy.v = true ∧ (s.me.boundFor 1 .produce).isSome = true
         ∧ (s.x 8).toNat ≤ 65536 ∧ ownPush s.me false 1 = none ∧ producerBusy s s.cur 1 = false ∧ settled s)
    ∧ SMap.find (mach ctx0).me.s 1 = none
    ∧ (let s := mach { ctx0 with s := [(1, ⟨[0, 0, 0, 0], h0, 0, some (0x51, 9), 0⟩)] }
       ∃ t, SMap.find s.me.s 1 = some t ∧ t.err = some (0x51, 9))
    ∧ (let s := mach { withQ [(8, 65537)] [] with s := [(1, ⟨[0, 0, 0, 0], { h0 with v := false }, 0, none, 0⟩)] }
       (∃ t, SMap.find s.me.s 1 = some t ∧ t.err = none ∧ t.hcopy.v = false) ∧ (s.me.boundFor 1 .produce).isSome = true
         ∧ 65536 < (s.x 8).toNat) :=
  ⟨⟨⟨rfl, by decide⟩, rfl⟩, ⟨_, rfl⟩, ⟨_, rfl, rfl, rfl, by decide, by decide, by decide, by decide, rfl, rfl, by decide⟩, by decide,
    ⟨_, rfl, rfl⟩, ⟨_, rfl, rfl, rfl⟩, by decide, by decide⟩
theorem witness_FibreWords :
    (let s := { mach (withH fibreRec) with mem := [(0x10000, 2), (0x10004, 4)] }
     let w := (quad s 4).getD 3 0
     let h := s.me.getH (bitsOf w 0 4)
     Issues s always ∧ bitsOf w 48 16 = 0 ∧ bitsOf w 14 2 ≠ 3 ∧ bitsOf w 16 32 ≠ 2 ^ 32 - 1 ∧ bitsOf w 12 2 = 3
     ∧ checkRead h (bitsOf w 0 4) (wordOf ((quad s 4).getD 0 0 + 4 * bitsOf w 16 32)) 4 true = .ok 0x10000
     ∧ checkRead h (bitsOf w 0 4) (wordOf ((quad s 4).getD 0 0 + 4 * bitsOf w 16 32) + 4) 4 true = .ok (0x10000 + 4)
     ∧ s.me.wait = none ∧ gaSpace h.gbase ≠ 7 ∧ s.me.sbuf = [] ∧ quiet s
     ∧ (∀ a ∈ [0x10000, 0x10000 + 4], reaches s (.load s.me.sys.pl) (effRt (rtOf (bitsOf w 12 2)) h.nt == .own) a 4 ∧ prepared s a = false ∧ lineOf (a + 3) = lineOf a
        ∧ untracked s s.me.sys.asid a ∧ SMap.find (s.core s.myCore).si (lineOf a) = none)
     ∧ 2 = s.peek 0x10000 4 ∧ 4 = s.peek (0x10000 + 4) 4 ∧ fopenRanges s (quad s 4) 2 4 = .ok ())
    ∧ (let s := mach { withQ [(8, 65536)] [] with f := [(2, fib0)] }
       ∃ t, SMap.find s.me.f 2 = some t ∧ t.err = none ∧ t.vh.v = true ∧ t.ch.v = true ∧ (s.me.boundFor 1 .produce).isSome = true
         ∧ (s.x 8).toNat ≤ 65536 ∧ ownPush s.me true 2 = none ∧ producerBusy s s.cur 1 = false ∧ settled s)
    ∧ (let s := mach { withQ [(8, 65537)] [] with f := [(2, { fib0 with vh := { h0 with v := false } })] }
       (∃ t, SMap.find s.me.f 2 = some t ∧ t.err = none ∧ t.vh.v = false) ∧ (s.me.boundFor 1 .produce).isSome = true
         ∧ 65536 < (s.x 8).toNat)
    ∧ (let s := mach { withQ [] [] with f := [(2, { fib0 with ch := { h0 with v := false }, err := some (0x51, 9) })] }
       ∃ t, SMap.find s.me.f 2 = some t ∧ t.vh.v = true ∧ t.ch.v = false ∧ t.err = some (0x51, 9))
    ∧ SMap.find (mach ctx0).me.f 2 = none := by
  refine ⟨⟨⟨rfl, by decide⟩, by decide, by decide, by decide, by decide, rfl, rfl, rfl, by decide, rfl, ⟨by decide, rfl⟩, ?_,
    by decide, by decide, rfl⟩,
    ⟨_, rfl, rfl, rfl, rfl, by decide, by decide, by decide, by decide, rfl, rfl, by decide⟩,
    ⟨⟨_, rfl, rfl, rfl⟩, by decide, by decide⟩, ⟨_, rfl, rfl, rfl, rfl⟩, by decide⟩
  intro a ha
  simp only [List.mem_cons, List.not_mem_nil, or_false] at ha
  rcases ha with rfl | rfl <;>
    exact ⟨by unfold reaches; decide, by decide, by decide, by unfold untracked; decide, by decide⟩
theorem witness_PushElements :
    (let s := mach { withS 1 with pushes := [push0] }
     ∃ e, (s.ctx 0).pushes = [push0] ∧ push0.idx = (1 : BitVec 3).toNat ∧ (s.ctx 0).endOf push0.q = some e ∧ (s.die (dieOf 0)).pmop = none
      ∧ push0.dead = false ∧ push0.hcopy.v = true ∧ 0 < push0.remaining ∧ push0.element.2.1 = 8
      ∧ push0.hcopy.ga (push0.hcopy.vaAt push0.element.1) = 0x10000
      ∧ readWait s push0.asid push0.element.2.2 push0.hcopy.nt 0x10000 = none ∧ End.laneNeed e 2 ≤ e.2.room ∧ fenced s (pkgOf (dieOf 0)) .engine 0x10000 8 = false
      ∧ hasUe s 0x10000 8 = false ∧ lineOf (0x10000 + 8 - 1) = lineOf 0x10000 ∧ quiet s ∧ untracked s push0.asid 0x10000
      ∧ SMap.find (s.core (coreOf 0)).si (lineOf 0x10000) = none) :=
  ⟨_, rfl, rfl, rfl, rfl, rfl, rfl, by decide, by decide, by decide, by decide, by decide, by decide, by decide, by decide, ⟨by decide, rfl⟩,
    by unfold untracked; decide, by decide⟩
/-- x4..x7: a copy of 64 bytes from h1 at 0 to h2 at 64. -/
def copyRec (n : Word) : SMap Word := [(4, 0), (5, 64), (6, n), (7, 0x21)]
theorem test_copy_takes_tag : (nextOf (exec (.cpy always 9 4) (mach (withH (copyRec 64))))).map
    (fun s => ((s.core 0).tb, (s.core 0).copies.length)) = some (0x200, 1) := by decide
theorem test_copy_moves : ((nextOf (exec (.cpy always 9 4) { mach (withH (copyRec 4)) with mem := [(0x10001, 5)] })).bind
    (fun s => nextOf (exec (.copyRequest 0 9) s))).map (fun s => (s.mem, (s.core 0).tb)) = some ([(0x10001, 5), (2 * 2 ^ 44 + 65, 5)], 0) := by
  decide
theorem test_ffr_none_clear : xAfter (.ffr always 3 1) (mach ctx0) 3 = some 64 := by decide
theorem witness_CopiesAndTags :
    (∀ n ∈ [(0 : Word), 64], let s := mach (withH (copyRec n))
     let d := copyDesc (quad s 4)
     let w := (quad s 4).getD 3 0
     Issues s always ∧ bitsOf w 10 6 = 0 ∧ d.rows = 1 ∧ bitsOf w 16 48 = 0 ∧ d.dga = false ∧ d.sga = false
     ∧ copyCheck s d (newCopy s 9 false (quad s 4)) = .ok () ∧ (s.core s.myCore).tb.getLsbD 9 = false
     ∧ (s.core s.myCore).copies.length < 32 ∧ settled s ∧ d.len = n.toNat)
    ∧ (let k := (mach ctx0).core (mach ctx0).myCore; (1 : Word) &&& ~~~k.tb ≠ 0 ∧ k.errorIn (1 &&& ~~~k.tb) = none ∧ (1 : Word) &&& k.tb = 0
        ∧ k.errorIn 1 = none ∧ k.errorIn (wordOf (2 ^ 0)) = none ∧ ((1 : Word) &&& ~~~k.tb).getLsbD 0 = true)
    ∧ (let k := { Core.reset with tb := 1 }; (1 : Word) ≠ 0 ∧ (1 : Word) &&& ~~~k.tb = 0 ∧ (1 : Word) &&& k.tb ≠ 0)
    ∧ (let k := { Core.reset with tags := [(0, ⟨0, some (0x51, 8)⟩)] }; (1 : Word) &&& k.tb = 0 ∧ k.errorIn 1 = some (0, 0x51, 8)) := by
  refine ⟨?_, by decide, by decide, by decide⟩
  intro n hn
  simp only [List.mem_cons, List.not_mem_nil, or_false] at hn
  rcases hn with rfl | rfl <;>
    exact ⟨⟨rfl, by decide⟩, by decide, by decide, by decide, by decide, by decide, rfl, by decide, by decide, ⟨rfl, rfl, by decide⟩, by decide⟩
/-- A copy of 64 bytes between the scratchpads, as the engine holds it. -/
def copy0 : Copy := ⟨9, 0, 0, [0, 64, 64, 0x22], false, ⟨some h1, 0, 0⟩, ⟨some h1, 64, 0⟩, 1, 64, 0, 0, none, true, none, 0⟩
theorem witness_CopyRequestMoves :
    let s : State := { mach ctx0 with cores := [(0, { Core.reset with started := true, tb := 0x200, copies := [copy0] })] }
    let g := copy0.src.ga 0
    let d := copy0.dst.ga 0
    (s.core 0).copies = [copy0] ∧ copy0.tag = (9 : BitVec 6).toNat ∧ copy0.rows = 1 ∧ copy0.row = 0 ∧ copy0.byte = 0 ∧ 0 < copy0.len
    ∧ copy0.len ≤ 128 - d % 128 ∧ copy0.overlaps = false ∧ copy0.err = none ∧ (s.die (dieOf 0)).pmop = none ∧ s.hits = []
    ∧ spBlocked s 0 copy0.seq copy0.ranges = false ∧ engineWaits s g = false ∧ writeWaits s copy0.asid d = false
    ∧ fenced s (pkgOf (dieOfCore 0)) (.copyRead true) g 64 = false ∧ fenced s (pkgOf (dieOfCore 0)) (.copyWrite true) d 64 = false
    ∧ hasUe s g 64 = false ∧ hasUe s d 64 = false ∧ (∀ e ∈ s.ctxs, e.2.wengine = []) ∧ quiet s ∧ untracked s copy0.asid d ∧ still s :=
  ⟨rfl, rfl, rfl, rfl, rfl, by decide, by decide, by decide, rfl, by decide, rfl, by decide, by decide, by decide, by decide, by decide,
    by decide, by decide, by decide, ⟨by decide, rfl⟩, by unfold untracked; decide, by unfold still; decide⟩

/-! ## Index commands and volumes -/

/-- x4..x7: a shape record of rows of two words, stride 8, extent 3, data handle h1, index list through h1 at 0x100. -/
def shape (dh : Nat) (isrc : Nat) (tag : Nat) : SMap Word :=
  [(4, 0), (5, 0x800000003), (6, 0x100), (7, wordOf (dh + 16 * 1 + isrc * 2 ^ 20 + 2 ^ 24 + 2 * 2 ^ 44 + tag * 2 ^ 63)), (8, 2)]
/-- Memory with the index list (1, null) at 0x10100. -/
def listed (c : Ctx) : State := { mach c with mem := Mem.write (Mem.write [] 0x10100 4 1) 0x10104 4 0xFFFFFFFF }

theorem test_gath_joins_engine : (nextOf (exec (.gath always false 1 4 8) (listed (withQ (shape 1 0 0) [])))).map
    (fun s => (s.core 0).ix.map (fun m => m.rows)) = some [[.row 0x10008 0x10008 1, .null]] := by decide
theorem test_gath_row_appends : ((nextOf (exec (.gath always false 1 4 8)
      { listed (withQ (shape 1 0 0) []) with mem := (0x10008, 7) :: (listed ctx0).mem })).bind
    (fun s => nextOf (exec (.gathRow 0 0) s))).map (fun s => (s.me.endOf 1).map (fun e => e.1.asm)) = some (some [7, 0]) := by decide
theorem test_gath_index_out_of_range : trapAfter (.gath always false 1 4 8)
    { mach (withQ (shape 1 0 0) []) with mem := Mem.write [] 0x10104 4 3 } = some (0x13, 1) := by decide
theorem witness_IndexWords :
    (let s := mach (withQ (shape 1 0 0) []); Issues s always ∧ s.me.boundFor 9 .produce = none ∧ s.me.boundFor 9 .consume = none)
    ∧ ixFieldsBad 0 0 4097 (quad (mach (withQ (shape 1 0 0) [])) 4) = true
    ∧ (let s := listed (withQ (shape 1 0 0) [])
       let r := quad s 4
       (s.me.boundFor 1 .produce).isSome = true ∧ ixFieldsBad 0 0 2 r = false ∧ ixHandleCheck s 0 1 r = .ok ()
       ∧ (∃ a s1 l rows, ixSource s 0 2 r = .ok a ∧ a.n = 2 ∧ (∀ b ∈ s.me.sbuf, storeHeld s b = false) ∧ spBlocked s s.cur (s.core s.myCore).ixSeq [(a.ga 0, 4 * a.n, false)] = false
           ∧ rangeWait s (a.ga 0) (4 * a.n) = none ∧ ixList (drainWhile s s.cur (fun _ => a.n != 0)) s.cur a 0 a.n = (s1, .ok l)
           ∧ (recOob r = 0 ∧ ∀ v ∈ l, v = 0xFFFFFFFF ∨ v < rowExtent r)
           ∧ ixResolve s1 s1.cur 0 (s1.me.getH (ixDataHandle 0 1 r)) r l = .ok rows ∧ producerBusy s1 s1.cur 1 = false
           ∧ recTagged r = false ∧ (s1.core s1.myCore).ix.length < 8 ∧ settled s1))
    ∧ (let s := { leased (withQ (SMap.set (shape 0 0 0) 4 0x10000) []) with mem := Mem.write (leased ctx0).mem 0x10100 4 1 }
       let r := quad s 4
       (s.me.boundFor 1 .produce).isSome = true ∧ ixFieldsBad 3 0 1 r = false ∧ ixHandleCheck s 3 1 r = .ok ()
       ∧ (∃ a s1 l rows, ixSource s 3 1 r = .ok a ∧ a.n = 1
           ∧ ixList (drainWhile s s.cur (fun _ => a.n != 0)) s.cur a 0 a.n = (s1, .ok l) ∧ quiet s1
           ∧ firstOwned s1 (ixGas s1 s1.cur r l) = none
           ∧ ixResolve s1 s1.cur 3 (s1.me.getH (ixDataHandle 3 1 r)) r l = .ok rows ∧ producerBusy s1 s1.cur 1 = false
           ∧ recTagged r = false ∧ (s1.core s1.myCore).ix.length < 8 ∧ settled s1))
    ∧ (let s := { mach (withQ (shape 1 0 0) []) with mem := Mem.write [] 0x10104 4 3 }
       ∃ a s1 l, ixSource s 0 2 (quad s 4) = .ok a ∧ ixList (drainWhile s s.cur (fun _ => a.n != 0)) s.cur a 0 a.n = (s1, .ok l) ∧ l[1]? = some 3
         ∧ rowExtent (quad s 4) ≤ 3)
    ∧ (let s := mach (withQ (shape 3 0 0) []); ∃ c, ixHandleCheck s 0 1 (quad s 4) = .error c) :=
  ⟨⟨⟨rfl, by decide⟩, by decide, by decide⟩, by decide,
   ⟨by decide, by decide, rfl, _, _, _, _, rfl, rfl, by decide, by decide, by decide, rfl, by decide, rfl, by decide, by decide, by decide, rfl, rfl, by decide⟩,
   ⟨by decide, by decide, rfl, _, _, _, _, rfl, rfl, rfl, ⟨by decide, rfl⟩, by decide, rfl, by decide, by decide, by decide, rfl, rfl, by decide⟩,
   ⟨_, _, _, rfl, rfl, by decide, by decide⟩, _, rfl⟩
/-- A command in the engine. -/
def cmd0 (kind op : Nat) (rows : List IxRow) (cnt : Nat) (w3 : Nat) : IxCmd :=
  { kind := kind, owner := 0, asid := 0, word := 0, record := [0, 0x800000003, 0, w3], cnt := cnt, q := 1, flag := 0, op := op, dh := h0,
    ih := h0, ihn := 1, rows := rows, start := 0, pos := 0, wpos := 0, popped := [], found := false, arrived := [], bad := [], err := none, seq := 0 }
/-- A machine whose index engine holds one command. -/
def engined (c : Ctx) (m : IxCmd) : State := { mach c with cores := [(0, { Core.reset with started := true, ix := [m] })] }
theorem plain0 (c : Ctx) (m : IxCmd) (g n : Nat) (h : rowBusy (engined c m) m g n = false) (hw : writeWaits (engined c m) m.asid g = false)
    (h' : badRequest (engined c m) 0 g n = none) (h'' : lineOf (g + n - 1) = lineOf g) (hu : untracked (engined c m) m.asid g) :
    plainRow (engined c m) 0 m g n :=
  ⟨h, hw, h', h'', ⟨fun e he => by simp only [engined, List.mem_singleton] at he; subst he; rfl, rfl⟩, hu, rfl⟩
/-- What the read of one row at 0x10008 must not meet. -/
theorem row0 (c : Ctx) (m : IxCmd) (h : rowBusy (engined c m) m 0x10008 8 = false) (hw : writeWaits (engined c m) m.asid 0x10008 = false)
    (h' : badRequest (engined c m) 0 0x10008 8 = none) (hu : untracked (engined c m) m.asid 0x10008) :
    plainRow (engined c m) 0 m 0x10008 8 := plain0 c m _ _ h hw h' (by decide) hu
/-- A DATA token of 16 end positions. -/
def tokOf (k : TokKind) : Token := { tok0 with kind := k }
theorem witness_IndexRows_gather :
    (let m := cmd0 0 0 [.row 0x10008 0x10008 1] 1 (2 ^ 24)
     let s := engined (withQ [] []) m
     ixFree s 0 m ∧ (∃ e, (s.ctx 0).endOf 1 = some e ∧ 2 ≤ e.2.room * 16 + 15 - e.1.asm.length ∧ 2 ≤ e.2.room) ∧ rowBytes m.record = 8
     ∧ m.rows[m.pos]? = some (.row 0x10008 0x10008 1) ∧ m.found = false ∧ m.flag = 0 ∧ plainRow s 0 m 0x10008 8)
    ∧ (let m := cmd0 0 0 [.oob] 1 (2 ^ 24 + 2 ^ 36); m.rows[m.pos]? = some .oob ∧ recOob m.record = 1)
    ∧ (let m := { cmd0 0 0 [] 0 (2 ^ 24) with flag := 1 }; ixFree (engined ctx0 m) 0 m ∧ m.rows.length ≤ m.pos ∧ m.flag = 1)
    ∧ (let m := cmd0 3 0 [.row 0x10008 0x10008 1] 1 (2 ^ 24); ixFree (engined ctx0 m) 0 m ∧ m.rows = [.row 0x10008 0x10008 1] ∧ m.pos = 0)
    ∧ (let m := cmd0 1 0 [] 1 (2 ^ 24 + 2 * 2 ^ 44)
       let s := engined { withQ [] [] with q := [(1, bind0 .out false 0), (2, { bind0 .inn false 1 with cur := some tok0, lp := 1 })] } m
       ixFree s 0 m ∧ ∃ o, (s.ctx 0).endOf 2 = some o ∧ o.1.cur = some tok0 ∧ o.1.lp < 15 ∧ o.1.entry ≠ 0
         ∧ (tok0.lane o.1.lp).toNat < rowExtent m.record
         ∧ m.dh.ga (m.dh.vaAt (recBase m.record + ((tok0.lane o.1.lp).toNat * rowStride m.record : Nat))) = 0x10008
         ∧ plainRow s 0 m 0x10008 8)
    ∧ (∀ k ∈ [TokKind.eos, .eeos],
       let m := { cmd0 1 0 [] 1 (2 ^ 24 + 2 * 2 ^ 44) with flag := 1 }
       let s := engined (withQ [] [tokOf k]) m
       ixFree s 0 m ∧ ∃ o, (s.ctx 0).endOf 2 = some o ∧ o.1.cur = none ∧ o.1.err = false ∧ o.2.ctxQ = [tokOf k] ∧ o.2.cut = false) := by
  refine ⟨⟨?_, ⟨_, rfl, by decide, by decide⟩, by decide, rfl, rfl, rfl,
      row0 _ _ (by decide) (by decide) (by decide) (by unfold untracked; decide)⟩, by decide,
    ⟨?_, by decide, rfl⟩, ⟨?_, rfl, rfl⟩, ⟨?_, _, rfl, rfl, by decide, by decide, by decide, by decide,
      row0 _ _ (by decide) (by decide) (by decide) (by unfold untracked; decide)⟩, ?_⟩
  rotate_right
  · intro k hk
    simp only [List.mem_cons, List.not_mem_nil, or_false] at hk
    rcases hk with rfl | rfl <;> exact ⟨by unfold ixFree; decide, _, rfl, rfl, rfl, rfl, rfl⟩
  all_goals (unfold ixFree; decide)
theorem witness_IndexRows_scatter :
    (∀ op ∈ [0, scatCode .addD],
       let m := cmd0 2 op [.row 0x10008 0x10008 1] 1 (2 ^ 24 + 2 * 2 ^ 44 + 2 ^ 63)
       let s := engined { withQ [] [] with q := [(2, { bind0 .inn false 1 with cur := some tok0 })] } m
       ixFree s 0 m ∧ still s ∧ hasRoom s 0 ∧ m.dh.nt = false ∧ recTagged m.record = true ∧ rowBytes m.record = updWidth (scatUpd (scatCode .addD))
       ∧ (∃ e, (s.ctx 0).endOf 2 = some e ∧ e.1.cur = some tok0 ∧ e.1.lp = 0) ∧ plainRow s 0 m 0x10008 8)
    ∧ (let m := cmd0 2 0 [.null] 1 (2 ^ 24 + 2 * 2 ^ 44)
       ixFree (engined (withQ [] [tok0]) m) 0 m ∧ m.rows[m.pos]? = some .null)
    ∧ (let s := engined (withQ [] [tokOf .eos]) (cmd0 2 0 [.null] 1 (2 ^ 24 + 2 * 2 ^ 44 + 2 ^ 63))
       ∃ e, (s.ctx 0).endOf 2 = some e ∧ e.1.cur = none ∧ e.1.err = false ∧ e.2.ctxQ = [tokOf .eos] ∧ e.2.cut = false) := by
  refine ⟨?_, ⟨by unfold ixFree; decide, rfl⟩, _, rfl, rfl, rfl, rfl, rfl⟩
  intro op h
  simp only [List.mem_cons, List.not_mem_nil, or_false] at h
  rcases h with rfl | rfl <;>
    exact ⟨by unfold ixFree; decide, by unfold still; decide, by unfold hasRoom; decide, by decide, by decide, by decide, ⟨_, rfl, rfl, rfl⟩,
      row0 _ _ (by decide) (by decide) (by decide) (by unfold untracked; decide)⟩
theorem witness_IndexRows_scan :
    (∀ v ∈ [0, 7],
       let m := cmd0 4 1 [] 1 (2 * 2 ^ 38)
       let s := { engined (withQ [] []) m with mem := Mem.write [] 0x10000 4 v }
       ixFree s 0 m ∧ (∃ e, (s.ctx 0).endOf 1 = some e ∧ End.laneNeed e 2 ≤ e.2.room) ∧ m.pos < m.cnt ∧ recZm m.record = 0
       ∧ scanBytes m.record = 4 ∧ s.peek 0x10000 4 = v ∧ m.found = false
       ∧ m.dh.ga (m.dh.vaAt (recBase m.record + (m.pos * 4 : Nat))) = 0x10000
       ∧ readWait s m.asid (recRt m.record) m.dh.nt 0x10000 = none ∧ plainRow s 0 m 0x10000 4)
    ∧ (∀ f ∈ [false, true], let m := { cmd0 4 0 [] 0 (2 * 2 ^ 38) with found := f }
       let s := engined { withQ [] [] with q := [(1, { bind0 .out false 0 with asm := [1] })] } m
       ixFree s 0 m ∧ m.cnt = m.pos ∧ m.found = f ∧ ∃ e, (s.ctx 0).endOf 1 = some e ∧ e.1.asm ≠ [] ∧ 1 ≤ e.2.room) := by
  refine ⟨?_, ?_⟩
  · intro v h
    simp only [List.mem_cons, List.not_mem_nil, or_false] at h
    rcases h with rfl | rfl <;>
      exact ⟨by unfold ixFree; decide, ⟨_, rfl, by decide⟩, by decide, by decide, by decide, by decide, rfl, by decide, by decide,
        ⟨by decide, by decide, by decide, by decide, ⟨by decide, rfl⟩, by unfold untracked; decide, by decide⟩⟩
  · intro v h
    simp only [List.mem_cons, List.not_mem_nil, or_false] at h
    rcases h with rfl | rfl <;> exact ⟨by unfold ixFree; decide, by decide, rfl, _, rfl, by decide, by decide⟩

/-- The descriptor of a one-dimensional volume of 1,024 four-byte elements in tiles of 512 bytes, background 5, whose root slot
stands at 0x14000 and whose pools stand at 0x15000. -/
def desc0 : List Byte :=
  leBytes 1 1 ++ leBytes 1 0 ++ leBytes 1 2 ++ leBytes 1 7 ++ leBytes 3 0 ++ leBytes 1 1 ++ leBytes 12 0 ++ leBytes 4 1024 ++ leBytes 4 1
    ++ leBytes 4 1 ++ leBytes 8 5 ++ leBytes 8 0x14000 ++ leBytes 8 0x15000 ++ leBytes 8 0x15000 ++ leBytes 64 0
/-- The volume open on y1, with the frame 0x16000 of tile 0 in the CLB. -/
def vol0 : Vol := ⟨desc0, 0x13000⟩
def volumed (c : Ctx) (fr : Option Nat) : State :=
  { mach { c with y := [(1, vol0)] } with
    cores := [(0, { Core.reset with started := true, clb := fr.toList.map (fun f => ⟨0, 0x13000, 0, f⟩) })] }
theorem test_descriptor_is_good : volDescBad desc0 = false := by decide +kernel
theorem test_ldc_background : xAfter (.ldc always false .w 3 1 4) (volumed (withX [(4, 0)]) (some 0)) 3 = some 5 := by decide
theorem test_ldc_reads_element : xAfter (.ldc always false .w 3 1 4) { volumed (withX [(4, 1)]) (some 0x16000) with mem := [(0x16004, 9)] } 3
    = some 9 := by decide
theorem test_stc_writes_element : (nextOf (exec (.stc always false .w 3 1 4) (volumed (withX [(3, 7), (4, 2)]) (some 0x16000)))).map
    (fun s => s.mem) = some [(0x16008, 7)] := by decide
theorem test_ldc_outside : trapAfter (.ldc always false .w 3 1 4) (volumed (withX [(4, 1024)]) (some 0x16000)) = some (0x1A, 1024) := by decide
theorem test_ldc_closed : trapAfter (.ldc always false .w 3 2 4) (volumed (withX []) none) = some (0x12, 18) := by decide
theorem test_walk_posted : (nextOf (exec (.ldc always false .w 3 1 4) (volumed (withX []) none))).map
    (fun s => ((s.die 0).walks.map (fun w => (w.node, w.level, w.alloc)), s.me.wait)) = some ([(0x14000, 0, false)], some ⟨.walk 0 0, 0⟩) := by
  decide
/-- A volume's machine is quiet. -/
theorem quietV (c : Ctx) (fr : Option Nat) : quiet (volumed c fr) :=
  ⟨fun e he => by simp only [volumed, List.mem_singleton] at he; subst he; rfl, rfl⟩
/-- A walk at the leaf level of the volume, for the contexts given. -/
def walk0 (askers : List Asker) (level : Nat) : Walk := ⟨3, 0, 0x13000, desc0, 0, level, 0x14000, askers, none, false, false⟩
theorem witness_VolumeWords :
    (let s := mach ctx0
     Issues s always ∧ s.me.wait = none ∧ gaSpace (s.me.getH 1).gbase ≠ 7 ∧ ∃ e, checkRead (s.me.getH 1) 1 (s.x 0) 128 true = .error e)
    ∧ (let s := { mach (withH []) with mem := Mem.setBytes [] 0x10000 desc0 }
       s.me.wait = none ∧ gaSpace (s.me.getH 1).gbase ≠ 7
       ∧ checkRead (s.me.getH 1) 1 (s.x 0) 128 true = .ok 0x10000 ∧ s.me.sbuf = []
       ∧ reaches s (.load s.me.sys.pl) false 0x10000 128 ∧ prepared s 0x10000 = false ∧ lineOf (0x10000 + 127) = lineOf 0x10000
       ∧ quiet s ∧ volDescBad (s.bytesAt 0x10000 128) = false)
    ∧ volDescBad ((mach ctx0).bytesAt 0x10000 128) = true
    ∧ (SMap.find (mach ctx0).me.y 1 = none ∧ (mach ctx0).me.wait = none)
    ∧ (let s := volumed (withX [(4, 1023)]) none
       SMap.find s.me.y 1 = some vol0 ∧ insideVol vol0 (s.x 4).toNat ∧ settled s ∧ volEs vol0.desc = width .w ∧ volEs vol0.desc ≠ width .d
       ∧ s.me.reply = none ∧ s.me.wait = none ∧ (s.die s.myDie).walks = []
       ∧ (s.core s.myCore).clbFind s.me.sys.asid vol0.ga (volKey vol0.desc (s.x 4).toNat) = none)
    ∧ (let w := walk0 [⟨3, 0, false, true, false⟩] 0
       let s := { volumed (withX [(4, 7)]) none with dies := [(0, { Die.reset with started := true, walks := [w] })] }
       (s.die s.myDie).walks = [w] ∧ w.asid = s.me.sys.asid ∧ w.desc = vol0.ga ∧ w.key = volKey vol0.desc (s.x 4).toNat
       ∧ ∀ a ∈ w.askers, a.ctx ≠ s.cur)
    ∧ ¬insideVol vol0 1024 ∧ updElement .addW (volEtype vol0.desc) = true
    ∧ (∀ fr ∈ [0, 0x16000], frameAt (volumed (withX []) (some fr)) vol0 0 fr)
    ∧ (let s := volumed (withQ [] []) (some 0x16000)
       writable s (pkgOf s.myDie) s.me.sys.asid 0x16000 4 ∧ untracked s s.me.sys.asid 0x16000 ∧ SMap.find (s.core s.myCore).si (lineOf 0x16000) = none
       ∧ still s ∧ (s.core s.myCore).deltas = []
       ∧ ∃ e, s.me.boundFor 1 .produce = some e ∧ producerBusy s s.cur 1 = false ∧ End.laneNeed e 1 ≤ e.2.room)
    ∧ (∀ v ∈ [0x16000, 0x17000],
       let s := { volumed { ctx0 with reply := some (2, 0x16000, 0x14000) } none with mem := Mem.write [] 0x14000 8 v }
       s.me.reply = some (2, 0x16000, 0x14000) ∧ ¬freeing s ∧ s.peek 0x14000 8 = v ∧ untracked s s.me.sys.asid 0x14000 ∧ still s
       ∧ writable s (pkgOf s.myDie) s.me.sys.asid 0x14000 8 ∧ ∀ e ∈ s.ctxs, ∀ g, e.2.reply ≠ some (0, 0x16000, g))
    ∧ (let s := volumed { ctx0 with wait := some ⟨.vfree 0x16000 0x15000 512 true, 0⟩ } none
       s.me.wait = some ⟨.vfree 0x16000 0x15000 512 true, 0⟩ ∧ ∀ d ∈ s.dies, ∀ o ∈ d.2.poolOps, o.who ≠ .vfree s.cur) := by
  refine ⟨⟨⟨rfl, by decide⟩, rfl, by decide, _, rfl⟩,
    ⟨rfl, by decide, rfl, rfl, by unfold reaches; decide, by decide, by decide, ⟨by decide, rfl⟩, by decide +kernel⟩, by decide +kernel,
    ⟨by decide, rfl⟩,
    ⟨by decide, by unfold insideVol; decide, ⟨rfl, rfl, by decide⟩, by decide, by decide, rfl, rfl, rfl, by decide⟩, ⟨rfl, rfl, rfl, by decide, by decide⟩,
    by unfold insideVol; decide, by decide, ?_,
    ⟨⟨⟨by decide, by decide, by decide, by decide, quietV _ _⟩, by decide⟩, by unfold untracked; decide, by decide, by unfold still; decide, by decide,
      _, rfl, by decide, by decide⟩, ?_, rfl, by decide⟩
  · intro fr hfr
    simp only [List.mem_cons, List.not_mem_nil, or_false] at hfr
    rcases hfr with rfl | rfl <;> exact .inl ⟨rfl, by decide⟩
  · intro v hv
    simp only [List.mem_cons, List.not_mem_nil, or_false] at hv
    rcases hv with rfl | rfl <;>
      exact ⟨rfl, fun ⟨_, _, _, _, _, h⟩ => (nomatch h), by decide, by unfold untracked; decide, by unfold still; decide,
        ⟨⟨by decide, by decide, by decide, by decide, ⟨by decide, rfl⟩⟩, by decide⟩,
        fun e he g hg => by simp only [volumed, mach, List.mem_singleton] at he; subst he; cases hg⟩
/-- A machine whose Shawm walks, with the context waiting for it. -/
def walking (w : Walk) (m : List Host.Cell) : State :=
  { mach { ctx0 with wait := some ⟨.walk 0 3, 0⟩ } with dies := [(0, { Die.reset with started := true, walks := [w] })], mem := m }
theorem test_walk_finds_frame : (nextOf (exec (.shawmWalk 0 0) (walking (walk0 [⟨0, 0, false, true, false⟩] 0) (Mem.write [] 0x14000 8 0x16000)))).map
    (fun s => ((s.die 0).walks.length, s.me.reply)) = some (0, some (0, 0x16000, 0x13000)) := by decide
theorem witness_WalksAndPools :
    (∀ m ∈ [Mem.write [] 0x14000 8 0x16000, ([] : List Host.Cell)],
      let w := walk0 [⟨0, 0, true, true, false⟩] 0
      let s := walking w m
      (s.die 0).walks = [w] ∧ w.waitPop = false ∧ w.frame = none ∧ w.filled = false ∧ reachable s (pkgOf 0) w.slot 8
      ∧ (s.ctx 0).wait = some ⟨.walk 0 w.id, 0⟩)
    ∧ (let w := walk0 [⟨0, 0, false, true, false⟩] 0
       let s := walking w []
       reachable s (pkgOf 0) w.slot 8 ∧ s.peek w.slot 8 = 0 ∧ (s.ctx 0).wait = some ⟨.walk 0 w.id, 0⟩)
    ∧ slotGaOk 0x16000 (volTile desc0) = true
    ∧ (let w := walk0 [⟨0, 0, false, true, false⟩] 1
       let s := walking w (Mem.write [] 0x14000 8 0x16000)
       reachable s (pkgOf 0) w.slot 8 ∧ 0 < w.level ∧ s.peek w.slot 8 ≠ 0 ∧ slotGaOk (s.peek w.slot 8) 512 = true)
    ∧ (let w := { walk0 [⟨0, 0, true, true, false⟩] 0 with waitPop := true }
       let op : PoolOp := ⟨0x15000, none, 512, .walk 0 3, 0⟩
       let s := { walking w (Mem.write (Mem.write (Mem.write (Mem.write [] 0x15000 8 0x15100) 0x15008 8 1)
          0x15010 8 1) 0x15100 8 0x16000) with
          dies := [(0, { Die.reset with started := true, walks := [w], poolOps := [op] })] }
       (s.die 0).poolOps = [op] ∧ slotGaOk op.pool 8 = true ∧ s.peek (op.pool + 24) 8 = 0 ∧ s.peek (op.pool + 8) 8 ≤ s.peek (op.pool + 16) 8
       ∧ slotGaOk (s.peek op.pool 8) 8 = true ∧ still s ∧ pushBehind s op = false ∧ 0 < s.peek (op.pool + 8) 8
       ∧ (∀ a ∈ [op.pool, op.pool + 8, op.pool + 16, op.pool + 24, 0x15100], reachable s (pkgOf op.from') a 8)
       ∧ s.peek (s.peek op.pool 8 + 8 * (1 - 1)) 8 = 0x16000 ∧ slotGaOk 0x16000 op.align = true ∧ untracked s op.asid (op.pool + 8) ∧ writeWaits s op.asid (op.pool + 8) = false)
    ∧ (let op : PoolOp := ⟨0x15000, some 0x16000, 1, .plpush 0 0, 0⟩
       let s := { mach ctx0 with
          mem := Mem.write (Mem.write [] 0x15000 8 0x15100) 0x15010 8 1
          dies := [(0, { Die.reset with started := true, poolOps := [op] })] }
       op.push = some 0x16000 ∧ op.who = .plpush 0 0 ∧ pushBehind s op = false ∧ s.peek (op.pool + 8) 8 < s.peek (op.pool + 16) 8
       ∧ reachable s (pkgOf (dieOf 0)) 0x15100 8
       ∧ (∀ a ∈ [op.pool, op.pool + 8, op.pool + 24, 0x15100], writeWaits s op.asid a = false)
       ∧ untracked s op.asid 0x15100 ∧ untracked { s with mem := Mem.write s.mem 0x15100 8 0x16000 } op.asid (op.pool + 8)) := by
  refine ⟨?_, ⟨⟨by decide, by decide, by decide, by decide, ⟨by decide, rfl⟩⟩, by decide, rfl⟩, by decide,
    ⟨⟨by decide, by decide, by decide, by decide, ⟨by decide, rfl⟩⟩, by decide, by decide, by decide⟩,
    ⟨rfl, by decide, by decide, by decide, by decide, by unfold still; decide, by decide, by decide, ?_, by decide, by decide,
      by unfold untracked; decide, by decide⟩,
    rfl, rfl, by decide, by decide, ⟨by decide, by decide, by decide, by decide, ⟨by decide, rfl⟩⟩, by decide, by unfold untracked; decide,
      by unfold untracked; decide⟩
  · intro m hm
    simp only [List.mem_cons, List.not_mem_nil, or_false] at hm
    rcases hm with rfl | rfl <;>
      exact ⟨rfl, rfl, rfl, rfl, ⟨by decide, by decide, by decide, by decide, ⟨by decide, rfl⟩⟩, rfl⟩
  · intro a ha
    simp only [List.mem_cons, List.not_mem_nil, or_false] at ha
    rcases ha with rfl | rfl | rfl | rfl | rfl <;>
      exact ⟨by decide, by decide, by decide, by decide, ⟨by decide, rfl⟩⟩
theorem witness_ShootDowns :
    (let s := mach { withX [(1, 0x10401)] with sys := { Sys.reset with pl := true } }
     Issues s always ∧ s.me.sys.pl = true ∧ s.me.wait = none ∧ settled s ∧ quiet s ∧ (∀ e ∈ s.dies, e.2.saved = [])
     ∧ shootOperandOk (s.x 1).toNat = false ∧ (s.x 1).toNat < 2 ^ 56)
    ∧ (let s := mach { withH [(1, 0x10400)] with sys := { Sys.reset with pl := true } }
       shootOperandOk (s.x 1).toNat = true ∧ (∀ e ∈ s.ctxs, e.2.sbuf = [] ∧ e.2.pushes = [] ∧ e.2.inLoad = none) ∧ (∀ e ∈ s.cores, e.2.copies = [] ∧ e.2.ix = [])
       ∧ (∃ m ∈ (s.die (dieOf 0)).leases, (m.asid = s.me.sys.asid ∧ m.va = bitsOf (s.x 1).toNat 12 44 * 4096 ∧ m.psize = bitsOf (s.x 1).toNat 10 2)
           ∧ m.id = ((s.ctx 0).getH 1).entry)
       ∧ (∀ e ∈ s.ctxs, ∀ f, e.2.reply ≠ some (0, f, (s.x 1).toNat)) ∧ (∀ d ∈ s.dies, ∀ w ∈ d.2.walks, w.desc ≠ (s.x 1).toNat)) :=
  ⟨⟨⟨rfl, by decide⟩, rfl, rfl, ⟨rfl, rfl, by decide⟩, ⟨by decide, rfl⟩, by decide, by decide, by decide⟩, by decide, by decide, by decide,
    ⟨page0, by decide, by decide, by decide⟩,
    (fun e he f hf => by cases he with | head => cases hf | tail _ h => cases h), by decide⟩

/-! ## Bundles -/

/-- A machine with a bundle open on d1, held by context 0. -/
def ducat0 : Nat := 1
def bundled (c : Ctx) (b : Bundle) : State :=
  { mach { c with d := [(1, ⟨ducat0, .opener⟩)] } with
    dies := [(0, { Die.reset with started := true, leases := [page0, page1], bundles := [(ducat0, b)], nextSeq := 2 })] }
/-- The handle to page 0 as a bundled page. -/
def hb : Handle := { h0 with bnd := true }
/-- The bundle as BOPEN leaves it. -/
def bun0 : Bundle := Bundle.new 0
/-- A die with a pending version of line 0x200 (GA 0x10000) in slot 4. -/
def pendingDie (d : Nat) : Die :=
  { Die.reset with started := true, leases := [page0, page1], comp := [(0, ⟨0x200, 0, 0, 0, none, some 4⟩)],
                   slots := [(4, ⟨verPending, d, 0, 0, 0x10000, List.replicate 128 7, [0]⟩)] }

theorem test_bopen_returns_ducat : (nextOf (exec (.bopen always 1 5) (mach (withX [])))).map
    (fun s => (s.me.getX 5, (s.die 0).nextSeq)) = some (1, 2) := by decide
theorem test_bst_leaves_memory : (nextOf (exec (.bst always 1 .w 3 1 0) (bundled { withX [(3, 9)] with h := [(1, hb)] } bun0))).map
    (fun s => (s.mem, (s.pending 0x200).map (fun e => (e.2.state, e.2.data.take 4)))) = some ([], some (3, [9, 0, 0, 0])) := by decide +kernel
theorem test_bst_unopened : trapAfter (.bst always 2 .w 3 1 0) (mach (withH [])) = some (0x13, 2) := by decide
theorem test_rgend_without_group : xAfter (.rgend always 5) (mach ctx0) 5 = some 3 := by decide
theorem test_commit_publishes : (nextOf (exec (.commit 0) { mach ctx0 with
      bmsgs := [⟨.commit, 0, 0, 1, 0, 9, 5⟩], dies := [(0, pendingDie 1)] })).map
    (fun s => ((s.mem.take 1), (s.die 0).hss, s.bmsgs.map (fun m => m.kind))) = some ([(0x10000, 7)], 9, [.committed]) := by decide +kernel

theorem witness_BundleWords :
    (let s := mach ctx0
     Issues s always ∧ SMap.find s.me.d 1 = none ∧ bitOf (s.x 5).toNat 63 = false ∧ 1 ≤ (s.die s.myDie).nextSeq
     ∧ (s.die s.myDie).nextSeq ≤ 0xFFFFF
     ∧ (s.die s.myDie).bundles.length < 4096 ∧ SMap.find (s.die s.myDie).bundles (s.myDie * 2 ^ 20 + 1) = none ∧ settled s)
    ∧ (let s := mach (withX [(5, 0x8000000000000001)])
       let v := (s.x 5).toNat
       bitOf v 63 = true ∧ bitsOf v 32 31 = 0 ∧ v % 2 ^ 32 < 2 ^ 28 ∧ dieGone s (pkgOf s.myDie) (ducatDie (v % 2 ^ 32)) = false
       ∧ s.me.reply = none ∧ s.me.wait = none ∧ dieGone s (pkgOf s.myDie) (ducatDie 0x100001) = true)
    ∧ (∀ a ∈ [0, 1, 2], (mach { ctx0 with reply := some (3, a, 0) }).me.reply = some (3, a, 0))
    ∧ (let s := mach { ctx0 with d := [(1, ⟨1, .aborted⟩)] }; ∃ r, SMap.find s.me.d 1 = some r ∧ r.role = .aborted)
    ∧ (let s := bundled { withX [] with h := [(1, hb)] } bun0
       (∃ r, SMap.find s.me.d 1 = some r ∧ r.role ≠ .aborted) ∧ gaSpace (s.me.getH 1).gbase ≠ 7
       ∧ checkRead (s.me.getH 1) 1 (s.x 0) 8 true = .ok 0x10000
       ∧ (s.me.getH 1).w = true ∧ (s.me.getH 1).vf = false ∧ (s.me.getH 1).bnd = true ∧ watchCore s s.cur 0x10000 8 = none
       ∧ fenced s (pkgOf s.myDie) .engine 0x10000 8 = false ∧ heldBy s s.me.sys.asid true 0x10000 = none ∧ s.pending (lineOf 0x10000) = none
       ∧ quiet s ∧ unfenced s ∧ s.me.wait = none
       ∧ (s.die (homeOf (lineOf 0x10000))).slots.length < (s.die (homeOf (lineOf 0x10000))).rscap
       ∧ (s.die (homeOf (lineOf 0x10000))).comp.length < (s.die (homeOf (lineOf 0x10000))).ctcap
       ∧ (∃ b, s.bundle ducat0 = some b ∧ (s.core s.myCore).tb.getLsbD 9 = false ∧ settled s ∧ b.st = .opened ∧ b.parts = [] ∧ b.silent = none
            ∧ b.tags = []) ∧ (∀ a t0, s.me.wait ≠ some ⟨.babort a, t0⟩))
    ∧ (∃ b, (bundled ctx0 { bun0 with parts := [0] }).bundle ducat0 = some b ∧ b.st = .opened ∧ b.parts ≠ [])
    ∧ (let k : Die := { Die.reset with rscap := 0 }; k.rscap ≤ k.slots.length)
    ∧ (∀ h ∈ [{ hb with w := false }, { hb with vf := true }, h0], let s := bundled { withX [] with h := [(1, h)] } bun0
       checkRead (s.me.getH 1) 1 (s.x 0) 8 true = .ok 0x10000 ∧ ((s.me.getH 1).w = false ∨ (s.me.getH 1).vf = true ∨ (s.me.getH 1).bnd = false))
    ∧ (∀ pl ∈ [false, true],
       let s := bundled { withX [(2, 4)] with h := [(1, { hb with gbase := 7 * 2 ^ 44 })], sys := { Sys.reset with pl := pl } } bun0
       gaSpace (s.me.getH 1).gbase = 7 ∧ s.me.sys.pl = pl ∧ checkRead (s.me.getH 1) 1 (s.x 2) 8 false = .ok (7 * 2 ^ 44 + 4)
       ∧ (7 * 2 ^ 44 + 4) % 8 ≠ 0 ∧ checkRead (s.me.getH 1) 1 (s.x 0) 8 false = .ok (7 * 2 ^ 44) ∧ (7 * 2 ^ 44) % 8 = 0)
    ∧ (let s := { mach ctx0 with dies := [(0, pendingDie 1)] }
       s.me.wait = none ∧ ∃ m w, s.pending 0x200 = some (m, w) ∧ w.ducat = 1 ∧ bstBlocked s 0x200 2 = true)
    ∧ (∃ e, checkRead ((mach ctx0).me.getH 1) 1 0 8 true = .error e)
    ∧ (let s := { bundled { withX [] with h := [(1, { hb with gbase := 0x200000 })] } bun0 with
         mem := [(0x8001, 1)], dies := [(0, { Die.reset with started := true, rotbase := 0x8000 })] }
       checkRead (s.me.getH 1) 1 (s.x 0) 8 true = .ok 0x200000 ∧ watchCore s s.cur 0x200000 8 = none
       ∧ fenced s (pkgOf s.myDie) .engine 0x200000 8 = false ∧ heldBy s s.me.sys.asid true 0x200000 = some wait1)
    ∧ (let s := mach { ctx0 with wait := some ⟨.babort 5, 0⟩ }
       s.me.wait = some ⟨.babort 5, 0⟩ ∧ s.bundle 5 = none ∧ SMap.find s.orphans 5 = none)
    ∧ (∀ now ∈ [199999, 200000],
       let s := { mach { ctx0 with wait := some ⟨.bstConflict 0x200 2 0, 0⟩ } with dies := [(0, pendingDie 1)], now := now }
       (s.ctx 0).wait = some ⟨.bstConflict 0x200 2 0, 0⟩ ∧ bstBlocked s 0x200 2 = true ∧ (s.ctx 0).desched = false ∧ s.now = now) := by
  refine ⟨⟨⟨rfl, by decide⟩, rfl, by decide, by decide, by decide, by decide, by decide, ⟨rfl, rfl, by decide⟩⟩, by decide, by decide, ⟨_, rfl, rfl⟩,
   ⟨⟨_, rfl, by decide⟩, by decide, rfl, rfl, rfl, rfl, by decide, by decide, by decide, by decide, ⟨by decide, rfl⟩, by unfold unfenced; decide, rfl,
     by decide, by decide, ⟨_, rfl, by decide, ⟨rfl, rfl, by decide⟩, rfl, rfl, rfl, rfl⟩, by intro a t0 h; cases h⟩,
   ⟨_, rfl, rfl, by decide⟩, by decide, ?_, ?_, ⟨rfl, _, _, rfl, rfl, by decide⟩, ⟨_, rfl⟩, ⟨rfl, by decide, by decide, by decide⟩, by decide, by decide⟩
  · intro h hh
    simp only [List.mem_cons, List.not_mem_nil, or_false] at hh
    rcases hh with rfl | rfl | rfl <;> exact ⟨rfl, by decide⟩
  · intro pl hp
    simp only [List.mem_cons, List.not_mem_nil, or_false] at hp
    rcases hp with rfl | rfl <;> exact ⟨by decide, rfl, rfl, by decide, rfl, by decide⟩
/-- A bundle message of a kind, alone in flight. -/
def oneMsg (k : BKind) (a b : Nat) (ds : Die) : State :=
  { mach { ctx0 with wait := some ⟨.join 1, 0⟩ } with bmsgs := [⟨k, 0, 0, 1, 0, a, b⟩], dies := [(0, { ds with started := true })] }
/-- A die that coordinates the bundle. -/
def coord (b : Bundle) : Die := { Die.reset with started := true, bundles := [(1, b)] }
theorem witness_BundleMessages :
    ((oneMsg .prepare 0 0 Die.reset).bmsgs = [⟨.prepare, 0, 0, 1, 0, 0, 0⟩] ∧ ((oneMsg .prepare 0 0 Die.reset).die 0).started = true
      ∧ quiet (oneMsg .prepare 0 0 Die.reset))
    ∧ (∃ b, (oneMsg .join 0 0 (coord bun0)).bundle 1 = some b ∧ b.st = .opened) ∧ (oneMsg .join 0 0 Die.reset).bundle 1 = none
    ∧ ((oneMsg .jack 1 0 Die.reset).ctx 0).wait = some ⟨.join 1, 0⟩
    ∧ (∃ b, (oneMsg .reg 0 0 (coord bun0)).bundle 1 = some b ∧ b.st ≠ .aborting ∧ b.st ≠ .done)
    ∧ (SMap.find ((oneMsg .rack 0 0 { Die.reset with regs := [(1, 0)] }).die 0).regs 1).isSome = true
    ∧ (let s := oneMsg .close 0 1 (coord { bun0 with st := .closing })
       (∀ e ∈ s.dies, SMap.find e.2.regs 1 ≠ some 0) ∧ ∃ b, s.bundle 1 = some b ∧ b.st = .closing ∧ b.holders.length ≤ b.closed.length + 1)
    ∧ (let s := oneMsg .close 0 1 (coord { bun0 with st := .closing, holders := [0, 1] })
       ∃ b, s.bundle 1 = some b ∧ b.st = .closing ∧ b.closed.length + 1 < b.holders.length)
    ∧ (let s := oneMsg .prepared 5 6 (coord { bun0 with st := .preparing, parts := [0] })
       ∃ b, s.bundle 1 = some b ∧ b.st = .preparing ∧ ∀ q ∈ b.parts, ∃ e ∈ b.prepared ++ [(0, 5, 6)], e.1 = q)
    ∧ (let s := oneMsg .prepared 5 6 (coord { bun0 with st := .preparing, parts := [0, 1] })
       ∃ b, s.bundle 1 = some b ∧ b.st = .preparing ∧ ∃ q ∈ b.parts, ∀ e ∈ b.prepared ++ [(0, 5, 6)], e.1 ≠ q)
    ∧ (let s := oneMsg .commit 9 5 (pendingDie 1)
       ∃ n v i e, pendingSlots s 0 1 = [(n, v)] ∧ s.companion (lineOf v.ga) = some (i, e) ∧ homeOf (lineOf v.ga) = 0 ∧ gaDie v.ga = 0
         ∧ (∀ a ∈ commitGas s 0 1, procOwned s a = false) ∧ (∀ a ∈ v.jobs, untracked s a v.ga) ∧ still s)
    ∧ (let s := oneMsg .committed 0 0 (coord { bun0 with st := .committing, parts := [0] })
       ∃ b, s.bundle 1 = some b ∧ b.st = .committing ∧ b.silent = none ∧ ∀ q ∈ b.parts, q = 0 ∨ q ∈ b.committed)
    ∧ (let s := oneMsg .aborted 0 0 (coord { bun0 with st := .aborting, parts := [0] })
       ∃ b, s.bundle 1 = some b ∧ b.st = .aborting ∧ b.silent = none ∧ ∀ q ∈ b.parts, q = 0 ∨ q ∈ b.abortedBy) :=
  ⟨⟨rfl, rfl, ⟨by decide, rfl⟩⟩, ⟨_, rfl, rfl⟩, rfl, rfl, ⟨_, rfl, by decide, by decide⟩, by decide, ⟨by decide, _, rfl, rfl, by decide⟩, ⟨_, rfl, rfl, by decide⟩,
   ⟨_, rfl, rfl, by decide⟩, ⟨_, rfl, rfl, 1, by decide, by decide⟩,
   ⟨4, _, 0, _, rfl, rfl, by decide, by decide, by decide, by unfold untracked; decide, by unfold still; decide⟩,
   ⟨_, rfl, rfl, rfl, by decide⟩, ⟨_, rfl, rfl, rfl, by decide⟩⟩

/-! ## Matrix words and the fabric -/

/-- An SA block with a queue of commands. -/
def sa0 (q : List SaCmd) : Sa :=
  { index := 0, afmt := 0, bfmt := 0, reader := true, eosAfter := false, queue := q, n := 0, ablk := [], rowK := [], load := 0, loadErr := none
    quad := 0, beat := 0, eosDue := false, port0 := [], port1 := [], port2 := [], acc := [], pair := .idle, pairSince := 0, pairN := 0
    pairCancel := [], pairErr := [], firstErr := none, accUe := [] }
/-- A site of a configuration word. -/
def site0 (cfg : Nat) : Site :=
  { cfg := cfg, sub := 0, fsp := true, k := 0, n := 0, self := some tok0, reload := false, held := [], buf := [], outq := [], beat := 0
    choice := 0, last := none, emitted := 0, sawEos := false, ue := false, fired := none, shots := 0 }
/-- A region of one site with SA blocks. -/
def reg0 (st : Site) (sas : List Sa) : Region :=
  { w := 1, h := 1, bc := 0, br := 0, cfgver := 1, meos := false, regno := 5, sites := [(0, st)], links := [], freed := [], routes := []
    sem := [], cb := [], sas := sas, mbcnt := 0, fault := 0, sealed := false, moved := none, stopped := false }
/-- A context whose task holds a region. -/
def withR (x : SMap Word) (r : Region) : Ctx := { withQ x [] with task := some { task0 [] with region := some r } }
/-- A command in a queue, ready there. -/
def cm (w : Nat) (started : Bool) : SaCmd := ⟨w, started, false, none, 0, 0, some (false, 0)⟩
/-- A machine whose region has one SA block with one command. -/
def arrayed (a : Sa) : State := mach (withR [] (reg0 (site0 0) [a]))

theorem test_mq_queues : (after (.mq always 4) (mach (withR [(4, 0)] (reg0 (site0 0) [sa0 []])))).map
    (fun c => c.region.map (fun r => r.sas.map (fun a => a.queue.length))) = some (some [1]) := by decide
theorem test_mq_no_such_sa : (trapAfter (.mq always 4) (mach (withR [(4, 0x100)] (reg0 (site0 0) [sa0 []])))).map (fun e => e.1) = some 0x01 := by
  decide
theorem test_waitb_empty_waits : (after (.waitb always 3 4) (arrayed (sa0 []))).map (fun c => c.wait) = some (some ⟨.waitb 3, 0⟩) := by decide
theorem test_mbar_enters_record : (nextOf (exec (.mbar 0 0) (arrayed (sa0 [cm (5 + 3 * 2 ^ 40) false])))).map
    (fun s => s.me.region.map (fun r => r.cbOf 3)) = some (some [0]) := by decide
theorem witness_MatrixWords :
    (Issues (mach ctx0) always ∧ (mach ctx0).me.region = none ∧ bitsOf 0x40 9 55 = 0 ∧ bitOf 0x40 6 = true) ∧ bitsOf 0x200 9 55 ≠ 0
    ∧ mcOk 0x100 1 = false
    ∧ (let s := arrayed (sa0 [])
       ∃ r a, s.me.region = some r ∧ mcOk 0 r.sas.length = true ∧ r.sealed = false ∧ r.sa 0 = some a ∧ a.queue.length < 16 ∧ settled s
         ∧ r.sas ≠ [] ∧ r.cbOf 3 = [])
    ∧ (let s := arrayed (sa0 (List.replicate 16 (cm 0 false))); ∃ r a, s.me.region = some r ∧ r.sa 0 = some a ∧ 16 ≤ a.queue.length)
    ∧ (∀ v ∈ [0, 0x80], let s := arrayed (sa0 [cm 0x540000 false])
       ∃ r a, s.me.region = some r ∧ r.sa (bitsOf v 0 6) = some a ∧ a.queue = [cm 0x540000 false]
         ∧ bitsOf v 9 55 = 0 ∧ bitOf v 6 = false ∧ bitOf v 8 = false ∧ bitOf v 7 = decide (v = 0x80)
         ∧ r.begun 0 (cm 0x540000 false) = true ∧ r.begun 0 { cm 0x540000 false with ready := none } = false)
    ∧ (let c := cm 0x540000 false
       c.started = false ∧ c.cancelled = false ∧ bitsOf c.w 0 4 ≠ 3 ∧ bitsOf c.w 0 4 ≠ 5 ∧ (mcSen c.w = false ∨ mcSsem c.w ≠ 2))
    ∧ (mcSen 0x200040 = true ∧ mcSsem 0x200040 = 2)
    ∧ (∀ g ∈ [0, 0x3001], let r := { reg0 (site0 0) [sa0 []] with cb := [(3, [g])] }; r.cbOf 3 = g :: []) := by
  refine ⟨⟨⟨rfl, by decide⟩, rfl, by decide, by decide⟩, by decide, by decide, ⟨_, _, rfl, by decide, rfl, rfl, by decide, ⟨rfl, rfl, by decide⟩, by decide, by decide⟩,
    ⟨_, _, rfl, rfl, by decide⟩, ?_, by decide, by decide, by decide⟩
  intro v hv
  simp only [List.mem_cons, List.not_mem_nil, or_false] at hv
  rcases hv with rfl | rfl <;> exact ⟨_, _, rfl, rfl, rfl, by decide, by decide, by decide, by decide, by decide, by decide⟩
theorem free0 (a : Sa) (w : Nat) (st : Bool) (h : a.queue = [cm w st]) (h1 : mcSen w = false) :
    saFree (arrayed a) 0 (reg0 (site0 0) [a]) 0 a (cm w st) (bitsOf w 0 4) := ⟨rfl, rfl, h, rfl, rfl, rfl, rfl, h1, fun _ => ⟨_, rfl⟩⟩
/-- Two SA blocks of one pair, with a command at the head of each. -/
def pair0 (c : SaCmd) (q : List SaCmd) : Region := reg0 (site0 0) [sa0 [c], { sa0 q with index := 1 }]
/-- A ready MMULP of number 0, ready since an fc. -/
def half (w fc : Nat) : SaCmd := ⟨w, false, false, some 0, 0, 0, some (false, fc)⟩
theorem witness_ArrayCommands :
    (∀ op ∈ [0, 1, 2, 3, 4, 5, 6], ∀ st ∈ [true, false],
      saFree (arrayed (sa0 [cm op st])) 0 (reg0 (site0 0) [sa0 [cm op st]]) 0 (sa0 [cm op st]) (cm op st) (bitsOf op 0 4))
    ∧ (let w := 1 + (2 * 2 ^ 44) * 2 ^ 64
       let s := arrayed (sa0 [cm w false])
       bitsOf w 64 56 % 64 = 0 ∧ fenced s 0 .mloadb (bitsOf w 64 56) (8192 * (bitsOf w 48 8 + 1)) = false
       ∧ fenced s 0 .mloadb 0 8192 = true ∧ (8 : Nat) % 64 ≠ 0
       ∧ fenced s 0 .mloadb (2 * 2 ^ 44) 64 = false ∧ fenced s 0 .mloadb 0 64 = true ∧ refreshing s (2 * 2 ^ 44) = false ∧ spBlocked s 0 0 (cm w true).ranges = false ∧ hasUe s (2 * 2 ^ 44) 64 = false
       ∧ lineOf (2 * 2 ^ 44 + 63) = lineOf (2 * 2 ^ 44) ∧ quiet s)
    ∧ (blkLogical 0 % blkLogical 0 = 0)
    ∧ (let a := { sa0 [cm (2 + 2 ^ 48 + 2 ^ 64) true] with port0 := [tok0] }
       a.n % 128 ≠ 127 ∧ endNow a 0 1 a.n 128 = none ∧ (apmPorts 1).getD (a.n % (apmPorts 1).length) 3 = 0 ∧ a.port 0 = [tok0] ∧ tok0.kind = .data
       ∧ tok0.arr ≤ 0)
    ∧ (blkDecode 0 (laneBytes tok0.lanes)).2 = false
    ∧ (∀ q ∈ [[], [half 3 0], [half 3 65536], [half (3 + 2 ^ 48) 0]], let r := pair0 (half 3 0) q
       let s := mach (withR [] r)
       saFree s 0 r 0 (sa0 [half 3 0]) (half 3 0) 3 ∧ (half 3 0).started = false
       ∧ (sa0 [half 3 0]).pairCancel.contains 0 = false ∧ (sa0 [half 3 0]).pairErr.contains 0 = false
       ∧ (sa0 [half 3 0]).pair ≠ .wait ∧ r.partner 0 = some (1, { sa0 q with index := 1 })
       ∧ ({ sa0 q with index := 1 } : Sa).pairPlace 0 = (if q = [] then none else some 0))
    ∧ (pairLate (half 3 0) (half 3 65536) = true ∧ pairLate (half 3 0) (half 3 65535) = false
       ∧ pairLate (half 3 0) { half 3 0 with ready := some (true, 0) } = false ∧ ({ half 3 0 with ready := some (true, 0) } : SaCmd).abt = true
       ∧ (half 3 0).abt = false ∧ (sa0 []).accUe = [] ∧ readQuads 6 = 8 ∧ readQuads 4 = 1024
       ∧ pairAgrees (sa0 []) { sa0 [] with index := 1 } 3 (3 + 2 ^ 48) = false ∧ pairAgrees (sa0 []) { sa0 [] with index := 1 } 3 3 = true)
    ∧ (let a := { sa0 [half 3 0] with pair := .wait }
       let r := reg0 (site0 0) [a]
       let s := { mach (withR [] r) with now := 65536 * 2000 }
       saFree s 0 r 0 a (half 3 0) 3 ∧ a.pair = .wait ∧ a.pairSince + 65536 ≤ s.fc ∧ r.partner 0 = none)
    ∧ (arrayed (sa0 [])).fc < (sa0 []).pairSince + 65536
    ∧ ((reg0 (site0 0) [sa0 []]).cbOf 3).length < 4
    ∧ (let a := { sa0 [] with port0 := [endTok .eos] }
       a.port 0 = [endTok .eos] ∧ (endTok .eos).kind ≠ .data ∧ (endTok .eos).arr ≤ (arrayed a).fc ∧ a.queue = []
       ∧ (reg0 (site0 0) [a]).owesFirst 0 0 = false ∧ (reg0 (site0 0) [a]).sealed = false ∧ ((arrayed a).die 0).pmop = none)
    ∧ (let s := { mach ctx0 with dies := [(0, { Die.reset with refresh := some 0 })], now := 8000 }
       (s.die 0).refresh = some 0 ∧ 8000 * (1 : BitVec 4).toNat ≤ (s.now - 0) % 128000 ∧ (s.now - 0) % 128000 < 8000 * (1 : BitVec 4).toNat + 3000
       ∧ (1 : BitVec 4).toNat ∉ (s.die 0).inRefresh ∧ 8000 * (0 : BitVec 4).toNat + 3000 ≤ (s.now - 0) % 128000) := by
  refine ⟨?_, ⟨by decide, by decide, by decide, by decide, by decide, by decide, by decide, by decide, by decide, by decide, ⟨by decide, rfl⟩⟩, by decide,
    by decide, by decide +kernel, ?_, by decide, ⟨⟨rfl, rfl, rfl, rfl, rfl, rfl, rfl, by decide, fun _ => ⟨_, rfl⟩⟩, rfl, by decide, by decide⟩, by decide,
    by decide, by decide, by decide⟩
  rotate_left
  · intro q hq
    simp only [List.mem_cons, List.not_mem_nil, or_false] at hq
    rcases hq with rfl | rfl | rfl | rfl <;>
      exact ⟨⟨rfl, rfl, rfl, rfl, rfl, rfl, rfl, by decide, fun _ => ⟨_, rfl⟩⟩, rfl, by decide, by decide, by decide, rfl, by decide⟩
  intro op ho st hs
  simp only [List.mem_cons, List.not_mem_nil, or_false] at ho hs
  rcases ho with rfl | rfl | rfl | rfl | rfl | rfl | rfl <;> rcases hs with rfl | rfl <;>
    exact free0 _ _ _ rfl (by decide)

/-- A word: an operator of integer lanes that reads SELF and 5, and routes one way. -/
def opWord (op : Nat) : Nat := op + 2 ^ 8 + 10 * 2 ^ 16 + 9 * 2 ^ 20 + 9 * 2 ^ 24 + 2 ^ 28 + 5 * 2 ^ 48
/-- A machine with that site. -/
def firing (st : Site) : State := mach (withR [] (reg0 st []))
/-- The lanes on the routed link after a step. -/
def onLink (i : Instr) (s : State) : Option (List (TokKind × List Lane)) :=
  (nextOf (exec i s)).bind (fun t => t.me.region.map (fun r => (SMap.getD r.links 0 []).map (fun k => (k.kind, k.lanes.take 3))))
theorem test_site_add : onLink (.fabricAdd 0 0 0) (firing (site0 (opWord 0x01))) = some [(.data, [5, 6, 7])] := by decide +kernel
theorem test_site_max : onLink (.fabricMax 0 0 0) (firing (site0 (opWord 0x09))) = some [(.data, [5, 5, 5])] := by decide +kernel
theorem test_site_sel : onLink (.fabricSel 0 0 0) (firing (site0 (opWord 0x60))) = some [(.data, [0, 1, 2])] := by decide +kernel
theorem witness_FabricComputes :
    (∀ op ∈ [0x01, 0x27, 0x43, 0x53], let st := site0 (opWord op)
      siteReady (firing st) 0 0 0 op (reg0 st []) st ∧ cfgLt st.cfg ≠ 3
      ∧ (reg0 st []).room (fireEnv (firing st) 0) ((reg0 st []).routeKeys 0) = true
      ∧ (reg0 st []).head (fireEnv (firing st) 0) 0 0 = some tok0)
    ∧ (let st := { site0 (opWord 0x01) with self := some (endTok .eos) }
       siteReady (firing st) 0 0 0 0x01 (reg0 st []) st ∧ (reg0 st []).head (fireEnv (firing st) 0) 0 0 = some (endTok .eos))
    ∧ (let st := { site0 (opWord 0x01) with self := none }
       siteReady (firing st) 0 0 0 0x01 (reg0 st []) st ∧ (reg0 st []).head (fireEnv (firing st) 0) 0 0 = none)
    ∧ cfgSat (opWord 0x01) = false ∧ cfgLt (opWord 0x01) = 1 := by
  unfold siteReady
  decide +kernel
theorem witness_FabricComputes_lanes :
    (floatExact 0x01 0x3F800000 0x40000000 0 = some 3 ∧ f32Value 0x40400000 = 3 ∧ (3 : Rat) ≠ 0 ∧ f32Exp 0x40400000 ≠ 255)
    ∧ bitsSpec 0x22 0x10 0 = some 27 ∧ bitsSpec 0x21 0xF0 0 = some 4 ∧ bitsSpec 0x24 1 0x80000000 = some 0x80000001
    ∧ intSpec true true 0x01 0x7FFFFFFF 1 0 = some 0x7FFFFFFF ∧ intSpec true false 0x01 0x7FFFFFFF 1 0 = some 0x80000000
    ∧ intSpec true false 0x17 9 0 5 = some 5 ∧ intSpec true false 0x11 0xFFFFFFFF 1 0 = some 0xFFFFFFFF
    ∧ floatSpec 0x08 0x80000000 0 0 = some 0x80000000 ∧ floatSpec 0x16 0x7F800000 0 0 = some 0x80 ∧ floatSpec 0x01 0x7FC00001 0 0 = some 0x7FC00000
    ∧ floatSpec 0x03 0x7F800000 0x80000000 0 = some 0x7FC00000 ∧ packSpec true true 16 0x12345 = 0x7FFF ∧ unpackSpec true 8 0x80 = 0xFFFFFF80
    ∧ f32IsNan 0x7FC00001 = true ∧ f32IsInf 0xFF800000 = true ∧ laneInt true 0xFFFFFFFF = -1 ∧ f32Value 0xBF800000 = -1 := by decide +kernel
/-- A word of LT CSV that reads SELF and, for ADD, SELF again. -/
def quadWord (op : Nat) : Nat := op + 3 * 2 ^ 8 + 10 * 2 ^ 16 + 10 * 2 ^ 20 + 2 ^ 28
theorem witness_FabricControls :
    (∀ op ∈ [0x60, 0x61, 0x62, 0x63, 0x64, 0x65, 0x66, 0x67, 0x68, 0x69, 0x6A, 0x80, 0x81, 0x82, 0x83, 0x90, 0x91, 0x48, 0xA1, 0xC0, 0xC1],
      let st := site0 (opWord op)
      let r := reg0 st []
      siteReady (firing st) 0 0 0 op r st ∧ cfgLt st.cfg ≠ 3 ∧ eeosAt (fireEnv (firing st) 0) r 0 [0, 1, 2] = false
      ∧ r.room (fireEnv (firing st) 0) (r.routeKeys 0) = true ∧ r.head (fireEnv (firing st) 0) 0 0 = some tok0
      ∧ (r.head (fireEnv (firing st) 0) 0 1).map (fun t => t.kind) = some .data ∧ (r.head (fireEnv (firing st) 0) 0 2).map (fun t => t.kind) = some .data
      ∧ cfgSel st.cfg 0 ≠ 0 ∧ cfgSel st.cfg 1 ≠ 0 ∧ cfgSel st.cfg 2 ≠ 0 ∧ cfgSel st.cfg 3 = 0 ∧ st.sub = 0 ∧ st.held = [] ∧ st.buf = []
      ∧ ((firing st).die (dieOf 0)).tren = false ∧ (((firing st).ctx 0).queue (cfgAux st.cfg % 64)).map (fun k => k.portTokens.length) = some 0
      ∧ ((firing st).ctx 0).sys.bbhbase = 0)
    ∧ (∀ op ∈ [0x01, 0xA3], ∀ n ∈ [3, 6], let st := { site0 (quadWord op) with self := some { tok0 with kind := .csv }, buf := List.replicate n tok0 }
      let r := reg0 st []
      siteReady (firing st) 0 0 0 op r st ∧ cfgLt st.cfg = 3 ∧ r.room (fireEnv (firing st) 0) (r.routeKeys 0) = true
      ∧ (r.head (fireEnv (firing st) 0) 0 0).map (fun t => t.kind) = some .csv ∧ (r.head (fireEnv (firing st) 0) 0 1).map (fun t => t.kind) = some .csv
      ∧ cfgSel st.cfg 2 = 0)
    ∧ (let st := site0 (quadWord 0xA2)
       let a := sa0 [cm 4 true]
       let r := reg0 st [a]
       siteReady (mach (withR [] r)) 0 0 0 0xA2 r st ∧ r.sa (cfgAux st.cfg % 64) = some a ∧ a.eosDue = false ∧ a.quad < readQuads 4 ∧ a.beat < 4)
    ∧ (let st := { site0 (opWord 0x65) with sub := 1, n := 3 }
       siteReady (firing st) 0 0 0 0x65 (reg0 st []) st ∧ st.sub = 1 ∧ st.k < st.n ∧ st.fsp = true ∧ st.last = none)
    ∧ (let st := { site0 (opWord 0x64) with sub := 1, held := [tok0] }
       siteReady (firing st) 0 0 0 0x64 (reg0 st []) st ∧ st.sub = 1 ∧ st.held = [tok0])
    ∧ (let st := site0 (opWord 0xA1)
       let a := sa0 []
       let r := reg0 st [a]
       siteReady (mach (withR [] r)) 0 0 0 0xA1 r st ∧ r.sa (cfgAux st.cfg % 64) = some a
       ∧ (a.port (bitsOf (cfgAux st.cfg) 6 2)).length < 2)
    ∧ (let st := site0 (opWord 0x61)
       ∀ mask ∈ [cfgRoute st.cfg, cfgAux st.cfg % 256],
         (reg0 st []).room (fireEnv (firing st) 0) (((List.range 8).filter (bitOf mask)).map (fun d => 9 * 0 + d)) = true)
    ∧ ((sdbDecode 7 (laneBytes tok0.lanes) none).1 ≠ [] ∧ (sdbDecode 7 (laneBytes tok0.lanes) none).2 = false) ∧ blkTokens 7 ≤ 0 + 1
    ∧ (let st := site0 (opWord 0x80)
       let s := mach { withR [] (reg0 st []) with
         task := some { task0 [] with queues := [(0, { queue0 with regQ := [tok0] })], region := some (reg0 st []) } }
       siteReady s 0 0 0 0x80 (reg0 st []) st
       ∧ ∃ k, (s.ctx 0).queue (cfgAux st.cfg % 64) = some k ∧ k.inward = false ∧ k.regQ = [tok0] ∧ tok0.arr ≤ s.fc)
    ∧ (let st := site0 (opWord 0x83)
       let s := mach { withR [] (reg0 st []) with
         task := some { task0 [] with queues := [(0, { queue0 with regQ := [tok0] })], region := some (reg0 st []) } }
       ∃ k, (s.ctx 0).queue (cfgAux st.cfg % 64) = some k ∧ k.portTokens = [tok0])
    ∧ (let st := site0 (opWord 0xC1)
       let s := mach { withR [] (reg0 st []) with sys := { Sys.reset with bbhbase := 0x10000 } }
       siteReady s 0 0 0 0xC1 (reg0 st []) st ∧ (s.ctx 0).sys.bbhbase ≠ 0 ∧ (s.core (coreOf 0)).cc = [])
    ∧ (let st := site0 (opWord 0xC0)
       let s := { firing st with dies := [(0, { Die.reset with started := true, tren := true, trbase := 0x10000, trsize := 0x1000 })] }
       let d := s.die (dieOf 0)
       siteReady s 0 0 0 0xC0 (reg0 st []) st ∧ d.tren = true ∧ d.trsize ≠ 0 ∧ d.trstop = false ∧ tok0.mark = none ∧ tok0.lanes.length = 16
       ∧ (∃ tk, (s.ctx 0).task = some tk ∧ untracked s tk.asid (d.trbase + d.trhead % d.trsize))
       ∧ writable s (pkgOf (dieOf 0)) 0 (d.trbase + d.trhead % d.trsize) 64 ∧ still s) := by
  unfold siteReady
  refine ⟨?_, ?_, ?_, ?_, ?_, ?_, ?_, ?_, ?_, ⟨?_, _, rfl, rfl, rfl, by decide⟩, ⟨_, rfl, by decide⟩, ?_,
    ⟨by decide +kernel, rfl, by decide, rfl, rfl, rfl, ⟨_, rfl, by unfold untracked; decide⟩,
      ⟨⟨by decide, by decide, by decide, by decide, ⟨by decide, rfl⟩⟩, by decide⟩, by unfold still; decide⟩⟩ <;> decide +kernel

/-! ## Tasks, channels and progress -/

/-- A machine whose die 0 is changed by f. -/
def dieWith (f : Die → Die) (c : Ctx) : State :=
  { mach c with dies := [(0, f { Die.reset with started := true, leases := [page0, page1] })] }
/-- A machine whose core 0 is changed by f. -/
def coreWith (f : Core → Core) (c : Ctx) : State := { mach c with cores := [(0, f { Core.reset with started := true })] }
/-- A channel of context 5 whose handler stands at 0x10000, with words in its inbox. -/
def chan0 (l : List Lane) : Chan := ⟨0x10000, true, false, 1, 5, false, 0, l, 0, [], none⟩
/-- The running context holds the handler run of channel 2. -/
def inHandler : Ctx := { ctx0 with chan := some 2 }
/-- A context whose task holds barrier 3 of the die. -/
def withBar (x : SMap Word) : Ctx := { withX x with task := some { task0 [] with bars := [3] } }
/-- A barrier of two tasks. -/
def bar0 (count : Nat) : BarSlot := ⟨1, 0, 0, 0, count, if count = 1 then 2 else 0, 2⟩
def barred (x : SMap Word) (count : Nat) : State := dieWith (fun d => { d with bars := [(3, bar0 count)] }) (withBar x)
/-- The descriptor of a launch of one tile of one task that starts at 0x10100, with the lease list at 0x18000. -/
def descL (gx : Nat) : List Byte :=
  leBytes 2 gx ++ leBytes 2 1 ++ leBytes 2 1 ++ leBytes 3 0x010101 ++ leBytes 1 2 ++ leBytes 2 0 ++ leBytes 4 0 ++ leBytes 8 0x10100
    ++ leBytes 8 0 ++ leBytes 8 0 ++ leBytes 8 0x18000 ++ leBytes 16 0 ++ leBytes 64 0
def launching (gx : Nat) : State :=
  let s := leased (withH [])
  { s with mem := Mem.setBytes s.mem 0x10000 (descL gx ++ List.replicate 128 0 ++ bytesFor (.hdr 0 1 false true true)) }

theorem test_sendw_fills_inbox : (nextOf (exec (.sendw always 1 2) (coreWith (fun k => { k with chans := [(9, chan0 [4])] })
    (withX [(1, 9), (2, 0x100000007)])))).map (fun s => ((s.core 0).chan 9).inbox) = some [4, 7] := by decide
theorem test_sendw_system_channel : trapAfter (.sendw always 1 2) (mach (withX [(1, 3)])) = some (0x03, wordOf (leNat (bytesFor (.sendw always 1 2)))) := by
  decide +kernel
theorem test_waitch_pops : (nextOf (exec (.waitch always 5) (coreWith (fun k => { k with chans := [(2, chan0 [8, 9])] }) inHandler))).map
    (fun s => (s.me.getX 5, ((s.core 0).chan 2).inbox)) = some (8, [9]) := by decide
theorem test_last_arrival_flips_phase : (nextOf (exec (.barv always 1) (barred [(1, 0)] 1))).map
    (fun s => SMap.find (s.die 0).bars 3) = some (some ⟨1, 0, 0, 1, 0, 0, 2⟩) := by decide
theorem test_barw_waits : (after (.barw always 1) (barred [(1, 0)] 1)).map (fun c => c.wait) = some (some ⟨.barw 3 0, 0⟩) := by decide
theorem test_bbh_counts : (nextOf (exec (.bbh always 2) (mach { ctx0 with sys := { Sys.reset with bbhbase := 0x11000 } }))).map
    (fun s => (s.core 0).cc.map (fun e => (e.ga, e.delta))) = some [(0x11010, 1)] := by decide
theorem test_endt_ends : (after (.endt always) (mach (withH []))).map (fun c => (c.run, c.h)) = some (false, []) := by decide
theorem test_launch_admits : (nextOf (exec (.launch always 5 6 1) (launching 1))).map
    (fun s => (s.me.getX 5, (s.die 0).launches.map (fun l => (l.num, l.gx, l.entry, l.prio)))) = some (0x100000000, [(1, 1, 0x10100, 2)]) := by
  decide +kernel
theorem test_launch_bad_descriptor : xAfter (.launch always 5 6 1) (launching 0) 5 = some 2 := by decide +kernel

/-- Context 1 put the fourth word into the inbox of channel 9 in this cc, and has done nothing since. -/
def overtaken : State :=
  { coreWith (fun k => { k with chans := [(9, { chan0 [4, 4, 4, 4] with late := [1] })] }) (withX [(1, 9)]) with
    ctxs := [(0, withX [(1, 9)]), (1, { (ctx0.advance 4) with sent := some ctx0.blk })] }
/-- Context 3 waits for a place of the inbox of channel 2, whose handler runs. -/
def awaited : State :=
  { coreWith (fun k => { k with chans := [(2, chan0 [8, 9, 8, 9])] }) inHandler with
    ctxs := [(0, inHandler), (3, { ctx0 with wait := some ⟨.sendFull 0 2 7, 0⟩ })] }
theorem witness_TaskWords :
    (let s := coreWith (fun k => { k with chans := [(9, chan0 [4])] }) (withX [(1, 9)])
     Issues s always ∧ (s.x 1).toNat < 2 ^ 20 ∧ s.me.sys.pl = false ∧ 7 < (s.x 1).toNat % 64
     ∧ ¬(pkgGone s (pkgOf s.myDie) (pkgOf (dieOfCore 0)) = true ∨ (s.core 0).started = false) ∧ settled s
     ∧ ((s.core 0).chan 9).en = true ∧ (s.ctx 5).task = none ∧ ((s.core 0).chan 9).inbox.length < 4
     ∧ ((s.core 0).chan 10).en = false ∧ s.me.wait = none ∧ s.me.chan = none ∧ s.me.sys.bbhbase = 0 ∧ s.me.d = []
     ∧ (∀ m ∈ (s.core s.myCore).copies, m.owner ≠ s.cur) ∧ s.me.task = none)
    ∧ (2 ^ 20 ≤ ((withX [(1, 0x100000)]).getX 1).toNat ∧ (State.reset.core 1).started = false)
    ∧ (let s := { coreWith (fun k => { k with chans := [(9, chan0 [4, 4, 4, 4])] }) ctx0 with now := 1 }
       4 ≤ ((s.core 0).chan 9).inbox.length ∧ ((s.core 0).chan 9).lateAt ≠ s.now ∧ s.me.wait = none)
    ∧ (4 ≤ ((overtaken.core 0).chan 9).inbox.length ∧ (giveWay overtaken 0 9 (coreId overtaken 0)).isSome = true)
    ∧ (firstSending awaited 0 2 = some (3, 0, 7) ∧ ((awaited.core 0).chan 2).inbox = [8, 9, 8, 9])
    ∧ (∀ l ∈ [[], [8, 9]], let s := coreWith (fun k => { k with chans := [(2, chan0 l)] }) inHandler
        Issues s always ∧ s.me.chan = some 2 ∧ ((s.core s.myCore).chan 2).inbox = l ∧ s.me.wait = none ∧ firstSending s s.myCore 2 = none
          ∧ (∀ x ∈ s.dies, x.2.words = []))
    ∧ (∀ v ∈ [0, 0x100], let s := barred [(1, v)] 0
        Issues s always ∧ settled s ∧ s.me.wait = none ∧ (s.x 1).toNat < 2 ^ 24
        ∧ ∃ tk, s.me.task = some tk ∧ tk.bars[(s.x 1).toNat % 256]? = some 3 ∧ tk.bars[1]? = none
          ∧ ∃ bar, SMap.find (s.die s.myDie).bars 3 = some bar ∧ bar.phase = 0 ∧ bitOf bar.arrived tk.tidx = false)
    ∧ (∀ cc ∈ [[], [⟨0x11010, 3, 0, 0, 0, false⟩]], let s := coreWith (fun k => { k with cc := cc }) { ctx0 with sys := { Sys.reset with bbhbase := 0x11000 } }
        Issues s always ∧ s.me.sys.bbhbase ≠ 0 ∧ (s.core s.myCore).cc = cc
        ∧ ∀ c, cc = [c] → c.ga = (s.me.sys.bbhbase.toNat + 8 * 2) % 2 ^ 56 ∧ 0 < c.delta ∧ c.delta + 2 < 2 ^ 32)
    ∧ (let s := mach { withR [] (reg0 (site0 0) []) with ending := true }
       s.me.ending = true ∧ ∃ tk r, s.me.task = some tk ∧ tk.sliceDone = false ∧ tk.region = some r)
    ∧ (∀ gx ∈ [0, 1], let s := launching gx
        Issues s always ∧ checkRead (s.me.getH 1) 1 (s.x 6) 128 false = .ok 0x10000 ∧ (s.x 6).toNat % 64 = 0 ∧ settled s
        ∧ (s.me.getH 1).v = true ∧ gaSpace (s.me.getH 1).gbase ≠ 7
        ∧ reaches s (.load s.me.sys.pl) false 0x10000 128 ∧ prepared s 0x10000 = false
        ∧ quiet s ∧ firstOwned s (launchGas s (s.bytesAt 0x10000 128)) = none ∧ (descFieldsOk (s.bytesAt 0x10000 128) s.me.sys.pl = decide (gx = 1)))
    ∧ (let s := launching 1
       let s1 := drain s s.cur
       (readLaunch s1 (s.bytesAt 0x10000 128)).any (fun l => admits s1 s.myDie l && decide (l.asid = s.me.sys.asid)) = true
       ∧ ((s.die s.myDie).launches.filter (fun m => decide (m.next < m.groups))).length < 16)
    ∧ (let s := procMach { withH [] with sys := { Sys.reset with lease := 0x200000 } }
       firstOwned s (launchGas s (descL 1)) = some wait1)
    ∧ (∀ pl ∈ [false, true], let s := mach { withX [] with h := [(1, { h0 with gbase := 7 * 2 ^ 44 })], sys := { Sys.reset with pl := pl } }
       checkRead (s.me.getH 1) 1 (s.x 6) 128 false = .ok (7 * 2 ^ 44) ∧ gaSpace (s.me.getH 1).gbase = 7 ∧ s.me.sys.pl = pl)
    ∧ (let s := mach (withH [(6, 8)])
       ((mach ctx0).me.getH 1).v = false ∧ (s.me.getH 1).v = true ∧ gaSpace (s.me.getH 1).gbase ≠ 7 ∧ (s.x 6).toNat % 64 ≠ 0) := by
  refine ⟨⟨⟨rfl, by decide⟩, by decide, rfl, by decide, by decide, ⟨rfl, rfl, by decide⟩, by decide, by decide, by decide, by decide, rfl, rfl, rfl, rfl,
      by decide, rfl⟩, by decide, by decide, by decide, by decide, ?_, ?_, ?_, ⟨rfl, _, _, rfl, by decide, rfl⟩, ?_, ⟨by decide +kernel, by decide⟩, by decide +kernel, ?_, by decide⟩
  · intro l hl
    simp only [List.mem_cons, List.not_mem_nil, or_false] at hl
    rcases hl with rfl | rfl <;> exact ⟨⟨rfl, by decide⟩, rfl, by decide, rfl, by decide, by decide⟩
  · intro v hv
    simp only [List.mem_cons, List.not_mem_nil, or_false] at hv
    rcases hv with rfl | rfl <;>
      exact ⟨⟨rfl, by decide⟩, ⟨rfl, rfl, by decide⟩, rfl, by decide, _, rfl, by decide, by decide, _, rfl, by decide, by decide⟩
  · intro cc hcc
    simp only [List.mem_cons, List.not_mem_nil, or_false] at hcc
    rcases hcc with rfl | rfl <;> refine ⟨⟨rfl, by decide⟩, by decide, by decide, ?_⟩ <;> intro c hc <;> cases hc
    decide
  · intro gx hg
    simp only [List.mem_cons, List.not_mem_nil, or_false] at hg
    rcases hg with rfl | rfl <;>
      exact ⟨⟨rfl, by decide⟩, rfl, by decide, ⟨rfl, rfl, by decide⟩, rfl, by decide, by unfold reaches; decide +kernel, by decide +kernel, ⟨by decide, rfl⟩,
        by decide +kernel, by decide +kernel⟩
  · intro pl hp
    simp only [List.mem_cons, List.not_mem_nil, or_false] at hp
    rcases hp with rfl | rfl <;> exact ⟨rfl, by decide, rfl⟩

/-- Context 5 is reserved for handlers of channel 9, whose inbox holds a word. -/
def called : State := coreWith (fun k => { k with chans := [(9, chan0 [4])] }) ctx0
/-- A launch of gx tasks in a row, of which some are placed and finished. -/
def launch0 (gx next finished : Nat) : Launch :=
  { num := 1, gx := gx, gy := 1, gz := 1, bx := 1, by' := 1, bz := 1, prio := 3, asid := 0, spq := 2, nbar := 0, entry := 0x10000, trapv := 0
    done := some 9, lease := 0, ranges := [], qtab := [], image := [], launcher := 0, runNo := 0, next := next, finished := finished
    bad := false, gone := false, resident := true, pins := [], todo := [] }
/-- Context 0 has ended its task, of that launch. -/
def ended0 (finished : Nat) : State :=
  { dieWith (fun d => { d with launches := [launch0 2 2 finished] }) { ctx0 with run := false, ended := true, task := some (task0 []) } with
    cores := [(0, { Core.reset with started := true, chans := [(9, chan0 [])] })] }
/-- Two tasks of one tile coordinate, chained by key 7 from context 0 of die 0 to context 1024 of die 1. -/
def chained (a b : List Token) : State :=
  { mach ctx0 with
    dies := [(0, { Die.reset with started := true }), (1, { Die.reset with started := true })]
    ctxs := [(0, { ctx0 with task := some { task0 [] with queues := [(0, { queue0 with ends := 2, ckey := 7, cdie := 1, ctxQ := a })] } }),
             (1024, { ctx0 with task := some { task0 [] with queues := [(5, { queue0 with ends := 2, inward := true, ckey := 7, ctxQ := b })] } })] }
/-- A region of a QPOP of entry 0 and, east of it, an ADD of the link from it and of SELF. -/
def fed : Region :=
  { reg0 (site0 0) [] with w := 2, sites := [(0, { site0 (0x80 + 2 ^ 8 + 2 ^ 30) with self := none }),
                                             (1, site0 (1 + 2 ^ 8 + 7 * 2 ^ 16 + 10 * 2 ^ 20 + 2 ^ 28))] }
/-- A context that waits for a token of such a region, at a time. -/
def lost (seen : Bool) (thr : Word) (now : Nat) : State :=
  { mach { withQ [] [] with task := some { task0 [] with region := some fed }, wait := some ⟨.qEmpty 2, 0⟩, lodSeen := seen
                            sys := { Sys.reset with lodthr := thr } } with now := now }
/-- A context that waits at a barrier. -/
def stuck (now : Nat) : State := { barred [] 1 with now := now, ctxs := [(0, { withBar [] with wait := some ⟨.barw 3 0, 0⟩ })] }

theorem test_handler_starts : (nextOf (exec (.handlerStart 0 5) called)).map
    (fun s => ((s.ctx 5).run, (s.ctx 5).chan, (s.ctx 5).sys.pri)) = some (true, some 9, 1) := by decide
theorem test_group_is_placed : (nextOf (exec (.groupPlace 0) (dieWith (fun d => { d with launches := [launch0 2 0 0] }) ctx0))).map
    (fun s => ((s.ctx 1).run, (s.ctx 1).sys.pri, (s.die 0).launches.map (fun l => l.next))) = some (true, 3, [1]) := by decide +kernel
theorem test_last_task_reports : (nextOf (exec (.taskComplete 0) (ended0 1))).map
    (fun s => ((s.die 0).launches, ((s.core 0).chan 9).inbox)) = some ([], [1]) := by decide +kernel
theorem test_chain_moves_token : (nextOf (exec (.chainToken 0 0) (chained [tok0] []))).map
    (fun s => ((s.ctx 1024).queue 5).map (fun k => k.ctxQ.length)) = some (some 1) := by decide
theorem test_chain_within_a_task : farEnd (mach { ctx0 with task := some { task0 [] with
    queues := [(0, { queue0 with ends := 2, ckey := 7 }), (5, { queue0 with ends := 2, inward := true, ckey := 7 })] } }) 0 0 = some (0, 5) := by
  decide
theorem test_barrier_deadlock : (nextOf (exec (.quietWindowComplete 0 0) (stuck 10000000))).map
    (fun s => ((s.ctx 0).sys.cause, (s.ctx 0).sys.eva)) = some (0x40, 0) := by decide +kernel
theorem test_lod_counts : (nextOf (exec (.lodEvent 0) (lost false 5 6))).map (fun s => (s.ctx 0).task.map (fun t => t.lodcnt)) = some (some 1) := by
  decide
theorem test_counter_cache_flushes : (nextOf (exec (.counterCacheTimeout 0 0)
      { coreWith (fun k => { k with cc := [⟨0x11010, 3, 0, 0, 0, false⟩] }) ctx0 with now := 128000 })).map (fun s => s.mem) = some [(0x11010, 3)] := by
  decide

theorem witness_TaskEvents :
    ((called.core 0).started = true ∧ ((called.core 0).chan 9).en = true ∧ (called.ctx 5).task = none ∧ ((called.core 0).chan 9).inbox.length < 4
      ∧ (awaited.ctx 3).wait = some ⟨.sendFull 0 2 7, 0⟩ ∧ (awaited.ctx 3).desched = false ∧ ((called.core 0).chan 8).en = false ∧ (called.ctx 0).run = true)
    ∧ ((called.ctx 5).run = false ∧ ((called.core 0).chan 9).msk = false ∧ ((called.core 0).chan 9).inbox ≠ [] ∧ ((called.core 0).chan 9).ctx = 5
      ∧ ∀ o < 64, o ≠ 9 → ((called.core 0).chan o).en = false)
    ∧ (let s := dieWith (fun d => { d with launches := [launch0 2 0 0] }) ctx0
       let x := s.die 0
       x.started = true ∧ x.resHold = none ∧ x.words = [] ∧ x.pmop = none ∧ x.launches = [launch0 2 0 0] ∧ 0 = (x.rrptr + 1) % 64
       ∧ (∀ e ∈ s.ctxs, coreOf e.1 = 0 → e.2.task = none) ∧ (s.ctx 1).run = false ∧ (s.ctx 1).task = none ∧ reserved s 0 1 = false
       ∧ ∀ j < 1, reserved s 0 j = true ∨ (s.ctx j).run = true)
    ∧ (∀ n ∈ [0, 1], let s := ended0 n
        (s.ctx 0).task = some (task0 []) ∧ (s.ctx 0).ended = true ∧ (task0 []).region = none ∧ (s.ctx 0).desched = false
        ∧ (s.die 0).pmop = none ∧ (s.die (task0 []).hdie).launches = [launch0 2 2 n] ∧ (launch0 2 2 n).num = (task0 []).launch ∧ (launch0 2 2 n).gone = false
        ∧ (launch0 2 2 n).pins = [] ∧ pkgGone s (pkgOf 0) (pkgOf (dieOfCore 0)) = false ∧ (s.core 0).started = true
        ∧ ((s.core 0).chan 9).en = true ∧ (s.ctx 5).task = none ∧ ((s.core 0).chan 9).inbox.length < 4)
    ∧ (∀ b ∈ [[], List.replicate 32 tok0], let s := chained [tok0] b
        ∃ k q, (s.ctx 0).queue 0 = some k ∧ farEnd s 0 0 = some (1024, 5) ∧ (s.ctx 1024).queue 5 = some q ∧ k.ends = 2 ∧ q.ends = 2
          ∧ k.inward = false ∧ q.cut = false ∧ frozen s 0 = false ∧ tailAhead s 0 k = false ∧ pkgGone s (pkgOf 0) (pkgOf k.cdie) = false ∧ k.ctxQ = [tok0] ∧ q.ctxQ = b)
    ∧ (let s := stuck 10000000
       max (SMap.getD (s.die 0).lastMove 0 0) (SMap.getD (s.die 0).lastBusy 0 0) + 4096 ≤ s.fc ∧ (stuck 0).fc < 4096
       ∧ jobContexts s 0 0 = [0] ∧ (s.ctx 0).wait = some ⟨.barw 3 0, 0⟩ ∧ runnable s 0 = false ∧ (s.ctx 0).trapDepth = 0
       ∧ (s.ctx 0).ended = false ∧ (s.ctx 0).region = none ∧ (s.ctx 0).desched = false ∧ windowUsed (s.die 0) 0 = false ∧ noCommands s 0
       ∧ chainAble s 0 = false)
    ∧ (∀ thr ∈ [(5 : Word), 0x8000000000000005], let s := lost false thr 6
        (s.ctx 0).wait = some ⟨.qEmpty 2, 0⟩ ∧ (∃ e, (s.ctx 0).endOf 2 = some e ∧ e.1.dir = .inn ∧ e.2.ends = 0) ∧ (s.ctx 0).task.isSome = true
        ∧ 0 + (s.ctx 0).sys.lodthr.toNat % 2 ^ 32 < s.now ∧ (s.ctx 0).lodSeen = false ∧ (s.ctx 0).desched = false ∧ starved s 0 = true)
    ∧ (∀ now ∈ [0, 128000], let s := { coreWith (fun k => { k with cc := [⟨0x11010, 3, 0, 0, 0, false⟩] }) ctx0 with now := now }
        (s.core 0).cc[0]? = some ⟨0x11010, 3, 0, 0, 0, false⟩ ∧ writable s (pkgOf (dieOfCore 0)) 0 0x11010 8 ∧ untracked s 0 0x11010 ∧ still s
        ∧ (now = 0 → s.now < 0 + 128000) ∧ (now = 128000 → 0 + 128000 ≤ s.now))
    ∧ (let s := { mach { ctx0 with wreport := [(1, 0x10000)] } with hits := [⟨0, 1, 0x10008, none, 0⟩] }
       s.hits = [⟨0, 1, 0x10008, none, 0⟩] ∧ (s.ctx 0).wreport = [(1, 0x10000)] ∧ SMap.find (s.ctx 0).wreport 2 = none ∧ (s.ctx 0).run = true
       ∧ (s.ctx 0).stopped = false ∧ (s.ctx 0).ended = false ∧ (s.ctx 0).desched = false ∧ (s.ctx 0).sys.ie = true ∧ (s.ctx 0).wait = none
       ∧ (s.ctx 0).held = none ∧ (s.ctx 0).imx = [])
    ∧ (let x : Ctx := { ctx0 with wreport := [(1, 0x10000)], wait := some ⟨.qEmpty 2, 0⟩, imx := [] }
       x.wait ≠ none ∧ ∀ v, x.wait = some v → v.kind.abandoned = true) := by
  refine ⟨by decide, by decide, by decide, by decide, ?_, by unfold noCommands; decide +kernel, ?_, ?_, by decide, by decide, fun v h => by cases h; rfl⟩
  · intro b hb
    simp only [List.mem_cons, List.not_mem_nil, or_false] at hb
    rcases hb with rfl | rfl <;> exact ⟨_, _, rfl, by decide, rfl, rfl, rfl, rfl, rfl, by decide, by decide, by decide, rfl, rfl⟩
  · intro thr ht
    simp only [List.mem_cons, List.not_mem_nil, or_false] at ht
    rcases ht with rfl | rfl <;> exact ⟨rfl, ⟨_, rfl, rfl, rfl⟩, rfl, by decide, rfl, rfl, by decide +kernel⟩
  · intro now hn
    simp only [List.mem_cons, List.not_mem_nil, or_false] at hn
    rcases hn with rfl | rfl <;>
      exact ⟨rfl, ⟨⟨by decide, by decide, by decide, by decide,
        ⟨fun e he => by simp only [coreWith, List.mem_singleton] at he; subst he; rfl, rfl⟩⟩, by decide⟩, by unfold untracked; decide,
        by unfold still; decide, by decide, by decide⟩
/-! ## Pre-emption, the agents, the package -/

/-- Context 0, of a task that PMLNCH and PMGIDX name, stands before or in a block. -/
def inGroup (entering : Bool) : Ctx := { withX [(1, 7)] with task := some (task0 []), blk := { ctx0.blk with entering := entering } }
def preempting (img : Nat) (entering : Bool) : State :=
  dieWith (fun d => { d with launches := [launch0 2 2 0], pmlnch := 1, pmgidx := 0, pmimg := img }) (inGroup entering)
/-- PMCTL's operation on that group, of which the only context has stopped. -/
def op0 (freeze : Bool) : PmOp := ⟨1, 0, 0, 0x20000, freeze, some 1000, 0, false, [], []⟩
def draining0 (freeze : Bool) (now : Nat) : State :=
  { dieWith (fun d => { d with launches := [launch0 2 2 0], pmstat := 1, pmop := some (op0 freeze) })
      { withX [(1, 7)] with desched := true, task := some (task0 []) } with now := now }
/-- A saved image of the group's one task stands at 0x20000. -/
def imaged : State :=
  { dieWith (fun d => { d with launches := [{ launch0 1 1 0 with spq := 0 }], pmimg := 0x20000 }) ctx0 with
    mem := Mem.write (Mem.write (Mem.write [] 0x20000 2 1) 0x20002 1 1) 0x20004 4 1 }

theorem test_preempt_asks : (nextOf (exec (.pmctlPreempt 0) (preempting 0x20000 false))).map
    (fun s => ((s.die 0).pmstat, (s.ctx 0).preempt, (s.ctx 0).desched)) = some (1, true, false) := by decide +kernel
theorem test_freeze_stops : (nextOf (exec (.pmctlFreeze 0) (preempting 0x20000 false))).map
    (fun s => ((s.die 0).pmstat, (s.ctx 0).desched)) = some (1, true) := by decide +kernel
theorem test_preempt_unaligned_image : (nextOf (exec (.pmctlPreempt 0) (preempting 0x20010 false))).map (fun s => (s.die 0).pmstat) = some 8 := by
  decide +kernel
theorem test_preempt_no_group : (nextOf (exec (.pmctlPreempt 0) (dieWith (fun d => { d with pmlnch := 9 }) ctx0))).map
    (fun s => (s.die 0).pmstat) = some 9 := by decide
theorem test_freeze_saves : (nextOf (exec (.freezeComplete 0) (draining0 true 0))).map
    (fun s => ((s.die 0).pmstat, (s.die 0).saved.length, (s.ctx 0).run))
    = some (3, 1, false) := by decide +kernel

theorem witness_Preemption :
    (let s := dieWith (fun d => { d with pmlnch := 9 }) ctx0
     (s.die 0).started = true ∧ (s.die 0).pmop = none
     ∧ ∀ e ∈ s.ctxs, dieOf e.1 = 0 → ∀ t, e.2.task = some t → t.launch = (s.die 0).pmlnch → t.group ≠ (s.die 0).pmgidx)
    ∧ (namedGroup (preempting 0x20010 false) 0 ≠ none ∧ (preempting 0x20010 false |>.die 0).saved.length < 256 ∧ 0x20010 % 4096 ≠ 0)
    ∧ (let s := dieWith (fun d => { d with launches := [launch0 2 2 0], pmlnch := 1, saved := List.replicate 256 ⟨0, 0, 0, 0, 0, 0, [], []⟩ })
         (inGroup false)
       namedGroup s 0 ≠ none ∧ 256 ≤ (s.die 0).saved.length)
    ∧ (∀ en ∈ [true, false], let s := preempting 0x20000 en
        let y := inGroup en
        let x := s.die 0
        namesOnly s 0 0 y (task0 []) ∧ x.started = true ∧ x.pmop = none ∧ x.saved.length < 256 ∧ x.pmimg % 4096 = 0
        ∧ fenced s (pkgOf 0) .engine x.pmimg (pmisz s 0 * max 1 (groupSize s 0 1 0)) = false
        ∧ y.run = true ∧ y.stopped = false ∧ y.wait = none ∧ y.held = none ∧ y.imx = [] ∧ y.desched = false ∧ y.sbuf = [] ∧ y.pend = []
        ∧ ∀ e ∈ s.cores, ∀ q ∈ e.2.deltas, ∀ w ∈ q.who, w.1 ≠ 0)
    ∧ (let y : Ctx := { inGroup false with preempt := true }
       let s := dieWith (fun d => { d with pmstat := 1, pmop := some (op0 false) }) y
       (s.die 0).pmop = some (op0 false) ∧ (op0 false).freeze = false ∧ s.ctx 0 = y ∧ y.preempt = true ∧ y.desched = false ∧ y.run = true ∧ y.stopped = false
       ∧ y.wait = none ∧ y.held = none ∧ y.imx = [] ∧ y.sbuf = [] ∧ y.pend = []
       ∧ (∃ x0 : Ctx, y.trapDepth ≤ x0.trapDepth ∧ y.blk.iter ≠ x0.blk.iter) ∧ (∃ x0 : Ctx, y.trapDepth < x0.trapDepth)
       ∧ (∃ x0 : Ctx, y.blk.iter = x0.blk.iter ∧ y.trapDepth = x0.trapDepth ∧ y.blk.entering = false)
       ∧ (∃ x0 : Ctx, x0.trapDepth < { y with trapDepth := 1 }.trapDepth)
       ∧ (inGroup true).blk.entering = true ∧ (inGroup true).trapDepth = ctx0.trapDepth)
    ∧ (∀ f ∈ [true, false], ∀ now ∈ [0, 100000], let s := draining0 f now
        ∃ y, s.ctxs = [(0, y)] ∧ y.task = some (task0 []) ∧ (s.die 0).pmop = some (op0 f) ∧ (op0 f).resume = false
          ∧ (op0 f).launch = (task0 []).launch ∧ (op0 f).hdie = (task0 []).hdie ∧ (op0 f).group = (task0 []).group ∧ y.desched = true ∧ y.sbuf = []
          ∧ (task0 []).region = none ∧ noCommands s 0 ∧ areaOwned s (op0 f).img (imageArea s (op0 f) [(0, task0 [])]) = false
          ∧ fenced s (pkgOf 0) .engine (op0 f).img (max 1 (imageArea s (op0 f) [(0, task0 [])])) = false ∧ chainAble s 0 = false
          ∧ commitUnderWay s 0 = false ∧ (op0 f).deadline = some 1000 ∧ (op0 f).freeze = f
          ∧ (now = 0 → s.fc < (op0 f).started + 64 ∧ s.now < 1000) ∧ (now = 100000 → (op0 f).started + 64 ≤ s.fc ∧ y.adv + 64 ≤ s.fc ∧ 1000 ≤ s.now))
    ∧ (let s := imaged
       let l := { launch0 1 1 0 with spq := 0 }
       (s.die 0).started = true ∧ (s.die 0).pmop = none ∧ landed s ∧ (s.die (s.peek (0x20000 + 10) 1)).launch (s.peek (0x20000 + 4) 4) = some l ∧ l.gone = false
       ∧ (l.coords (s.peek (0x20000 + 24) 8)).length = 1 ∧ fenced s (pkgOf 0) .engine 0x20000 ((geoOf l.image).size l.spq * 1) = false
       ∧ badImage s 0x20000 = false ∧ s.peek (0x20000 + 2) 1 ≠ 0 ∧ (State.reset.die 0).launch 5 = none)
    ∧ (∀ code ∈ [1, 2], let s := dieWith (fun d => { d with pmstat := code }) { ctx0 with wait := some ⟨.pmctl 0 5, 0⟩ }
        (s.ctx 0).wait = some ⟨.pmctl 0 5, 0⟩ ∧ (s.die 0).pmstat = code) := by
  refine ⟨by decide, by decide +kernel, by decide +kernel, ?_,
    ⟨rfl, rfl, rfl, rfl, rfl, rfl, rfl, rfl, rfl, rfl, rfl, rfl, ⟨{ ctx0 with blk := { ctx0.blk with iter := 1 } }, by decide⟩,
      ⟨{ ctx0 with trapDepth := 1 }, by decide⟩, ⟨ctx0, by decide, by decide, rfl⟩, ⟨ctx0, by decide⟩, rfl, rfl⟩, ?_,
    ⟨by decide, by decide, ⟨⟨by decide, rfl⟩, rfl, by decide⟩, by decide +kernel⟩, by decide⟩
  · intro en he
    simp only [List.mem_cons, List.not_mem_nil, or_false] at he
    rcases he with rfl | rfl <;>
      exact ⟨⟨rfl, by decide, rfl, by decide, by decide⟩, by decide, by decide, by decide, by decide, by decide +kernel, rfl, rfl, rfl, rfl, rfl, rfl, rfl, rfl, by decide⟩
  · intro f hf now hn
    simp only [List.mem_cons, List.not_mem_nil, or_false] at hf hn
    rcases hf with rfl | rfl <;> rcases hn with rfl | rfl <;>
      exact ⟨_, rfl, rfl, rfl, rfl, rfl, rfl, rfl, rfl, rfl, rfl, by unfold noCommands; decide, by decide +kernel, by decide +kernel, by decide, by decide, rfl, rfl, by decide,
        by decide⟩

/-- Page tables of job 0 under the ASID table at GA 0: a page of 2 MiB at 0x600000, and no other. -/
def tables : List Host.Cell :=
  Mem.write (Mem.write (Mem.write (Mem.write [] 0 8 (2 ^ 63 + 0x100000)) 0x100000 8 (2 ^ 63 + 0x21)) 0x21000 8 (2 ^ 63 + 0x22))
    0x22018 8 (2 ^ 63 + 2 ^ 62 + 2 ^ 54 + 0x600)
/-- Context 0 asks the lease agent for the page of an address, beside some entries of other jobs. -/
def asking (va others : Nat) : State :=
  { dieWith (fun d => { d with fills := [⟨some 0, 0, va, 0, false⟩], leases := List.replicate others ⟨9, 1, 0, 3, 0, 1, false, false, false, false, true, true, 0⟩ })
      ctx0 with mem := tables }
/-- A launch whose residency request stands, with what remains to be made resident. -/
def requesting (todo : List (Nat × Nat)) : State :=
  dieWith (fun d => { d with resHold := some (0, 1), launches := [{ launch0 1 0 0 with resident := false, todo := todo }] }) ctx0
/-- A die whose migration agent is to copy 4 KiB from 0x30000 to 0x40000. -/
def migration (state copied : Nat) (others : List LtEntry) : State :=
  dieWith (fun d => { d with msrc := 0x30000, mdst := 0x40000, mlen := 4096, mstate := state, mcopied := copied, leases := others }) ctx0
/-- A task with a region that FSTOP may name, armed or not. -/
def stopping (armed : Bool) (self : Option Token) : State :=
  dieWith (fun d => { d with fsarm := armed, fsreg := 5, fstat := 1 }) (withR [] (reg0 { site0 0 with self := self, cfg := 0x01 } []))

theorem test_ltfill_walks : (nextOf (exec (.ltfill 0) (asking 0x612345 0))).map
    (fun s => ((s.die 0).leases.map (fun e => [e.va, e.psize, e.gbase]), (s.ctx 0).ltstat)) = some ([[0x600000, 2, 0x600000]], 0) := by
  decide +kernel
theorem test_ltfill_table_full : (nextOf (exec (.ltfill 0) (asking 0x612345 512))).map (fun s => (s.ctx 0).ltstat) = some 4 := by decide +kernel
theorem test_migration_copies_line : (nextOf (exec (.mctlWait 0 0 5) { migration 1 2 [] with mem := [(0x30101, 7)] })).map
    (fun s => (s.mem, (s.die 0).mcopied)) = some ([(0x30101, 7), (0x40101, 7)], 3) := by decide +kernel
theorem test_migration_bad_range : (nextOf (exec (.mctlGo 0) (dieWith (fun d => { d with mlen := 5 }) ctx0))).map (fun s => (s.die 0).mcode)
    = some 0x13 := by decide
theorem test_cscrub_unaligned : (nextOf (exec (.cscrub 0 8) (mach ctx0))).map (fun s => (s.die 0).cscrub) = some 0x13 := by decide

/-- A machine whose cores hold no deltas is quiet. -/
theorem quietD (f : Die → Die) (c : Ctx) : quiet (dieWith f c) :=
  ⟨fun e he => by simp only [dieWith, mach, List.mem_singleton] at he; subst he; rfl, rfl⟩
/-- And nothing of it is held back from a home. -/
theorem landedD (f : Die → Die) : landed (dieWith f ctx0) :=
  ⟨quietD f ctx0, rfl, fun e he => by simp only [dieWith, mach, List.mem_singleton] at he; subst he; rfl⟩
/-- A machine whose region 1 PROC owns, with the ASID table of its job at an address. -/
def procMachAt (g : Nat) : State :=
  { mach ctx0 with dies := [(0, { Die.reset with started := true, rotbase := 0x8000, asidbase := g })], mem := [(0x8001, 1)] }
theorem witness_AgentRegisters :
    (let s := asking 0x612345 0
     (s.die 0).fills = [⟨some 0, 0, 0x612345, 0, false⟩] ∧ firstOwned s (walkGas s 0 0 0x612345) = none ∧ quiet s ∧ leaseFind (s.die 0) 0 0x612345 = none ∧ leaseOcc (s.die 0) + entryCost 2 ≤ 262144
     ∧ walkPage s 0 0 0x612345 = .leaf (leafEntry 0 0x612345 1 (2 ^ 63 + 2 ^ 62 + 2 ^ 54 + 0x600)))
    ∧ (let s := { dieWith (fun d => { d with fills := [⟨none, 0, 0x612345, 0, false⟩], rotbase := 0x2000 }) ctx0 with mem := [(0x2000, 1)] }
       (s.die 0).fills = [⟨none, 0, 0x612345, 0, false⟩] ∧ (firstOwned s (walkGas s 0 0 0x612345)).isSome = true)
    ∧ walkPage (asking 0x800000 0) 0 0 0x800000 = .absent
    ∧ walkPage { asking 0x800000 0 with mem := Mem.write [] 0 8 (2 ^ 63 + 1) } 0 0 0x800000 = .malformed
    ∧ (leaseFind ((mach ctx0).die 0) 0 0x10008).isSome = true
    ∧ (let s := asking 0x612345 512
       262144 < leaseOcc (s.die 0) + entryCost 2 ∧ leaseFind (s.die 0) 0 0x612345 = none)
    ∧ (∀ w ∈ [Wait.ltstat 0 5, .plstat 0 5, .ccflush 0 5, .mctl 0 5, .dclrv 0 5],
        let s := { mach { ctx0 with wait := some ⟨w, 0⟩ } with mem := Mem.write [] 8 8 (2 ^ 63 + 0x20000000) }
        (s.ctx 0).wait = some ⟨w, 0⟩ ∧ (∀ e ∈ s.dies, ∀ f ∈ e.2.fills, f.who ≠ some 0 ∨ f.late = true) ∧ (s.die 0).poolOps = []
        ∧ (∀ e ∈ (s.core 0).cc, e.delta = 0) ∧ migrating s 0 = false ∧ quiet s ∧ still s ∧ s.peek ((s.die 0).asidbase + 16 * (s.die 0).dasid + 8) 8 / 2 ^ 63 % 2 = 1
        ∧ procOwned s (dasidGa s 0) = false)
    ∧ (∀ own ∈ [(0 : Byte), 1], let s := { mach ctx0 with
          mem := Mem.write (Mem.write [] 8 8 (2 ^ 63 + 0x200000)) 0x8001 1 own.toNat
          dies := [(0, { Die.reset with started := true, rotbase := 0x8000 })] }
        let g := s.peek 8 8 / 2 ^ 12 % 2 ^ 44 * 4096 + 8 * (s.die 0).dclr
        procOwned s g = decide (own = 1) ∧ procOwned s (dasidGa s 0) = false)
    ∧ procOwned (procMachAt 0x200000) (dasidGa (procMachAt 0x200000) 0) = true
    ∧ (∀ todo ∈ [[], [(0x800000, 0x801000)]], let s := requesting todo
        let l := { launch0 1 0 0 with resident := false, todo := todo }
        (s.die 0).resHold = some (0, l.num) ∧ (s.die 0).launches = [l] ∧ (s.die 0).pmop = none ∧ l.resident = false
        ∧ leaseFind (s.die 0) l.asid 0x800000 = none ∧ walkPage s 0 l.asid 0x800000 = .absent
        ∧ firstOwned s (walkGas s 0 l.asid 0x800000) = none ∧ quiet s ∧ ∀ r ∈ l.ranges, r.demand = false)
    ∧ ((migration 1 0 []).die 0).mstate ≠ 0
    ∧ (let s := migration 0 0 []
       let x := s.die 0
       x.mstate = 0 ∧ x.mlen = 2 ^ 12 ∧ frameOk s x.msrc x.mlen = true ∧ frameOk s x.mdst x.mlen = true)
    ∧ (let s := migration 1 2 []
       (s.die 0).mcopied * 128 < (s.die 0).mlen ∧ reachable s (pkgOf 0) 0x30100 128 ∧ fenced s (pkgOf 0) .engine 0x40100 128 = false
       ∧ procOwned s 0x40100 = false ∧ landed s ∧ (∀ e ∈ s.dies, e.2.mstate ≠ 0 → e.1 = 0) ∧ 0x30100 ≤ (0x40100 : Nat))
    ∧ (endReady (migration 1 32 []) 0 = true ∧ landed (migration 1 32 []))
    ∧ ((2 : Nat) ^ 56 ≤ (0x100000000000000 : Word).toNat ∧ (0x16000 : Word).toNat < 2 ^ 56)
    ∧ (let s := dieWith (fun d => { d with comp := [(0, ⟨0x200, 0, 0, 0, some 3, none⟩)], leases := [] }) ctx0
       (0x10000 : Nat) % 4096 = 0 ∧ gaDie 0x10000 = 0 ∧ (∀ e ∈ s.dies, e.2.leases = [])
       ∧ ∀ e ∈ (s.die 0).comp, e.2.prv = some 3 ∧ e.2.pnd = none ∧ 0x10000 ≤ e.2.line * 128 ∧ e.2.line * 128 < 0x10000 + 4096)
    ∧ (let s := dieWith (fun d => { d with leases := [{ page0 with bnd := true }] }) ctx0
       ∃ e ∈ s.dies, ∃ f ∈ e.2.leases, f.bnd = true ∧ f.gbase < 0x10000 + 4096 ∧ 0x10000 < f.gbase + pageBytes f.psize)
    ∧ (let s := coreWith (fun k => { k with cc := [⟨0x11010, 3, 0, 0, 0, false⟩] }) ctx0
       (s.core 0).cc = [⟨0x11010, 3, 0, 0, 0, false⟩] ∧ writable s (pkgOf (dieOfCore 0)) 0 0x11010 8 ∧ untracked s 0 0x11010 ∧ still s)
    ∧ (regionNumbered (mach ctx0) 0 6 = none ∧ tasksOn (mach ctx0) 0 = [])
    ∧ (∀ self ∈ [some tok0, none], let s := stopping true self
        ∃ y r, s.ctxs = [(0, y)] ∧ y.region = some r ∧ r.regno = 5 ∧ r.stopped = false ∧ (s.die 0).fsarm = true ∧ (s.die 0).fstat = 1
          ∧ (s.die 0).fsreg = 5 ∧ ∃ tk, y.task = some tk ∧ r.boundary tk.queues = self.isNone)
    ∧ (countersAt (mach ctx0) 0 0)[0]? = some (0xC40, 0)
    ∧ (let s := dieWith (fun d => { d with windows := [(2, [1, 2])] }) ctx0
       SMap.find (s.die 0).windows 2 = some [1, 2])
    ∧ ((0x1000 : Word).toNat = 2 ^ 12 ∧ purserHere (mach ctx0) 0 = true) := by
  refine ⟨⟨rfl, by decide +kernel, ⟨by decide, rfl⟩, by decide +kernel⟩, ⟨rfl, by decide +kernel⟩, by decide +kernel, by decide +kernel, by decide,
    by decide +kernel, ?_, by decide, by decide, ?_, by decide, by decide,
    ⟨by decide, ⟨by decide, by decide, by decide, by decide, quietD _ _⟩, by decide, by decide, landedD _, by decide, by decide⟩,
    ⟨by decide, landedD _⟩, by decide, by decide,
    by decide, ⟨rfl, ⟨⟨by decide, by decide, by decide, by decide,
        ⟨fun e he => by simp only [coreWith, List.mem_singleton] at he; subst he; rfl, rfl⟩⟩, by decide⟩, by unfold untracked; decide,
        by unfold still; decide⟩, by decide, ?_, by decide, by decide, by decide⟩
  · intro w hw
    simp only [List.mem_cons, List.not_mem_nil, or_false] at hw
    rcases hw with rfl | rfl | rfl | rfl | rfl <;> refine ⟨rfl, by decide, rfl, by decide, by decide, ⟨by decide, rfl⟩, by unfold still; decide, by decide +kernel, by decide⟩
  · intro todo ht
    simp only [List.mem_cons, List.not_mem_nil, or_false] at ht
    rcases ht with rfl | rfl <;> exact ⟨by decide, rfl, rfl, rfl, by decide, by decide +kernel, by decide +kernel, quietD _ _, by decide⟩
  intro self hs
  simp only [List.mem_cons, List.not_mem_nil, or_false] at hs
  rcases hs with rfl | rfl <;> exact ⟨_, _, rfl, rfl, rfl, rfl, rfl, rfl, rfl, _, rfl, by decide⟩

/-- Package 0 as an f of one with power, in a domain of packages 0 and 1. -/
def packed (f : Pkg → Pkg) (now : Nat) : State :=
  { mach ctx0 with now := now, pkgs := [(0, f { Pkg.reset with power := true }), (1, { Pkg.reset with power := true, beatsSent := [(0, 5)] })] }
/-- A unit of a stage is next. -/
def staged (stage u : Nat) : State := packed (fun k => { k with stage := stage, unit := u }) 0

theorem test_power_on : (nextOf (exec (.powerOn 0) State.reset)).map (fun s => ((s.pkg 0).power, (s.pkg 0).stage)) = some (true, 0) := by decide
theorem test_doorbell_timeout : (nextOf (exec (.firmwareTimeout 0) (packed id 120000000000))).map (fun s => ((s.pkg 0).stage, (s.pkg 0).failcode))
    = some (1, 0x11) := by decide
theorem test_die_starts : (nextOf (exec (.cdieStart 0 true) (staged 3 1))).map
    (fun s => ((s.die 1).started, (s.pkg 0).diemap, (s.pkg 0).unit)) = some (true, 2, 2) := by decide
theorem test_third_miss_is_reported : (nextOf (exec (.beatMiss 0 1) 
      (packed (fun k => { k with yalzal := 1, lastBeat := [(1, 0)], missed := [(1, 2)] }) 310000))).map
    (fun s => ((s.pkg 0).missed, (s.pkg 0).events.length)) = some ([(1, 3)], 1) := by decide
theorem test_hot_die_throttles : (nextOf (exec (.thermalThrottle 0 2 96 0) (packed id 0))).map (fun s => (s.pkg 0).throttled) = some 4 := by decide

theorem witness_Package :
    (let s := packed (fun k => { k with image := some [0x4B, 0x52, 0x55, 0x58] }) 0
     let k := s.pkg 0
     k.power = true ∧ k.stage ≤ 1 ∧ k.failcode ≠ 0x11 ∧ k.personality = 0 ∧ s.now < k.bootAt + 120000000000
     ∧ k.image = some [0x4B, 0x52, 0x55, 0x58] ∧ leNat (List.take 4 [0x4B, 0x52, 0x55, 0x58]) = 0x5855524B)
    ∧ (((packed id 120000000000).pkg 0).bootAt + 120000000000 ≤ (packed id 120000000000).now ∧ ((packed id 120000000000).pkg 0).image = none)
    ∧ (∀ st ∈ [2, 3, 4, 5], ∀ u ∈ [0, 3], atUnit (staged st u) 0 st u ∧ State.Sound (staged st u) ∧ ((staged st u).pkg 0).stackBad.getLsbD u = false
        ∧ ((staged st u).pkg 0).fuses.lone.getLsbD u = false ∧ ((staged st u).die 0).started = true
        ∧ ((staged st u).pkg 0).asleep (u / 2) = false)
    ∧ (packed (fun k => { k with fuses := { k.fuses with lone := 2 } }) 0 |>.pkg 0).asleep 1 = true
    ∧ atUnit (staged 5 95) 0 5 95
    ∧ ((packed (fun k => { k with stage := 15 }) 0).pkg 0).fuses.svnmin < (5 : BitVec 16).toNat
    ∧ (∀ now ∈ [0, 100], let e : Event := ⟨0, 3, 1, 9⟩
       let s := packed (fun k => { k with events := [e], evbase := 0x20000, evhead := 7, stage := 15 }) now
       (s.pkg 0).events = [e] ∧ (s.pkg 0).power = true ∧ fenced s 0 .engine 0x200E0 32 = false ∧ procOwned s 0x200E0 = false
       ∧ lineOf (0x200E0 + 31) = lineOf 0x200E0 ∧ quiet s ∧ still s ∧ (now = 0 → s.fc ≤ e.fc) ∧ (now = 100 → e.fc < s.fc))
    ∧ (let s := packed (fun k => { k with yalzal := 1, stage := 15, lastBeat := [(1, 2)] }) 110002
       let k := s.pkg 0
       k.power = true ∧ k.shutdown = false ∧ k.yalzal ≠ 0 ∧ SMap.find k.beatsSent 1 = none ∧ SMap.find (s.pkg 1).beatsSent 0 = some 5 ∧ (2 : Nat) < 5
       ∧ k.silent.contains 1 = false ∧ SMap.find k.lastBeat 1 = some 2 ∧ SMap.getD k.missed 1 0 < 3 ∧ 2 + 110000 + 100000 * 0 ≤ s.now
       ∧ ({ s with now := 110001 } : State).now < 2 + 110000 + 100000 * SMap.getD k.missed 1 0)
    ∧ (let s := packed (fun k => { k with missed := [(1, 3)], takeover := [(1, 0, [7])] }) 0
       1 ∉ (s.pkg 0).silent ∧ (∃ e ∈ s.pkgs, e.1 ≠ 1 ∧ 3 ≤ SMap.getD e.2.missed 1 0) ∧ SMap.find (s.pkg 0).takeover 1 = some (0, [7]) ∧ (s.pkg 0).power = true)
    ∧ (∀ e ∈ (packed id 0).pkgs, e.1 ≠ 1 → SMap.getD e.2.missed 1 0 < 3)
    ∧ (let s := { packed id 0 with pkgs := [(0, { Pkg.reset with silent := [1] }), (1, { Pkg.reset with power := true, stage := 15 })] }
       1 ∈ (s.pkg 0).silent ∧ SMap.getD (s.pkg 0).fencedAt 1 0 ≤ (s.pkg 1).bootAt)
    ∧ (∀ l ∈ [(0 : BitVec 4), 1], let s := packed (fun k => { k with fuses := { k.fuses with lone := l } }) 2000000000
        let k := s.pkg 0
        k.power = true ∧ k.shutdown = false ∧ k.missedPort s.now (0 % 4) = true ∧ k.missedPort 0 (0 % 4) = false
        ∧ k.fuses.lone.getLsbD (0 % 4) = decide (l = 1) ∧ SMap.find k.mgmt (0 % 4) = none ∧ SMap.find k.mgmt (0 % 4) ≠ some 0
        ∧ agentRead (s.modPkg 0 (fun x => { x with mgmt := SMap.set x.mgmt (0 % 4) 1 })) 0 0 0x110030 0 = .val 0 ∧ k.bootAt + 2000000000 ≤ s.now)
    ∧ (let s := packed (fun k => { k with dieEvents := [(0, [⟨0, 3, 1, 9⟩])], celsius := [(0, 40)] }) 0
       SMap.getD (s.pkg 0).dieEvents 0 [] = [⟨0, 3, 1, 9⟩] ∧ SMap.getD ((packed id 0).pkg 0).dieEvents 0 [] = [])
    ∧ (105 ≤ 105 ∧ (packed id 0).now < ((packed id 0).pkg 0).bootAt + 2000000000) := by
  refine ⟨by decide, by decide, ?_, by decide, ⟨rfl, rfl, rfl, rfl⟩, by decide, ?_, by decide, by decide, by decide, by decide, ?_, by decide, by decide⟩
  · intro st hst u hu
    simp only [List.mem_cons, List.not_mem_nil, or_false] at hst hu
    rcases hst with rfl | rfl | rfl | rfl <;> rcases hu with rfl | rfl <;> exact ⟨⟨rfl, rfl, rfl, rfl⟩, by unfold State.Sound; decide, by decide, by decide, by decide, by decide⟩
  · intro now hn
    simp only [List.mem_cons, List.not_mem_nil, or_false] at hn
    rcases hn with rfl | rfl <;> exact ⟨rfl, rfl, by decide, by decide, by decide,
      ⟨fun e he => by simp only [packed, mach, List.mem_singleton] at he; subst he; rfl, rfl⟩, by unfold still; decide, by decide, by decide⟩
  · intro l hl
    simp only [List.mem_cons, List.not_mem_nil, or_false] at hl
    rcases hl with rfl | rfl <;> exact ⟨rfl, rfl, by decide, by decide, by decide, by decide, by decide, rfl, by decide⟩


/-! ## Decoding and the step -/

/-- The fields of the formats of Table 3.4, of words with the predicate that always holds: MAJ in [5:1], bit 0 = 1. -/
def fR (maj fn b a d : Nat) : Nat := fn * 2 ^ 25 + b * 2 ^ 20 + a * 2 ^ 15 + d * 2 ^ 10 + maj * 2 + 1
def fI (maj imm a d : Nat) : Nat := imm * 2 ^ 20 + a * 2 ^ 15 + d * 2 ^ 10 + maj * 2 + 1
def fM (maj off ord rt sz h x : Nat) : Nat :=
  off * 2 ^ 25 + ord * 2 ^ 23 + rt * 2 ^ 21 + sz * 2 ^ 19 + h * 2 ^ 15 + x * 2 ^ 10 + maj * 2 + 1
def fE (maj k y sub q x : Nat) : Nat := k * 2 ^ 29 + y * 2 ^ 24 + sub * 2 ^ 19 + q * 2 ^ 15 + x * 2 ^ 10 + maj * 2 + 1
/-- The bytes of each word decode to the instruction beside it. -/
def decodes (l : List (Nat × Instr)) : Bool := l.all (fun e => decide (decodeTableWord 32 e.1 = some e.2))
/-- No word of the list is an instruction. -/
def refused (l : List Nat) : Bool := l.all (fun w => (decodeTableWord 32 w).isNone)

/-- The INT functions, Table 3.10, of x3, x4, x5. -/
theorem test_decode_arithmetic : decodes
    [(fR 1 0x00 5 4 3, .add always 3 4 5), (fR 1 0x01 5 4 3, .sub always 3 4 5), (fR 1 0x02 5 4 3, .mul always 3 4 5),
     (fR 1 0x03 5 4 3, .mulh always 3 4 5), (fR 1 0x04 5 4 3, .mulhu always 3 4 5), (fR 1 0x05 5 4 3, .div always 3 4 5),
     (fR 1 0x06 5 4 3, .divu always 3 4 5), (fR 1 0x07 5 4 3, .rem always 3 4 5), (fR 1 0x08 5 4 3, .remu always 3 4 5),
     (fR 1 0x10 5 4 3, .and always 3 4 5), (fR 1 0x11 5 4 3, .or always 3 4 5), (fR 1 0x12 5 4 3, .xor always 3 4 5),
     (fR 1 0x13 5 4 3, .andn always 3 4 5), (fR 1 0x14 5 4 3, .shl always 3 4 5), (fR 1 0x15 5 4 3, .shr always 3 4 5),
     (fR 1 0x16 5 4 3, .sar always 3 4 5), (fR 1 0x17 5 4 3, .ror always 3 4 5), (fR 1 0x18 5 4 3, .min always 3 4 5),
     (fR 1 0x19 5 4 3, .max always 3 4 5), (fR 1 0x1A 5 4 3, .minu always 3 4 5), (fR 1 0x1B 5 4 3, .maxu always 3 4 5)] = true := by decide
/-- The other INT functions. -/
theorem test_decode_predicates : decodes
    [(fR 1 0x20 0 4 3, .clz always 3 4), (fR 1 0x21 0 4 3, .ctz always 3 4), (fR 1 0x22 0 4 3, .popc always 3 4),
     (fR 1 0x23 0 4 3, .bswap always 3 4), (fR 1 0x24 0 4 3, .sextB always 3 4), (fR 1 0x25 0 4 3, .sextH always 3 4),
     (fR 1 0x26 0 4 3, .sextW always 3 4), (fR 1 0x27 0 4 3, .zextW always 3 4), (fR 1 0x28 5 4 3, .bfins always 3 4 5),
     (fR 1 0x30 5 4 3, .cmpEq always 3 4 5), (fR 1 0x31 5 4 3, .cmpNe always 3 4 5), (fR 1 0x32 5 4 3, .cmpLt always 3 4 5),
     (fR 1 0x33 5 4 3, .cmpGe always 3 4 5), (fR 1 0x34 5 4 3, .cmpLtu always 3 4 5), (fR 1 0x35 5 4 3, .cmpGeu always 3 4 5),
     (fR 1 0x38 5 4 3, .pand always 3 4 5), (fR 1 0x39 5 4 3, .por always 3 4 5), (fR 1 0x3A 5 4 3, .pxor always 3 4 5),
     (fR 1 0x3B 5 4 3, .pandn always 3 4 5), (fR 1 0x3C 0 4 3, .mvpx always 3 4), (fR 1 0x3D 0 4 3, .mvxp always 3 4),
     (fR 1 0x40 0 4 0, .jr always 4), (fR 1 0x41 0 4 0, .callr always 0 4 0)] = true := by decide
/-- The immediate majors, Table 3.9, with IMM12 = 0xFFF, SH = 9, w = 8, POS = 20; LI and IMX. -/
theorem test_decode_immediates : decodes
    [(fI 2 0xFFF 4 3, .addi always 3 4 0xFFF), (fI 3 0xFFF 4 3, .andi always 3 4 0xFFF),
     (fI 4 0xFFF 4 3, .ori always 3 4 0xFFF), (fI 5 0xFFF 4 3, .xori always 3 4 0xFFF), (fI 6 0x009 4 3, .shli always 3 4 9),
     (fI 6 0x049 4 3, .shri always 3 4 9), (fI 6 0x089 4 3, .sari always 3 4 9), (fI 6 0x0C9 4 3, .rori always 3 4 9),
     (fI 7 0xFFF 4 (0 * 8 + 3), .cmpiEq always 3 4 0xFFF), (fI 7 0xFFF 4 (1 * 8 + 3), .cmpiNe always 3 4 0xFFF),
     (fI 7 0xFFF 4 (2 * 8 + 3), .cmpiLt always 3 4 0xFFF), (fI 7 0xFFF 4 (3 * 8 + 3), .cmpiLtu always 3 4 0xFFF),
     (fI 8 0x1D4 4 3, .bfx always 3 4 7 20), (fI 8 0x9D4 4 3, .bfxs always 3 4 7 20), (fI 23 0x012 0 3, .mfs always 3 0x012),
     (fI 23 0x812 4 0, .mts always 0x012 4), (0x1ABCD * 2 ^ 15 + 3 * 2 ^ 10 + 19, .li always 3 0x1ABCD),
     (0x2ABCDEF * 2 ^ 6 + 21, .imx 0x2ABCDEF)] = true := by decide
/-- Memory words, Tables 3.4 and 3.5, branches, a header. -/
theorem test_decode_memory : decodes
    [(fM 14 0x7F 1 2 1 4 3, .ld always 3 4 .h .si .acq 0x7F), (fM 15 2 2 1 3 4 3, .st always 3 4 .d .wt .rel 2),
     (fM 16 9 0 3 0 4 3, .ldx always 3 4 .b .uc .plain 9), (fM 16 (32 + 9) 0 0 2 4 3, .stx always 3 4 .w .own .plain 9),
     (7 * 2 ^ 24 + 2 ^ 28 + 9 * 2 ^ 19 + 4 * 2 ^ 15 + 2 * 2 ^ 10 + 35, .amo always 2 4 9 .cas false .die .plain),
     (5 * 2 ^ 10 + 23, .br always 5), (5 * 2 ^ 10 + 25, .call always 5), (5 * 2 ^ 15 + 6 * 2 ^ 10 + 27, .brq always 6 5),
     (5 * 2 ^ 15 + 2 ^ 14 + 6 * 2 ^ 10 + 27, .brqN always 6 5),
     (7 * 2 ^ 20 + 9 * 2 ^ 10 + 2 ^ 7 + 1, .hdr 7 9 false true false),
     (0 * 2 ^ 24 + 2 ^ 27 + 9 * 2 ^ 19 + 4 * 2 ^ 15 + 3 * 2 ^ 10 + 35, .amo always 3 4 9 .swap true .core .plain),
     (1 * 2 ^ 24 + 2 ^ 27 + 9 * 2 ^ 19 + 4 * 2 ^ 15 + 3 * 2 ^ 10 + 35, .amo always 3 4 9 .add true .core .plain),
     (2 * 2 ^ 24 + 2 ^ 27 + 9 * 2 ^ 19 + 4 * 2 ^ 15 + 3 * 2 ^ 10 + 35, .amo always 3 4 9 .and true .core .plain),
     (3 * 2 ^ 24 + 2 ^ 27 + 9 * 2 ^ 19 + 4 * 2 ^ 15 + 3 * 2 ^ 10 + 35, .amo always 3 4 9 .or true .core .plain),
     (4 * 2 ^ 24 + 2 ^ 27 + 9 * 2 ^ 19 + 4 * 2 ^ 15 + 3 * 2 ^ 10 + 35, .amo always 3 4 9 .xor true .core .plain),
     (5 * 2 ^ 24 + 2 ^ 27 + 9 * 2 ^ 19 + 4 * 2 ^ 15 + 3 * 2 ^ 10 + 35, .amo always 3 4 9 .min true .core .plain),
     (6 * 2 ^ 24 + 2 ^ 27 + 9 * 2 ^ 19 + 4 * 2 ^ 15 + 3 * 2 ^ 10 + 35, .amo always 3 4 9 .max true .core .plain)] = true := by decide
/-- The MEM and SYS functions, Tables 3.11 and 3.12. -/
theorem test_decode_system : decodes
    [(fR 18 0x00 0 4 3, .xlat always 3 4), (fR 18 0x01 0 4 3, .xlatW always 3 4), (fR 18 0x02 0 4 3, .hmv always 3 4),
     (fR 18 0x03 0 4 0, .hrel always 4), (fR 18 0x04 0 4 3, .hspan always 3 4), (fR 18 0x08 0x1 0 0, .fence always .full .die),
     (fR 18 0x08 0x6 0 0, .fence always .acq .pkg), (fR 18 0x08 0xB 0 0, .fence always .rel .domain),
     (fR 18 0x10 5 4 0, .clean always 4 5), (fR 18 0x11 5 4 0, .invl always 4 5), (fR 18 0x12 5 4 0, .flushl always 4 5),
     (fR 18 0x13 5 4 0, .prefl always 4 5), (fR 18 0x14 0 0 0, .icinv always), (fR 18 0x18 0 4 0, .hshoot always 4),
     (fR 22 0x00 5 4 0, .sendw always 4 5), (fR 22 0x01 0 0 3, .waitch always 3), (fR 22 0x02 0 0 0, .yield always),
     (fR 22 0x03 0 0 0, .endt always), (fR 22 0x04 6 4 3, .launch always 3 4 6), (fR 22 0x05 0 4 0, .barv always 4),
     (fR 22 0x06 0 4 0, .barw always 4), (fR 22 0x10 3 7 0, .trap always 103), (fR 22 0x11 0 0 0, .bkpt always),
     (fR 22 0x12 0 0 0, .reth always), (fR 22 0x20 7 31 0, .bbh always 255)] = true := by decide
/-- The forms of QPUT, QPOP and FTEND, Table 6.4, R152 and R161. -/
theorem test_decode_forms : decodes
    [(fE 19 0 0 0 4 3, .qputW always 4 3), (fE 19 1 0 0 4 3, .qputD always 4 3), (fE 19 2 0 0 4 8, .qputT always 4 8),
     (fE 19 3 0 0 4 0, .qputEos always 4), (fE 19 4 0 0 4 0, .qputEeos always 4), (fE 19 0 0 1 4 3, .qpopW always 3 4),
     (fE 19 1 0 1 4 3, .qpopD always 3 4), (fE 19 2 0 1 4 8, .qpopT always 8 4), (fE 19 3 0 1 4 3, .qpopSkip always 3 4),
     (fE 19 0 0 19 2 3, .ftend always .v 3 2), (fE 19 0 0 19 2 11, .ftend always .c 3 2),
     (fE 19 0 0 19 2 19, .ftend always .vc 3 2)] = true := by decide
/-- The engine sub-opcodes of major 19, Table 3.13. -/
theorem test_decode_queue_engines : decodes
    [(fE 19 0 0 2 4 0, .qflusht always 4), (fE 19 0 0 3 4 3, .qstat always 3 4), (fE 19 0 0 4 4 3, .bqpush always 4 3),
     (fE 19 0 0 5 4 3, .bqpop always 3 4), (fE 19 0 9 6 4 3, .upd always .addW 3 4 9),
     (fE 19 1 9 6 4 3, .upd always .addD 3 4 9), (fE 19 2 9 6 4 3, .upd always .addF32 3 4 9),
     (fE 19 3 9 6 4 3, .upd always .minW 3 4 9), (fE 19 4 9 6 4 3, .upd always .maxW 3 4 9),
     (fE 19 5 9 6 4 3, .upd always .orD 3 4 9), (fE 19 6 9 6 4 3, .upd always .andD 3 4 9),
     (fE 19 7 9 6 4 3, .upd always .xorD 3 4 9), (fE 19 0 0 8 2 8, .sopen always 2 8), (fE 19 0 9 9 2 3, .spush always 2 9 3),
     (fE 19 0 0 10 2 3, .sadv always 2 3), (fE 19 0 0 11 2 3, .stend always 3 2), (fE 19 0 0 12 2 0, .sclose always 2),
     (fE 19 0 0 16 2 8, .fopen always 2 8), (fE 19 0 9 17 2 3, .fpush always 2 9 3), (fE 19 0 0 18 2 3, .fadv always 2 3),
     (fE 19 0 0 20 2 0, .fclose always 2), (fE 19 2 0 24 4 8, .cpy always 36 8), (fE 19 6 0 24 4 8, .cpyS always 36 8),
     (fE 19 0 9 25 0 3, .wtany always 3 9), (fE 19 0 9 26 0 3, .wtall always 3 9), (fE 19 0 9 27 0 3, .ffr always 3 9)] = true := by decide
/-- The engine sub-opcodes of major 20, Table 3.14, with the worked examples of their chapters. -/
theorem test_decode_index_engines : decodes
    [(fE 20 0 9 0 4 8, .gath always false 4 8 9), (fE 20 1 9 0 4 8, .gath always true 4 8 9),
     (fE 20 1 0 1 5 16, .gathq always true 5 16 0), (fE 20 0 9 2 4 8, .scat always .st 4 8 9),
     (fE 20 1 9 2 4 8, .scat always .addW 4 8 9), (fE 20 2 9 2 4 8, .scat always .addD 4 8 9),
     (fE 20 3 9 2 4 8, .scat always .addF32 4 8 9), (fE 20 4 9 2 4 8, .scat always .minW 4 8 9),
     (fE 20 5 9 2 4 8, .scat always .maxW 4 8 9), (fE 20 6 9 2 4 8, .scat always .orD 4 8 9),
     (fE 20 0 9 3 4 8, .rgath always false 4 8 9), (0x49223029, .nzscan always false true 4 12 9),
     (fE 20 1 9 4 4 12, .nzscan always true false 4 12 9), (fE 20 0 2 8 4 3, .vopen always 2 4 3),
     (fE 20 3 9 9 1 3, .ldc always false .d 3 1 9), (fE 20 4 9 9 1 3, .ldc always true .b 3 1 9),
     (0x47509429, .stc always false .w 5 1 7), (fE 20 5 9 10 1 3, .stc always true .h 3 1 9),
     (fE 20 0 9 11 1 3, .updc always .addW 3 1 9), (fE 20 1 9 11 1 3, .updc always .addD 3 1 9),
     (fE 20 2 9 11 1 3, .updc always .addF32 3 1 9), (fE 20 3 9 11 1 3, .updc always .minW 3 1 9),
     (fE 20 4 9 11 1 3, .updc always .maxW 3 1 9), (fE 20 5 9 11 1 3, .updc always .orD 3 1 9),
     (fE 20 6 9 11 1 3, .updc always .andD 3 1 9), (fE 20 7 9 11 1 3, .updc always .xorD 3 1 9),
     (fE 20 0 9 12 1 3, .vpush always 9 1 3), (fE 20 0 9 13 1 3, .vprobe always 3 1 9), (fE 20 0 0 14 1 3, .vfree always 1 3),
     (fE 20 0 0 15 1 0, .vclose always 1), (fE 20 0 0 16 0 3, .vshoot always 3)] = true := by decide
/-- The sub-opcodes of major 21, Table 3.15, with the worked example of its chapter. -/
theorem test_decode_bundles : decodes
    [(fE 21 0 0 0 3 5, .bopen always 3 5), (fE 21 0 9 4 4 3, .bst always 0 .b 3 4 9), (0x6629902B, .bst always 1 .d 4 3 6),
     (fE 21 2 9 7 4 3, .bst always 3 .w 3 4 9), (fE 21 1 1 2 2 0, .bclose always 2 33), (fE 21 0 0 3 2 0, .babort always 2),
     (fE 21 0 0 8 0 0, .rgbeg always), (fE 21 0 0 9 0 3, .rgend always 3), (fE 21 0 0 16 0 4, .mq always 4),
     (fE 21 1 0 16 2 4, .mqNb always 2 4), (fE 21 0 0 17 7 3, .mqcan always 7 3), (fE 21 0 0 18 7 3, .waitb always 7 3)] = true := by decide
/-- The 16-bit words, Table 3.2: MAJ16 in [4:1], bit 0 = 0. -/
theorem test_decode_short : [0, 4 * 2 ^ 10 + 3 * 2 ^ 5 + 2, 0x3E * 2 ^ 10 + 3 * 2 ^ 5 + 4, 0x3F * 2 ^ 10 + 3 * 2 ^ 5 + 6, 4 * 2 ^ 9 + 6 * 2 ^ 5 + 8,
      6 * 2 ^ 10 + 3 * 2 ^ 5 + 10, 12].map (decodeTableWord 16)
    = [some (.hint 0), some (.mvs 3 4), some (.adds 3 0x3E), some (.lis 3 0x3F), some (.qputs 6 4), some (.qpops 3 6), none] := by decide
/-- A predicate: PG = 2, PN = 1. -/
theorem test_decode_predicate : decodeTableWord 32 (fR 1 0 5 4 3 + 2 ^ 9 + 2 * 2 ^ 6) = some (.add ⟨2, true⟩ 3 4 5) := by decide
/-- R77: a major, a function or a sub-opcode that its table lacks, a field that must be 0, an unused high bit, a misaligned pair
or quad, a field that does not fit, a kind of FENCE. -/
theorem test_decode_refuses : refused
    [24 * 2 + 1, fR 1 0x09 0 0 0, fR 18 0x15 0 0 0, fR 22 0x13 0 0 0, fE 19 0 0 7 0 0, fE 20 0 0 5 0 0, fE 21 0 0 1 0 0, fR 1 0x20 1 4 3,
     fR 18 0x02 0 16 3, fR 1 0x30 5 4 8, fE 19 0 0 9 8 3, 7 * 2 ^ 24 + 3 * 2 ^ 10 + 35, fE 19 0 0 24 0 6, fI 8 (7 * 64 + 60) 4 3,
     fR 18 0x08 0xC 0 0, fI 6 0x100 4 3, fM 16 64 0 0 0 0 0, fM 14 0 2 0 0 0 0, fI 23 0x812 4 1] = true := by decide

/-- Each constraint of R77 on operand values refuses a term that breaks it. -/
theorem test_ill_formed : [Instr.bfx always 3 4 7 60, .bfxs always 3 4 31 33, .ld always 3 4 .b .own .rel 0, .ldx always 3 4 .b .own .acqrel 0,
    .st always 3 4 .b .own .acq 0, .stx always 3 4 .b .own .acqrel 0, .amo always 3 4 5 .cas true .core .plain, .qputT always 1 4, .qpopT always 4 1,
    .sopen always 1 6, .fopen always 1 5, .cpy always 0 2, .cpyS always 0 1, .gath always false 1 6 0, .gathq always false 1 2 0,
    .scat always .st 1 3 0, .rgath always false 1 2 0, .nzscan always false false 1 1 0, .mq always 3, .mqNb always 1 5].all
    (fun i => !i.wellFormed && (encode i).all (fun w => (decodeTableWord 32 w).isNone)) = true := by decide
/-- And lets pass a term that meets it. -/
theorem test_well_formed : [Instr.bfx always 3 4 7 56, .ld always 3 4 .b .own .acq 0, .st always 3 4 .b .own .rel 0,
    .amo always 4 4 5 .cas true .core .plain, .amo always 3 4 5 .add true .core .plain, .qputT always 1 8, .sopen always 1 4, .cpy always 0 8,
    .scat always .st 1 4 0, .mq always 2].all (fun i => i.wellFormed) = true := by decide

theorem witness_EncodeDecode : (Instr.amo always 4 4 5 .cas true .core .plain).wellFormed = true
    ∧ ∃ w, encode (.amo always 4 4 5 .cas true .core .plain) = some w := ⟨rfl, _, rfl⟩
/-- The context before its first word, whose block is in memory. -/
def fetching (c : Ctx) : State := coded c [.adds 3 5, .hint 0]
theorem test_step_runs_word : (nextOf (step (fetching ctx0))).map (fun s => (s.me.getX 3, s.me.blk.pc, s.now)) = some (5, 0x10006, 1) := by
  decide +kernel
theorem test_step_enters_block : (nextOf (step (fetching atHeader))).map (fun s => (s.me.blk.pc, s.me.blk.len, s.now)) = some (0x10004, 2, 0) := by
  decide +kernel
theorem test_step_runs_event : (nextOf (step { mach ctx0 with agenda := [.event 3 (.hctlClear 0)] })).map (fun s => (s.now, s.agenda.length))
    = some (3, 0) := by decide
theorem witness_StepRunsDecoded :
    autonomous (.groupPlace 0) = true
    ∧ (turnIs { mach ctx0 with agenda := [.event 3 (.groupPlace 0)] } (mach ctx0) (.event 3 (.groupPlace 0)))
    ∧ (turnIs (mach { ctx0 with run := false }) (mach { ctx0 with run := false }) (.core 1 0)
        ∧ pick (elapse (mach { ctx0 with run := false }) 1) 0 = none)
    ∧ (∀ c ∈ [ctx0, { ctx0 with due := [(0x41, 0)] }], let s := fetching c
        let s1 := elapse s 1
        turnIs s s (.core 1 0) ∧ pick s1 0 = some 0 ∧ (s1.ctx 0).between = true ∧ (s1.ctx 0).due = c.due ∧ (s1.ctx 0).held = none
        ∧ (s1.ctx 0).waitingWord = none ∧ bufferedWord (s1.ctx 0).blk = none)
    ∧ (let s1 := elapse (mach { ctx0 with held := some ⟨0x08, 5, true, false⟩, wait := some ⟨wait1, 0⟩ }) 1
       pick s1 0 = some 0 ∧ (s1.ctx 0).held ≠ none)
    ∧ (let s1 := elapse (mach { ctx0 with blk := { ctx0.blk with word := [0x64, 0xF8] }, wait := some ⟨.tagBusy 0, 0⟩ }) 1
       pick s1 0 = some 0 ∧ dueNow s1 0 = false ∧ trapRow s1 0 = none ∧ (s1.ctx 0).held = none
       ∧ (s1.ctx 0).waitingWord = some [0x64, 0xF8] ∧ decode [0x64, 0xF8] = .ok (.adds 3 0x3E, 2) ∧ (s1.ctx 0).blk.entering = false)
    ∧ (let s1 := elapse (mach { ctx0 with blk := { ctx0.blk with buf := [(2, 0)] } }) 1
       pick s1 0 = some 0 ∧ dueNow s1 0 = false ∧ trapRow s1 0 = none ∧ (s1.ctx 0).held = none ∧ (s1.ctx 0).waitingWord = none
       ∧ bufferedWord (s1.ctx 0).blk = some [0, 0])
    ∧ (let s1 := elapse (procMach ctx0) 1
       pick s1 0 = some 0 ∧ dueNow s1 0 = false ∧ trapRow s1 0 = none ∧ (s1.ctx 0).held = none ∧ (s1.ctx 0).waitingWord = none
       ∧ bufferedWord (s1.ctx 0).blk = none ∧ wordWait s1 0 (s1.ctx 0).blk.pc isLong = some wait1)
    ∧ (∀ c ∈ [ctx0, atHeader], let s1 := elapse (fetching c) 1
        dueNow s1 0 = false ∧ trapRow s1 0 = none ∧ wordWait s1 0 c.blk.pc isLong = none ∧ fetchable s1 0 c.blk.pc c.blk.pc ∧ fetchable s1 0 (c.blk.pc + 2) (c.blk.pc + 2))
    ∧ (decode (leBytes 2 ((fetching ctx0).peek 0x10004 2)) = .ok (.adds 3 5, 2) ∧ ctx0.blk.entering = false)
    ∧ (decode (leBytes 2 ((fetching ctx0).peek 0x10000 2) ++ leBytes 2 ((fetching ctx0).peek 0x10002 2)) = .ok (.hdr 0 2 false true true, 4))
    ∧ (∃ err, decode [0xFF, 0xFF, 0xFF, 0xFF] = .error err)
    ∧ (∃ i, trapRow (elapse (mach { ctx0 with sys := { Sys.reset with timecmp := 0 } }) 1) 0 = some i
        ∧ dueNow (elapse (mach { ctx0 with sys := { Sys.reset with timecmp := 0 } }) 1) 0 = false) := by
  refine ⟨rfl, .inl ⟨rfl, rfl⟩, ⟨.inr ⟨rfl, rfl, rfl⟩, by decide⟩, ?_, by decide, ⟨by decide, by decide, by decide, rfl, rfl, rfl, rfl⟩, by decide, by decide, ?_, ⟨by rfl, rfl⟩, by rfl, ⟨_, rfl⟩, _, rfl, by decide⟩
  · intro c hc
    simp only [List.mem_cons, List.not_mem_nil, or_false] at hc
    rcases hc with rfl | rfl <;> exact ⟨.inr ⟨rfl, rfl, rfl⟩, by decide, by decide, rfl, rfl, rfl, by decide⟩
  · intro c hc
    simp only [List.mem_cons, List.not_mem_nil, or_false] at hc
    rcases hc with rfl | rfl <;>
      exact ⟨by decide, by decide, by decide, ⟨by decide, _, rfl, rfl, by decide, rfl, by decide, by decide⟩, by decide, _, rfl, rfl, by decide, rfl,
        by decide, by decide⟩
theorem witness_StepKeepsSound : State.Sound (fetching ctx0) ∧ ∃ t, step (fetching ctx0) = .next t :=
  ⟨by unfold State.Sound; decide, _, rfl⟩

end Sys2Proof.Tests
end

section
/-! Accesses through a handle: the offsets of the memory words, the checks of R121 and the rows of Table 1.12, and what each
memory word does with what they answer. -/

namespace Sys2Proof.Machine

open Sys2Proof.Claims

/-! ## Offsets -/

/-- SignExt of Table 0.3 on a pattern is the pattern's two's complement value. -/
theorem signed_toNat {n : Nat} (hn : 0 < n) (v : BitVec n) : signed n v.toNat = v.toInt := by
  obtain ⟨k, rfl⟩ : ∃ k, n = k + 1 := ⟨n - 1, by omega⟩
  have hv := v.isLt
  simp only [signed, BitVec.toInt, Nat.mod_eq_of_lt hv, Nat.add_sub_cancel]
  rw [Nat.pow_succ] at *
  split <;> split <;> omega

theorem toNat_append_eq {n k : Nat} (m : BitVec n) (v : BitVec k) : (m ++ v).toNat = m.toNat * 2 ^ k + v.toNat := by
  rw [BitVec.toNat_append, ← Nat.shiftLeft_add_eq_or_of_lt v.isLt, Nat.shiftLeft_eq]

/-- With at most two prefixes, the immediate of R71 is the sign-extended pattern of payloads and field. -/
theorem immOf_eq_immBits {k : Nat} (hk : 0 < k) (pre : List (BitVec 26)) (v : BitVec k) (h : pre.length ≤ 2) :
    immOf pre k v.toNat = immBits pre v := by
  match pre, h with
  | [], _ =>
    have e := signed_toNat hk v
    simp [immOf, immBits, BitVec.signExtend, e]
  | [m], _ =>
    have e := signed_toNat (by omega) (m ++ v)
    rw [toNat_append_eq] at e
    simpa [immOf, immBits, BitVec.signExtend] using congrArg (BitVec.ofInt 64) e
  | [m, n], _ =>
    have e := signed_toNat (by omega) (m ++ n ++ v)
    rw [toNat_append_eq, toNat_append_eq] at e
    simpa [immOf, immBits, BitVec.signExtend] using congrArg (BitVec.ofInt 64) e

theorem Size.bytes_eq_width (sz : Size) : Size.bytes sz = width sz := by cases sz <;> rfl

theorem scaled_eq_mul (v : Word) (n : Nat) : BitVec.ofNat 64 (v.toNat * n) = v * BitVec.ofNat 64 n := by
  apply BitVec.eq_of_toNat_eq
  simp [BitVec.toNat_mul]

theorem offM_eq (s : State) (off : BitVec 7) (sz : Size) (h : s.me.imx.length ≤ 2) :
    offM s off sz = immBits s.me.imx off * BitVec.ofNat 64 (width sz) := by
  rw [offM, State.imm, immOf_eq_immBits (by omega) _ _ h, Size.bytes_eq_width, scaled_eq_mul]

theorem offMX_eq (s : State) (ix : BitVec 5) (sz : Size) : offMX s ix sz = s.x ix * BitVec.ofNat 64 (width sz) := by
  rw [offMX, Size.bytes_eq_width, scaled_eq_mul]

/-! ## The checks of R121 -/

theorem checkRead_invalid {h : Handle} (hv : h.v = false) (hn : Nat) (off : Word) (n : Nat) (al : Bool) :
    checkRead h hn off n al = .error (0x12, hn) := by simp [checkRead, hv]

theorem checkRead_misaligned {h : Handle} (hv : h.v = true) (hn : Nat) {off : Word} {n : Nat} (ha : h.va off % n ≠ 0) :
    checkRead h hn off n true = .error (0x14, off.toNat) := by simp [checkRead, hv, ha]

theorem checkRead_outside {h : Handle} (hv : h.v = true) (hn : Nat) {off : Word} {n : Nat} (ha : h.va off % n = 0)
    (hb : h.inPage (h.va off) n = false) : checkRead h hn off n true = .error (0x13, off.toNat) := by
  simp [checkRead, hv, ha, hb]

theorem checkRead_inside {h : Handle} (hv : h.v = true) (hn : Nat) {off : Word} {n : Nat} (ha : h.va off % n = 0)
    (hb : h.inPage (h.va off) n = true) : checkRead h hn off n true = .ok (h.ga (h.va off)) := by
  simp [checkRead, hv, ha, hb]

/-- A write makes the checks of a read first. -/
theorem checkOwnWrite_read_error {s : State} {c : CtxId} {h : Handle} {hn n : Nat} {off : Word} {e : Cause}
    (hr : checkRead h hn off n true = .error e) : checkOwnWrite s c h hn off n = .error e := by
  simp [checkOwnWrite, checkWrite, hr]

theorem checkOwnWrite_readonly {s : State} {c : CtxId} {h : Handle} {hn n g : Nat} {off : Word}
    (hr : checkRead h hn off n true = .ok g) (hw : h.w = false) : checkOwnWrite s c h hn off n = .error (0x11, h.va off) := by
  simp [checkOwnWrite, checkWrite, hr, hw]

theorem checkOwnWrite_bundled {s : State} {c : CtxId} {h : Handle} {hn n g : Nat} {off : Word}
    (hr : checkRead h hn off n true = .ok g) (hw : h.w = true) (hb : h.bnd = true) :
    checkOwnWrite s c h hn off n = .error (0x38, off.toNat) := by simp [checkOwnWrite, checkWrite, hr, hw, hb]

theorem checkOwnWrite_watched {s : State} {c : CtxId} {h : Handle} {hn n g b : Nat} {off : Word}
    (hr : checkRead h hn off n true = .ok g) (hw : h.w = true) (hb : h.bnd = false) (hm : watchCore s c g n = some b) :
    checkOwnWrite s c h hn off n = .error (0x28, b % 2 ^ 50) := by
  simp [checkOwnWrite, checkWrite, hr, hw, hb, hm, watchEvaCore]

theorem checkOwnWrite_passes {s : State} {c : CtxId} {h : Handle} {hn n g : Nat} {off : Word}
    (hr : checkRead h hn off n true = .ok g) (hw : h.w = true) (hb : h.bnd = false) (hm : watchCore s c g n = none) :
    checkOwnWrite s c h hn off n = .ok g := by simp [checkOwnWrite, checkWrite, hr, hw, hb, hm]

/-- The checks before those of Table 1.12 leave out alignment on a page of space 7. -/
theorem accessAt_eq (h : Handle) (hn : Nat) (off : Word) (n : Nat) :
    accessAt h hn off n = checkRead h hn off n (decide (gaSpace h.gbase ≠ 7)) := by
  by_cases g : gaSpace h.gbase = 7
  · simp [accessAt, g]
  · rw [accessAt, bne_iff_ne.mpr g, decide_eq_true g]

theorem accessAt_agent {h : Handle} (h7 : gaSpace h.gbase = 7) (hn : Nat) (off : Word) (n : Nat) :
    accessAt h hn off n = checkRead h hn off n false := by simp [accessAt, h7]

/-- Off space 7 a write that its checks before Table 1.12 refuse is refused by those of a write alike. -/
theorem accessAt_error_of_write {s : State} {c : CtxId} {h : Handle} (h7 : gaSpace h.gbase ≠ 7) {hn n : Nat} {off : Word}
    {e e' : Cause} (hw : checkOwnWrite s c h hn off n = .error e) (ha : accessAt h hn off n = .error e') : e' = e := by
  rw [accessAt_eq, decide_eq_true h7] at ha
  rw [checkOwnWrite_read_error ha] at hw
  exact Except.error.inj hw

/-! ## The words as their meanings -/

section
variable {s : State} {p : Pred} (hp : s.me.holds p = true)
include hp

theorem exec_ld (x : BitVec 5) (h : BitVec 4) (sz : Size) (rt : Rt) (ord : Ord) (off : BitVec 7) :
    exec (.ld p x h sz rt ord off) s = .next (loadWord s h.toNat x.toNat sz rt ord (offM s off sz)) :=
  congrArg _ (wordImm_issues s p _ hp)

theorem exec_st (x : BitVec 5) (h : BitVec 4) (sz : Size) (rt : Rt) (ord : Ord) (off : BitVec 7) :
    exec (.st p x h sz rt ord off) s = .next (storeWord s h.toNat sz rt ord (offM s off sz) (s.x x)) :=
  congrArg _ (wordImm_issues s p _ hp)

variable (hi : s.me.imx = [])
include hi

theorem exec_ldx (x : BitVec 5) (h : BitVec 4) (sz : Size) (rt : Rt) (ord : Ord) (ix : BitVec 5) :
    exec (.ldx p x h sz rt ord ix) s = .next (loadWord s h.toNat x.toNat sz rt ord (offMX s ix sz)) :=
  congrArg _ (word_issues s p _ hi hp)

theorem exec_stx (x : BitVec 5) (h : BitVec 4) (sz : Size) (rt : Rt) (ord : Ord) (ix : BitVec 5) :
    exec (.stx p x h sz rt ord ix) s = .next (storeWord s h.toNat sz rt ord (offMX s ix sz) (s.x x)) :=
  congrArg _ (word_issues s p _ hi hp)

theorem exec_amo (x : BitVec 5) (h : BitVec 4) (y : BitVec 5) (op : AmoOp) (dbl : Bool) (scope : Scope) (ord : Ord) :
    exec (.amo p x h y op dbl scope ord) s
      = .next (amoWord s h.toNat x.toNat op (if dbl then 8 else 4) scope ord (s.x y)) :=
  congrArg _ (word_issues s p _ hi hp)

theorem exec_upd (u : UpdOp) (x : BitVec 5) (h : BitVec 4) (y : BitVec 5) :
    exec (.upd p u x h y) s = .next (updWord s h.toNat u (s.x y) (s.x x)) :=
  congrArg _ (word_issues s p _ hi hp)

end

/-! ## Words that a check refuses -/

theorem Ctx.loadHandle_idle (c : Ctx) (hn : Nat) (h : c.wait = none) : c.loadHandle hn = c.getH hn := by
  simp [Ctx.loadHandle, Ctx.loading, h]

theorem loadWord_refused {s : State} {hn x : Nat} {sz : Size} {rt : Rt} {ord : Ord} {off : Word} {e : Cause}
    (hw : s.me.wait = none) (he : accessAt (s.me.getH hn) hn off (Size.bytes sz) = .error e) :
    loadWord s hn x sz rt ord off = trap s e.1 e.2 := by
  simp only [loadWord, Ctx.loadHandle_idle _ _ hw, he]

theorem storeWord_refused {s : State} {hn : Nat} {sz : Size} {rt : Rt} {ord : Ord} {off v : Word} {e : Cause}
    (he : accessAt (s.me.getH hn) hn off (Size.bytes sz) = .error e) :
    storeWord s hn sz rt ord off v = trap s e.1 e.2 := by
  simp only [storeWord, he]

theorem storeWord_write_refused {s : State} {hn : Nat} {sz : Size} {rt : Rt} {ord : Ord} {off v : Word} {e : Cause}
    (h7 : gaSpace (s.me.getH hn).gbase ≠ 7)
    (he : checkOwnWrite s s.cur (s.me.getH hn) hn off (Size.bytes sz) = .error e) :
    storeWord s hn sz rt ord off v = trap s e.1 e.2 := by
  cases ha : accessAt (s.me.getH hn) hn off (Size.bytes sz) with
  | error e' => rw [storeWord_refused ha, accessAt_error_of_write h7 he ha]
  | ok g => simp only [storeWord, ha, if_neg h7, he]

/-- The check that decides an atomic or an update: on a page of space 7 the rows of Table 1.12 follow HINV and BOUNDS. -/
theorem amoWord_refused {s : State} {hn x n : Nat} {op : AmoOp} {scope : Scope} {ord : Ord} {off : Word} {e : Cause}
    (he : (if gaSpace (s.me.getH hn).gbase = 7 then accessAt (s.me.getH hn) hn off n
      else checkOwnWrite s s.cur (s.me.getH hn) hn off n) = .error e) :
    amoWord s hn x op n scope ord off = trap s e.1 e.2 := by
  simp only [amoWord, he]

theorem updWord_refused {s : State} {hn : Nat} {op : UpdOp} {off v : Word} {e : Cause}
    (he : (if gaSpace (s.me.getH hn).gbase = 7 then accessAt (s.me.getH hn) hn off (updWidth op)
      else checkOwnWrite s s.cur (s.me.getH hn) hn off (updWidth op)) = .error e) :
    updWord s hn op off v = trap s e.1 e.2 := by
  simp only [updWord, he]

/-! ## Words at a page of space 7 -/

theorem loadWord_agent {s : State} {hn x g : Nat} {sz : Size} {rt : Rt} {ord : Ord} {off : Word} (hw : s.me.wait = none)
    (h7 : gaSpace (s.me.getH hn).gbase = 7) (hr : checkRead (s.me.getH hn) hn off (Size.bytes sz) false = .ok g) :
    loadWord s hn x sz rt ord off = agentLoad s (s.me.getH hn) x g (Size.bytes sz) := by
  simp only [loadWord, Ctx.loadHandle_idle _ _ hw, accessAt_agent h7, hr, if_pos h7]

theorem storeWord_agent {s : State} {hn g : Nat} {sz : Size} {rt : Rt} {ord : Ord} {off v : Word}
    (h7 : gaSpace (s.me.getH hn).gbase = 7) (hr : checkRead (s.me.getH hn) hn off (Size.bytes sz) false = .ok g) :
    storeWord s hn sz rt ord off v = agentStore s (s.me.getH hn) hn off g (Size.bytes sz) v.toNat := by
  simp only [storeWord, accessAt_agent h7, hr, if_pos h7]

theorem amoWord_agent {s : State} {hn x n g : Nat} {op : AmoOp} {scope : Scope} {ord : Ord} {off : Word}
    (h7 : gaSpace (s.me.getH hn).gbase = 7) (hr : checkRead (s.me.getH hn) hn off n false = .ok g) :
    amoWord s hn x op n scope ord off = agentRefuse s g n := by
  simp only [amoWord, accessAt_agent h7, hr, if_pos h7]

theorem updWord_agent {s : State} {hn g : Nat} {op : UpdOp} {off v : Word}
    (h7 : gaSpace (s.me.getH hn).gbase = 7) (hr : checkRead (s.me.getH hn) hn off (updWidth op) false = .ok g) :
    updWord s hn op off v = agentRefuse s g (updWidth op) := by
  simp only [updWord, accessAt_agent h7, hr, if_pos h7]

/-! ## The rows of Table 1.12 -/

theorem agentDenied_user {s : State} (h : s.me.sys.pl = false) (g n : Nat) : agentDenied s g n = some (0x51, g) := by
  simp [agentDenied, h]

theorem agentDenied_misfit {s : State} (h : s.me.sys.pl = true) {g n : Nat} (hn : n ≠ 8 ∨ g % 8 ≠ 0) :
    agentDenied s g n = some (0x14, g) := by
  have misfit : (n != 8 || g % 8 != 0) = true := by simpa only [Bool.or_eq_true, bne_iff_ne] using hn
  simp [agentDenied, h, misfit]

theorem agentDenied_passes {s : State} (h : s.me.sys.pl = true) {g : Nat} (hg : g % 8 = 0) : agentDenied s g 8 = none := by
  simp [agentDenied, h, hg]

theorem agentLoad_denied {s : State} {h : Handle} {x g n : Nat} {e : Cause} (hd : agentDenied s g n = some e) :
    agentLoad s h x g n = trap s e.1 e.2 := by simp only [agentLoad, hd]

theorem agentStore_denied {s : State} {h : Handle} {hn g n v : Nat} {off : Word} {e : Cause}
    (hd : agentDenied s g n = some e) : agentStore s h hn off g n v = trap s e.1 e.2 := by simp only [agentStore, hd]

theorem agentLoad_fenced {s : State} {h : Handle} {x g n : Nat} (hd : agentDenied s g n = none)
    (hf : fenced s (pkgOf s.myDie) (.load true) g n = true) : agentLoad s h x g n = trap s 0x51 g := by
  simp only [agentLoad, hd, hf, if_true]

theorem agentLoad_value {s : State} {h : Handle} {x g n v : Nat} (hd : agentDenied s g n = none)
    (hf : fenced s (pkgOf s.myDie) (.load true) g n = false) (ha : agentAcquires (gaOff g) = false)
    (hv : agentRead s s.cur (gaDie g) (gaOff g) x = .val v) : agentLoad s h x g n = finish s 4 4 (.x x (wordOf v)) := by
  simp [agentLoad, hd, hf, hv, ha]

/-- With an empty store buffer nothing performs. -/
theorem drainWhile_empty {s : State} {c : CtxId} (f : BufStore → Bool) (h : (s.ctx c).sbuf = []) :
    drainWhile s c f = s.modCtx c id := by
  simp only [drainWhile, h, List.length_nil, Nat.zero_sub, List.take_nil, List.foldl_nil]
  rfl

theorem settle_empty {s : State} (f : BufStore → Bool) (body : State → State) (h : s.me.sbuf = []) :
    settle s f body = body (s.modMe id) := by
  simp only [settle, h, List.take_nil, List.findSome?_nil]
  rw [drainWhile_empty f h]
  rfl

section
variable {s : State} {h : Handle} {hn g n v : Nat} {off : Word}

theorem agentStore_protected (hd : agentDenied s g n = none) (hp : storePriv s (gaDie g) (gaOff g) = true) :
    agentStore s h hn off g n v = trap s 0x03 g := by simp only [agentStore, hd, hp, if_true]

theorem agentStore_refused {e : Cause} (hd : agentDenied s g n = none) (hp : storePriv s (gaDie g) (gaOff g) = false)
    (he : checkOwnWrite s s.cur h hn off n = .error e) : agentStore s h hn off g n v = trap s e.1 e.2 := by
  simp [agentStore, hd, hp, he]

theorem agentStore_fenced {a : Nat} (hd : agentDenied s g n = none) (hp : storePriv s (gaDie g) (gaOff g) = false)
    (hc : checkOwnWrite s s.cur h hn off n = .ok a) (hf : fenced s (pkgOf s.myDie) .store g n = true) :
    agentStore s h hn off g n v = trap s 0x51 g := by simp [agentStore, hd, hp, hc, hf]

theorem agentStore_performs {a : Nat} (hd : agentDenied s g n = none) (hp : storePriv s (gaDie g) (gaOff g) = false)
    (hc : checkOwnWrite s s.cur h hn off n = .ok a) (hf : fenced s (pkgOf s.myDie) .store g n = false)
    (hw : agentStoreWait s (gaDie g) (gaOff g) v = none) :
    agentStore s h hn off g n v
      = settleBefore s g n (fun s => retire (agentWrite s (some s.cur) (gaDie g) (gaOff g) v) 4) := by
  simp [agentStore, hd, hp, hc, hf, hw]

/-- What an aligned store of a doubleword at level S does once its register takes stores: the checks of a write, then the
fence, then the write itself. -/
theorem agentStore_checks (hd : agentDenied s g n = none) (hp : storePriv s (gaDie g) (gaOff g) = false) :
    (∀ e, checkOwnWrite s s.cur h hn off n = .error e → agentStore s h hn off g n v = trap s e.1 e.2)
    ∧ (checkOwnWrite s s.cur h hn off n = .ok g →
      (fenced s (pkgOf s.myDie) .store g n = true → agentStore s h hn off g n v = trap s 0x51 g)
      ∧ (fenced s (pkgOf s.myDie) .store g n = false → s.me.sbuf = [] → agentStoreWait s (gaDie g) (gaOff g) v = none →
        ∃ u, agentStore s h hn off g n v = retire (agentWrite u (some s.cur) (gaDie g) (gaOff g) v) 4
          ∧ u.me = s.me ∧ u.mem = s.mem ∧ u.dies = s.dies ∧ u.cores = s.cores ∧ u.pkgs = s.pkgs)) := by
  refine ⟨fun e => agentStore_refused hd hp, fun hc => ⟨agentStore_fenced hd hp hc, fun hf hb hw => ⟨s.modMe id, ?_, ?_⟩⟩⟩
  · rw [agentStore_performs hd hp hc hf hw, settleBefore, settle_empty _ _ hb]
    rfl
  · exact ⟨State.modMe_me s id, rfl, rfl, rfl, rfl⟩

end

/-- An atomic or update of space 7 traps at U FENCED, at S misfitting ALIGN and otherwise FENCED (log 29). -/
theorem agentRefuse_rows (s : State) (g n : Nat) :
    (s.me.sys.pl = false → agentRefuse s g n = trap s 0x51 g)
    ∧ (s.me.sys.pl = true → n ≠ 8 ∨ g % 8 ≠ 0 → agentRefuse s g n = trap s 0x14 g)
    ∧ (s.me.sys.pl = true → n = 8 → g % 8 = 0 → agentRefuse s g n = trap s 0x51 g) := by
  refine ⟨fun hu => ?_, fun hs hn => ?_, fun hs hn hg => ?_⟩
  · simp only [agentRefuse, agentDenied_user hu, Option.getD_some]
  · simp only [agentRefuse, agentDenied_misfit hs hn, Option.getD_some]
  · simp only [agentRefuse, hn, agentDenied_passes hs hg, Option.getD_none]

/-! ## Reading and writing the registers of a die's agents (Table 1.12) -/

theorem agentRead_writeOnly (s : State) (c : CtxId) (d : DieId) (x : Nat) :
    ∀ o ∈ writeOnlyRegs, agentRead s c d o x = .val 0 := by
  simp only [writeOnlyRegs, List.forall_mem_cons, List.not_mem_nil, false_implies, implies_true, and_true]
  refine ⟨rfl, rfl, rfl, rfl, rfl, rfl, rfl, rfl, rfl, rfl, rfl, rfl, rfl, rfl⟩

/-- Below the window of the Purser agent, PRIV of a store depends on the register alone. -/
theorem storePriv_eq (s : State) (d : DieId) {o : Nat} (h0 : 0x100000 ≤ o) (h1 : o < 0x160000) :
    storePriv s d o = (readOnlyRegisters.contains o || mRegisters.contains o) := by
  simp [storePriv, h1, show ¬ o < 0x40000 by omega]

theorem storePriv_of_mem {l : List Nat} (hl : ∀ o ∈ l, 0x100000 ≤ o ∧ o < 0x160000) {b : Bool}
    (hb : ∀ o ∈ l, (readOnlyRegisters.contains o || mRegisters.contains o) = b) (s : State) (d : DieId) :
    ∀ o ∈ l, storePriv s d o = b := fun o ho => (storePriv_eq s d (hl o ho).1 (hl o ho).2).trans (hb o ho)

theorem storePriv_writeOnly (s : State) (d : DieId) : ∀ o ∈ writeOnlyRegs, storePriv s d o = false :=
  storePriv_of_mem (by decide) (by decide) s d
theorem storePriv_noStore (s : State) (d : DieId) : ∀ o ∈ noStoreRegs, storePriv s d o = true :=
  storePriv_of_mem (by decide) (by decide) s d
theorem storePriv_stored (s : State) (d : DieId) : ∀ o ∈ storedRegs, storePriv s d o = false :=
  storePriv_of_mem (by decide) (by decide) s d

/-- The registers that the tables of a die's agents name below the Purser's window. -/
def agentRegs : List Nat := writeOnlyRegs ++ noStoreRegs ++ storedRegs

/-- An offset of the agents below the Purser's window that no table names. -/
def Unassigned (o : Nat) : Prop := 0x100000 ≤ o ∧ o < 0x160000 ∧ o ∉ agentRegs

theorem Unassigned.of_notMem {o : Nat} (h0 : 0x100000 ≤ o) (h1 : o < 0x160000) (hw : o ∉ writeOnlyRegs)
    (hn : o ∉ noStoreRegs) (hs : o ∉ storedRegs) : Unassigned o :=
  ⟨h0, h1, by simp only [agentRegs, List.mem_append, not_or]; exact ⟨⟨hw, hn⟩, hs⟩⟩

section
variable {o : Nat} (h : Unassigned o)
include h

theorem agentRead_unassigned (s : State) (c : CtxId) (d : DieId) (x : Nat) : agentRead s c d o x = .val 0 := by
  obtain ⟨k, rfl⟩ : ∃ k, o = k + 0x100000 := ⟨o - 0x100000, by have := h.1; omega⟩
  obtain ⟨h0, h1, hm⟩ := h
  unfold agentRead
  rw [if_neg (by omega), if_neg (by omega), Nat.add_sub_cancel]
  unfold dieRead
  rw [if_neg (by omega)]
  split
  case h_35 => rfl
  all_goals exact absurd (by decide) hm

theorem storePriv_unassigned (s : State) (d : DieId) : storePriv s d o = false := by
  obtain ⟨h0, h1, hm⟩ := h
  have named : ∀ r ∈ readOnlyRegisters ++ mRegisters, r ∈ agentRegs ∨ 0x160000 ≤ r := by decide
  have free : o ∉ readOnlyRegisters ++ mRegisters := fun ho => (named o ho).elim hm (by omega)
  simpa [storePriv_eq s d h0 h1, not_or] using free

theorem clearCounter_unassigned (s : State) (d : DieId) : clearCounter s d o = s.modDie d id := by
  obtain ⟨h0, h1, hm⟩ := h
  unfold clearCounter
  rw [if_neg (by omega)]
  congr 1
  funext k
  split
  case h_8 => rfl
  all_goals exact absurd (by decide) hm

theorem plainWrite_unassigned (s : State) (d : DieId) (v : Nat) : plainWrite s d o v = s := by
  obtain ⟨h0, h1, hm⟩ := h
  unfold plainWrite
  split
  case h_14 => rfl
  all_goals exact absurd (by decide) hm

theorem agentWrite_unassigned (s : State) (c : Option CtxId) (d : DieId) (v : Nat) :
    agentWrite s c d o v = s.modDie d id := by
  have plain : plainWrite (clearCounter s d o) d o v = s.modDie d id := by
    rw [plainWrite_unassigned h, clearCounter_unassigned h]
  obtain ⟨h0, h1, hm⟩ := h
  unfold agentWrite
  rw [if_neg (by omega)]
  split
  case h_9 => exact plain
  all_goals exact absurd (by decide) hm

end

theorem modDie_id_die (s : State) (d e : DieId) : (s.modDie d id).die e = s.die e := by
  by_cases h : e = d
  · rw [h, State.modDie_die_same]; rfl
  · exact State.modDie_die_other s d e id h

end Sys2Proof.Machine
end

section
/-! The checks of an access through a handle, settled. -/

namespace Sys2Proof.Machine

open Sys2Proof.Claims

/-- Settles O23: the checks of R121 one by one, then each word by what its checks answer, then the rows of Table 1.12. -/
theorem accessChecks : Obligations.AccessChecks := by
  unfold Obligations.AccessChecks
  refine ⟨?_, ?_, ?_, ?_⟩
  · intro s c h hn n off va ga inside
    have page : h.inPage va n = decide inside := by simp [Handle.inPage, inside]
    refine ⟨fun hv => ?_, fun hv ha => ?_, fun hv ha hb => ?_, fun hv ha hb => ?_⟩
    · exact ⟨checkRead_invalid hv .., checkOwnWrite_read_error (checkRead_invalid hv ..)⟩
    · have hr := checkRead_misaligned hv hn ha
      exact ⟨hr, checkOwnWrite_read_error hr⟩
    · have hr := checkRead_outside hv hn ha (page.trans (decide_eq_false hb))
      exact ⟨hr, checkOwnWrite_read_error hr⟩
    · have hr := checkRead_inside hv hn ha (page.trans (decide_eq_true hb))
      exact ⟨hr, checkOwnWrite_readonly hr, checkOwnWrite_bundled hr, fun hw hbnd =>
        ⟨fun b hm => checkOwnWrite_watched hr hw hbnd hm, checkOwnWrite_passes hr hw hbnd⟩⟩
  · intro p x y ix h sz rt ord off op dbl scope u s e hpre hp hwait
    dsimp only
    rw [exec_ld hp, exec_st hp, offM_eq s off sz hpre, ← offMX_eq s ix sz, ← Size.bytes_eq_width, ← accessAt_eq, ← accessAt_eq]
    refine ⟨fun he => ⟨?_, ?_⟩, fun h7 he => ?_, fun hi => ?_⟩
    · rw [loadWord_refused hwait he]
    · rw [storeWord_refused he]
    · rw [storeWord_write_refused h7 he]
    rw [exec_ldx hp hi, exec_stx hp hi, exec_amo hp hi, exec_upd hp hi]
    refine ⟨fun he => ⟨?_, ?_⟩, fun h7 he => ?_, fun h7 he => ?_, fun h7 he => ?_, fun h7 => ⟨fun he => ?_, fun he => ?_⟩⟩
    · rw [loadWord_refused hwait he]
    · rw [storeWord_refused he]
    · rw [storeWord_write_refused h7 he]
    · rw [amoWord_refused ((if_neg h7).trans he)]
    · rw [updWord_refused ((if_neg h7).trans he)]
    · rw [amoWord_refused ((if_pos h7).trans ((accessAt_agent h7 ..).trans he))]
    · rw [updWord_refused ((if_pos h7).trans ((accessAt_agent h7 ..).trans he))]
  · intro p x y h sz rt ord off op dbl scope u s g hiss hwait
    obtain ⟨hi, hp⟩ := hiss
    dsimp only
    intro h7
    rw [exec_ld hp, exec_st hp, exec_amo hp hi, exec_upd hp hi, offM_eq s off sz (by simp [hi]), hi,
      ← Size.bytes_eq_width]
    refine ⟨fun hr => ?_, fun hr => ?_, fun hr => ?_⟩
    · rw [loadWord_agent hwait h7 hr, storeWord_agent h7 hr]
      refine ⟨fun hu => ?_, fun hs hn => ?_, fun hs hd hg => ?_⟩
      · rw [agentLoad_denied (agentDenied_user hu g _), agentStore_denied (agentDenied_user hu g _)]; exact ⟨rfl, rfl⟩
      · rw [agentLoad_denied (agentDenied_misfit hs hn), agentStore_denied (agentDenied_misfit hs hn)]; exact ⟨rfl, rfl⟩
      · subst hd
        have ok : agentDenied s g 8 = none := agentDenied_passes hs hg
        refine ⟨fun hf => congrArg _ (agentLoad_fenced ok hf), fun v hf ha hv => congrArg _ (agentLoad_value ok hf ha hv),
          fun hq => congrArg _ (agentStore_protected ok hq), fun hq => ?_⟩
        simp only [Host.Outcome.next.injEq]
        exact agentStore_checks ok hq
    · rw [amoWord_agent h7 hr]
      simpa only [Host.Outcome.next.injEq] using agentRefuse_rows s g _
    · rw [updWord_agent h7 hr]
      simpa only [Host.Outcome.next.injEq] using agentRefuse_rows s g _
  · intro s c d x
    refine ⟨fun o ho => ⟨agentRead_writeOnly s c d x o ho, storePriv_writeOnly s d o ho⟩, storePriv_noStore s d,
      storePriv_stored s d, fun o v h0 h1 hw hn hs => ?_⟩
    have h := Unassigned.of_notMem h0 h1 hw hn hs
    rw [agentWrite_unassigned h]
    exact ⟨agentRead_unassigned h s c d x, storePriv_unassigned h s d, rfl, rfl, rfl, rfl, modDie_id_die s d⟩

end Sys2Proof.Machine
end

section
/-! A chain whose far end the machine finds under a number that its task lists twice. -/

namespace Sys2Proof.Machine

/-- An empty queue of a task chained on die 0, at the context's end. -/
def chainedQueue (inward : Bool) (key : Nat) : Queue :=
  { ends := 2, inward := inward, boq := false, tmo := 0, ckey := key, cdie := 0, ctxQ := [], regQ := [], stallC := 0,
    stallP := 0, cut := false, port := false }

/-- A task that sends on queue 0, and whose queue table lists number 1 twice: first with another chain's key, then with that
of queue 0. -/
def twiceListedTask : Task :=
  { launch := 0, hdie := 0, group := 0, tidx := 0, tx := 0, ty := 0, tz := 0, prio := 0, asid := 0, lease := 0, banks := [],
    bars := [], queues := [(0, chainedQueue false 7), (1, chainedQueue true 8), (1, chainedQueue true 7)], region := none,
    lodcnt := 0, image := [] }

/-- The machine after reset, with that task on context 0. -/
def twiceListed : State := { State.reset with ctxs := [(0, { Ctx.reset with task := some twiceListedTask })] }

/-- The search for the far end goes by the chain's key and finds the second entry of number 1. -/
theorem twiceListed_farEnd : farEnd twiceListed 0 0 = some (0, 1) := by decide

/-- A look at number 1 finds the first, which belongs to another chain. -/
theorem twiceListed_queue : (twiceListed.ctx 0).queue 1 = some (chainedQueue true 8) := rfl

/-- Refutes O52: its clause on chains says of every state that the queue at the far end has the chain's key. The search for the
far end and the look at a queue agree only where a task lists each queue number once, and the statement asks no such thing of
the state: in `twiceListed` they find two entries. -/
theorem not_taskEvents : ¬ Obligations.TaskEvents := by
  unfold Obligations.TaskEvents
  rintro ⟨-, -, -, -, -, chains, -⟩
  obtain ⟨⟨-, -, -, -, -, sameKey, -⟩, -⟩ :=
    chains 0 0 0 1 (chainedQueue false 7) (chainedQueue true 8) twiceListed rfl twiceListed_farEnd twiceListed_queue
  exact absurd sameKey (by decide)

end Sys2Proof.Machine
end
